-- ==== Sys2Proof/Word.lean ====
section
/-! DEFINITION. The word types of the D48: lanes, registers and masks (R28 to R32), and arrays whose missing tail reads as a default. -/

namespace Sys2Proof

/-- A 32-bit register, instruction word or element container (R28, R79). -/
abbrev Word := BitVec 32

/-- A 64-bit value: qm, qb, keys, register pairs (R108, R215). -/
abbrev DWord := BitVec 64

/-- One bit per lane of a group of 128 lanes (R29, R32). -/
abbrev Mask := BitVec 128

/-- The number of lanes of a group (R29). -/
abbrev laneCount : Nat := 128

/-- Reading an array held as a list: an index past the end reads as the default `d`. -/
def getAt {α : Type} (d : α) : List α → Nat → α
  | [], _ => d
  | x :: _, 0 => x
  | _ :: xs, n + 1 => getAt d xs n

/-- Writing an array held as a list: the list is filled up with the default `d` where it is too short. -/
def setAt {α : Type} (d : α) : List α → Nat → α → List α
  | [], 0, v => [v]
  | [], n + 1, v => d :: setAt d [] n v
  | _ :: xs, 0, v => v :: xs
  | x :: xs, n + 1, v => x :: setAt d xs n v

/-- Changing one place of an array held as a list. -/
def modAt {α : Type} (d : α) (xs : List α) (n : Nat) (f : α → α) : List α :=
  setAt d xs n (f (getAt d xs n))

end Sys2Proof
end

