-- ==== Sys2Proof/Config.lean ====
section
/-! DEFINITION. What the spec leaves open: free values without a body (DESIGN CHOICE log 2), and the skid of a halted group, which the spec bounds (R249). -/

namespace Sys2Proof

/-- The n-th free byte: a value that the spec leaves open. Log 2 lists where the model uses one. Nothing constrains it. -/
opaque freeByte : Nat → BitVec 8

/-- The largest number of instructions a halted group retires in skid (R249). -/
def skidLimit : Nat := 3

/-- The 16 clocks after the halt within which a group stops (R249), in twelfths of a nominal clock (R371). -/
def skidTime : Nat := 16 * 12

end Sys2Proof
end

