-- ==== Sys2Proof/Syntax.lean ====
section
/-! DEFINITION. The instructions and steps of the D48: one constructor per row of the opcode table. Encoded instructions carry the fields of their words (R79, R98, R102; st is the stall field S); every other row is a step of one of the device's agents and carries what says which step it is. -/

namespace Sys2Proof

/-- The codes of a page response (R257). -/
inductive PageCode where
  | success | invalidRequest | responseFailure
  deriving DecidableEq, Repr

/-- Every instruction word and every step of the device. -/
inductive Instr where
  /-- Does nothing and holds the group for S stall turns. (R126) -/
  | nop (st : BitVec 3)
  /-- Branches uniformly to pc plus four times the displacement. (R126) -/
  | bra (st : BitVec 3) (d : BitVec 21)
  /-- Writes the return offset to s56 and branches. (R126) -/
  | call (st : BitVec 3) (d : BitVec 21)
  /-- Jumps to the offset in s56, trapping 0x0A if it is misaligned. (R126) -/
  | ret (st : BitVec 3)
  /-- Jumps to the offset in a scalar, and the .L form also writes a link. (R126) -/
  | jmpi (st : BitVec 3) (d : BitVec 6) (a : BitVec 6) (f : BitVec 3)
  /-- Branches when the scalar is nonzero. (R126) -/
  | brnz (st : BitVec 3) (a : BitVec 6) (d : BitVec 15)
  /-- Branches when the scalar is zero. (R126) -/
  | brz (st : BitVec 3) (a : BitVec 6) (d : BitVec 15)
  /-- Pushes a JOIN entry for the join point onto the reconvergence stack. (R37) -/
  | ssy (st : BitVec 3) (d : BitVec 21)
  /-- Splits the active lanes on a predicate, pushing a PATH entry when the split diverges. (R37) -/
  | brp (st : BitVec 3) (p : BitVec 5) (d : BitVec 16)
  /-- Acts as BRP with the predicate inverted per lane. (R37) -/
  | brpn (st : BitVec 3) (p : BitVec 5) (d : BitVec 16)
  /-- Pops the reconvergence stack and resumes the next path or the join. (R37) -/
  | sync (st : BitVec 3)
  /-- Decrements a scalar and branches while the result is nonzero. (R126) -/
  | loop (st : BitVec 3) (a : BitVec 6) (d : BitVec 15)
  /-- Moves the active lanes into XM and resumes, retiring the group when nothing remains. (R37) -/
  | exit (st : BitVec 3)
  /-- Arrives at a crew barrier with a release, then waits for the phase flip and acquires. (R129) -/
  | bar (st : BitVec 3) (b : BitVec 4)
  /-- Arrives at a crew barrier with a release, without waiting. (R129) -/
  | barArv (st : BitVec 3) (b : BitVec 4)
  /-- Waits for the barrier's next completion, then acquires at crew scope. (R129) -/
  | barWait (st : BitVec 3) (b : BitVec 4)
  /-- Sets a barrier's expected count and discards its arrivals. (R129) -/
  | barinit (st : BitVec 3) (b : BitVec 4) (n : BitVec 15)
  /-- Declares live vectors and scratchpad, and stops the group when a pre-emption request is pending. (R131) -/
  | phint (st : BitVec 3) (a : BitVec 6) (b : BitVec 6)
  /-- Writes the mode word from the immediate, trapping on reserved values. (R132) -/
  | setmw (st : BitVec 3) (i : BitVec 21)
  /-- Copies the mode word to a scalar. (R132) -/
  | getmw (st : BitVec 3) (d : BitVec 6)
  /-- Ends any open chain and opens a chain of n members. (R132) -/
  | chain (st : BitVec 3) (n : BitVec 21)
  /-- Takes software trap 0x42 with TVAL holding the immediate. (R133) -/
  | trap (st : BitVec 3) (i : BitVec 21)
  /-- Leaves handler state to PS and returns to TPC. (R248) -/
  | rft (st : BitVec 3)
  /-- Leaves handler state and continues after the instruction that TPC names. (R133) -/
  | rftNext (st : BitVec 3)
  /-- Escalates to the supervisor core with a service code and waits for completion. (R134) -/
  | esc (st : BitVec 3) (i : BitVec 21)
  /-- Takes breakpoint trap 0x40 with TVAL holding the immediate. (R133) -/
  | brkpt (st : BitVec 3) (i : BitVec 21)
  /-- Reads a system register into a scalar. (R135) -/
  | sysrd (st : BitVec 3) (d : BitVec 6) (r : BitVec 12)
  /-- Writes a scalar into a system register, subject to its access code. (R135) -/
  | syswr (st : BitVec 3) (a : BitVec 6) (r : BitVec 12)
  /-- Sets the bits of a system register named by a scalar. (R135) -/
  | syswrSet (st : BitVec 3) (a : BitVec 6) (r : BitVec 12)
  /-- Clears the bits of a system register named by a scalar. (R135) -/
  | syswrClr (st : BitVec 3) (a : BitVec 6) (r : BitVec 12)
  /-- Holds the group until GT reaches an absolute or relative deadline. (R138) -/
  | waitgt (st : BitVec 3) (a : BitVec 6) (f : BitVec 3)
  /-- Reads the 64-bit GT into two scalars from one reading. (R138) -/
  | gtime (st : BitVec 3) (d : BitVec 6)
  /-- Hints the fetch of four code lines into the instruction cache. (R138) -/
  | ipref (st : BitVec 3) (d : BitVec 21)
  /-- Adds two scalars, signed or unsigned, wrapping or saturating. (R140) -/
  | sadd (st : BitVec 3) (d : BitVec 6) (a : BitVec 6) (b : BitVec 6) (f : BitVec 3)
  /-- Subtracts two scalars. (R140) -/
  | ssub (st : BitVec 3) (d : BitVec 6) (a : BitVec 6) (b : BitVec 6) (f : BitVec 3)
  /-- Multiplies two scalars, giving the low 32 bits. (R140) -/
  | smul (st : BitVec 3) (d : BitVec 6) (a : BitVec 6) (b : BitVec 6) (f : BitVec 3)
  /-- Multiplies two scalars, giving the high 32 bits. (R140) -/
  | smulh (st : BitVec 3) (d : BitVec 6) (a : BitVec 6) (b : BitVec 6) (f : BitVec 3)
  /-- Takes the bitwise and of two scalars. (R140) -/
  | sand (st : BitVec 3) (d : BitVec 6) (a : BitVec 6) (b : BitVec 6)
  /-- Takes the bitwise or of two scalars. (R140) -/
  | sor (st : BitVec 3) (d : BitVec 6) (a : BitVec 6) (b : BitVec 6)
  /-- Takes the bitwise exclusive or of two scalars. (R140) -/
  | sxor (st : BitVec 3) (d : BitVec 6) (a : BitVec 6) (b : BitVec 6)
  /-- Shifts a scalar left. (R140) -/
  | sshl (st : BitVec 3) (d : BitVec 6) (a : BitVec 6) (b : BitVec 6)
  /-- Shifts a scalar right logically. (R140) -/
  | sshr (st : BitVec 3) (d : BitVec 6) (a : BitVec 6) (b : BitVec 6)
  /-- Shifts a scalar right arithmetically. (R140) -/
  | ssra (st : BitVec 3) (d : BitVec 6) (a : BitVec 6) (b : BitVec 6)
  /-- Takes the signed or unsigned minimum of two scalars. (R140) -/
  | smin (st : BitVec 3) (d : BitVec 6) (a : BitVec 6) (b : BitVec 6) (f : BitVec 3)
  /-- Takes the signed or unsigned maximum of two scalars. (R140) -/
  | smax (st : BitVec 3) (d : BitVec 6) (a : BitVec 6) (b : BitVec 6) (f : BitVec 3)
  /-- Compares two scalars under a condition, giving 1 or 0. (R140) -/
  | scmp (st : BitVec 3) (d : BitVec 6) (a : BitVec 6) (b : BitVec 6) (f : BitVec 3)
  /-- Selects one of two scalars by the destination's old value. (R140) -/
  | ssel (st : BitVec 3) (d : BitVec 6) (a : BitVec 6) (b : BitVec 6)
  /-- Adds a signed 9-bit immediate to a scalar. (R141) -/
  | saddi (st : BitVec 3) (d : BitVec 6) (a : BitVec 6) (i : BitVec 9)
  /-- Loads a sign-extended 15-bit immediate into a scalar. (R141) -/
  | smovi (st : BitVec 3) (d : BitVec 6) (i : BitVec 15)
  /-- Shifts a scalar left by 15 and ors in the immediate. (R141) -/
  | smovh (st : BitVec 3) (d : BitVec 6) (i : BitVec 15)
  /-- Computes the population count, leading or trailing zeros, or bit reversal of a scalar. (R141) -/
  | sbits (st : BitVec 3) (d : BitVec 6) (a : BitVec 6) (f : BitVec 3)
  /-- Divides scalars, giving a signed or unsigned quotient or remainder. (R141) -/
  | sdiv (st : BitVec 3) (d : BitVec 6) (a : BitVec 6) (b : BitVec 6) (f : BitVec 3)
  /-- Broadcasts a scalar into a vector register of every active lane. (R141) -/
  | s2v (st : BitVec 3) (v : BitVec 7) (a : BitVec 6)
  /-- Copies a vector register of lane n into a scalar. (R141) -/
  | v2s (st : BitVec 3) (v : BitVec 7) (d : BitVec 6) (n : BitVec 7)
  /-- Adds integer elements with wrap or saturation. (R145) -/
  | vadd (st : BitVec 3) (d : BitVec 7) (a : BitVec 7) (b : BitVec 7)
  /-- Subtracts integer elements. (R145) -/
  | vsub (st : BitVec 3) (d : BitVec 7) (a : BitVec 7) (b : BitVec 7)
  /-- Multiplies integer elements, keeping the low part. (R145) -/
  | vmul (st : BitVec 3) (d : BitVec 7) (a : BitVec 7) (b : BitVec 7)
  /-- Multiplies integer elements, keeping the high part. (R145) -/
  | vmulh (st : BitVec 3) (d : BitVec 7) (a : BitVec 7) (b : BitVec 7)
  /-- Multiplies integer elements and adds vd or a fourth operand. (R145) -/
  | vmad (st : BitVec 3) (d : BitVec 7) (a : BitVec 7) (b : BitVec 7)
  /-- Takes the bitwise and of whole registers. (R145) -/
  | vand (st : BitVec 3) (d : BitVec 7) (a : BitVec 7) (b : BitVec 7)
  /-- Takes the bitwise or of whole registers. (R145) -/
  | vor (st : BitVec 3) (d : BitVec 7) (a : BitVec 7) (b : BitVec 7)
  /-- Takes the bitwise exclusive or of whole registers. (R145) -/
  | vxor (st : BitVec 3) (d : BitVec 7) (a : BitVec 7) (b : BitVec 7)
  /-- Shifts integer elements left. (R145) -/
  | vshl (st : BitVec 3) (d : BitVec 7) (a : BitVec 7) (b : BitVec 7)
  /-- Shifts integer elements right logically. (R145) -/
  | vshr (st : BitVec 3) (d : BitVec 7) (a : BitVec 7) (b : BitVec 7)
  /-- Shifts integer elements right arithmetically. (R145) -/
  | vsra (st : BitVec 3) (d : BitVec 7) (a : BitVec 7) (b : BitVec 7)
  /-- Takes the element-wise minimum. (R145) -/
  | vmin (st : BitVec 3) (d : BitVec 7) (a : BitVec 7) (b : BitVec 7)
  /-- Takes the element-wise maximum. (R145) -/
  | vmax (st : BitVec 3) (d : BitVec 7) (a : BitVec 7) (b : BitVec 7)
  /-- Takes the element-wise absolute difference. (R145) -/
  | vabsd (st : BitVec 3) (d : BitVec 7) (a : BitVec 7) (b : BitVec 7)
  /-- Adds a signed 7-bit immediate to integer elements. (R146) -/
  | vaddi (st : BitVec 3) (d : BitVec 7) (a : BitVec 7) (i : BitVec 7)
  /-- Loads a sign-extended 14-bit immediate into vd. (R146) -/
  | vmovi (st : BitVec 3) (d : BitVec 7) (i : BitVec 14)
  /-- Computes per-element bit counts or bit reversal. (R146) -/
  | vbits (st : BitVec 3) (d : BitVec 7) (a : BitVec 7) (f : BitVec 7)
  /-- Adds whole registers with carry in and carry out through p23. (R147) -/
  | vaddc (st : BitVec 3) (d : BitVec 7) (a : BitVec 7) (b : BitVec 7)
  /-- Subtracts whole registers with borrow through p23. (R147) -/
  | vsubb (st : BitVec 3) (d : BitVec 7) (a : BitVec 7) (b : BitVec 7)
  /-- Compares two registers into a predicate with EQ, NE, LT or LE. (R148) -/
  | vcmp (st : BitVec 3) (p : BitVec 5) (c : BitVec 2) (a : BitVec 7) (b : BitVec 7)
  /-- Compares or tests two registers into a predicate with GT, GE, TSTZ or TSTNZ. (R148) -/
  | vcmpx (st : BitVec 3) (p : BitVec 5) (c : BitVec 2) (a : BitVec 7) (b : BitVec 7)
  /-- Selects va or vb by whether vd is nonzero. (R148) -/
  | vsel (st : BitVec 3) (d : BitVec 7) (a : BitVec 7) (b : BitVec 7)
  /-- Copies a register. (R148) -/
  | vmov (st : BitVec 3) (d : BitVec 7) (a : BitVec 7)
  /-- Combines two predicates by a logic function. (R148) -/
  | plog (st : BitVec 3) (d : BitVec 5) (a : BitVec 5) (b : BitVec 5) (f : BitVec 3)
  /-- Sets, copies or inverts a predicate. (R148) -/
  | pset (st : BitVec 3) (d : BitVec 5) (a : BitVec 5) (f : BitVec 3)
  /-- Copies one predicate, or all 24, into a vector register. (R148) -/
  | pget (st : BitVec 3) (d : BitVec 7) (i : BitVec 7)
  /-- Writes a predicate over the effective mask into four scalars. (R149) -/
  | ballot (st : BitVec 3) (d : BitVec 6) (p : BitVec 5)
  /-- Loads one predicate, or all 24, from bits of a vector register. (R148) -/
  | pfrom (st : BitVec 3) (p : BitVec 5) (c : BitVec 2) (a : BitVec 7) (b : BitVec 7)
  /-- Reads va from the lane indexed by vb. (R150) -/
  | shfl (st : BitVec 3) (d : BitVec 7) (a : BitVec 7) (b : BitVec 7)
  /-- Reads va from lane L XOR the immediate. (R150) -/
  | shflx (st : BitVec 3) (d : BitVec 7) (a : BitVec 7) (i : BitVec 7)
  /-- Broadcasts va of one lane to every active lane. (R150) -/
  | bcast (st : BitVec 3) (d : BitVec 7) (a : BitVec 7) (i : BitVec 7)
  /-- Reduces va over the effective mask and writes the result to every active lane. (R152) -/
  | vred (st : BitVec 3) (d : BitVec 7) (a : BitVec 7) (o : BitVec 4)
  /-- Computes an inclusive or exclusive prefix scan over the effective mask. (R153) -/
  | vscan (st : BitVec 3) (d : BitVec 7) (a : BitVec 7) (e : BitVec 1) (o : BitVec 4)
  /-- Writes each lane's index. (R150) -/
  | laneid (st : BitVec 3) (d : BitVec 7)
  /-- Writes counter-based random numbers and advances RNGCTR. (R154) -/
  | rng (st : BitVec 3) (d : BitVec 7)
  /-- Adds float elements with one rounding. (R155) -/
  | fadd (st : BitVec 3) (d : BitVec 7) (a : BitVec 7) (b : BitVec 7)
  /-- Subtracts float elements. (R155) -/
  | fsub (st : BitVec 3) (d : BitVec 7) (a : BitVec 7) (b : BitVec 7)
  /-- Multiplies float elements. (R155) -/
  | fmul (st : BitVec 3) (d : BitVec 7) (a : BitVec 7) (b : BitVec 7)
  /-- Computes a fused multiply-add with one rounding. (R155) -/
  | ffma (st : BitVec 3) (d : BitVec 7) (a : BitVec 7) (b : BitVec 7)
  /-- Takes the float minimum with NaN passing. (R155) -/
  | fmin (st : BitVec 3) (d : BitVec 7) (a : BitVec 7) (b : BitVec 7)
  /-- Takes the float maximum with NaN passing. (R155) -/
  | fmax (st : BitVec 3) (d : BitVec 7) (a : BitVec 7) (b : BitVec 7)
  /-- Clears the sign bit of every element. (R156) -/
  | fabs (st : BitVec 3) (d : BitVec 7) (a : BitVec 7)
  /-- Inverts the sign bit of every element. (R156) -/
  | fneg (st : BitVec 3) (d : BitVec 7) (a : BitVec 7)
  /-- Compares F32 values into a predicate with EQ, NE, LT or LE. (R157) -/
  | fcmp (st : BitVec 3) (p : BitVec 5) (c : BitVec 2) (a : BitVec 7) (b : BitVec 7)
  /-- Compares F32 values into a predicate with GT, GE, UN or OR. (R157) -/
  | fcmpx (st : BitVec 3) (p : BitVec 5) (c : BitVec 2) (a : BitVec 7) (b : BitVec 7)
  /-- Writes a one-hot class mask of an F32 value. (R158) -/
  | fclass (st : BitVec 3) (d : BitVec 7) (a : BitVec 7)
  /-- Rounds float elements to integers in their format. (R155) -/
  | frnd (st : BitVec 3) (d : BitVec 7) (a : BitVec 7)
  /-- Divides F32 values. (R155) -/
  | fdiv (st : BitVec 3) (d : BitVec 7) (a : BitVec 7) (b : BitVec 7)
  /-- Takes the F32 square root. (R155) -/
  | fsqrt (st : BitVec 3) (d : BitVec 7) (a : BitVec 7)
  /-- Evaluates a special function selected by imm7, rounded to nearest-even. (R159) -/
  | fspec (st : BitVec 3) (d : BitVec 7) (a : BitVec 7) (f : BitVec 7)
  /-- Evaluates the active copy of a programmable table, piecewise linear. (R161) -/
  | tblev (st : BitVec 3) (d : BitVec 7) (a : BitVec 7) (t : BitVec 1)
  /-- Loads a table's shadow copy from 2,048 bytes of scratchpad. (R162) -/
  | tblld (st : BitVec 3) (a : BitVec 6) (b : BitVec 6) (t : BitVec 1)
  /-- Requests the exchange of a table's active and shadow copies and bumps its version. (R163) -/
  | tblsw (st : BitVec 3) (t : BitVec 1)
  /-- Converts elements from the source type to DTYPE under its own rounding field. (R164) -/
  | cvt (st : BitVec 3) (d : BitVec 7) (a : BitVec 7) (t : BitVec 4) (r : BitVec 3)
  /-- Scales each element by 2^d in place and rounds once. (R165) -/
  | rqnt (st : BitVec 3) (v : BitVec 7) (a : BitVec 6)
  /-- Computes an exact dot product of four 8-bit elements plus an accumulator. (R166) -/
  | dot4 (st : BitVec 3) (d : BitVec 7) (a : BitVec 7) (b : BitVec 7)
  /-- Computes an exact dot product of eight 4-bit elements plus an accumulator. (R166) -/
  | dot8 (st : BitVec 3) (d : BitVec 7) (a : BitVec 7) (b : BitVec 7)
  /-- Computes an exact dot product of two 16-bit elements plus an accumulator. (R166) -/
  | dot2 (st : BitVec 3) (d : BitVec 7) (a : BitVec 7) (b : BitVec 7)
  /-- Narrows the elements of two registers into one. (R167) -/
  | pack (st : BitVec 3) (d : BitVec 7) (a : BitVec 7) (b : BitVec 7)
  /-- Widens the low or high half of the packed elements. (R168) -/
  | unpk (st : BitVec 3) (d : BitVec 7) (a : BitVec 7) (h : BitVec 1)
  /-- Loads each lane's modulus and Barrett constant, checking well-formedness. (R223) -/
  | setq (st : BitVec 3) (w : BitVec 5)
  /-- Reads each lane's qm and qb into a quad. (R223) -/
  | getq (st : BitVec 3) (w : BitVec 5)
  /-- Adds coefficients modulo q. (R224) -/
  | maddq (st : BitVec 3) (d : BitVec 7) (a : BitVec 7) (b : BitVec 7)
  /-- Subtracts coefficients modulo q. (R224) -/
  | msubq (st : BitVec 3) (d : BitVec 7) (a : BitVec 7) (b : BitVec 7)
  /-- Negates a coefficient modulo q. (R224) -/
  | mnegq (st : BitVec 3) (d : BitVec 7) (a : BitVec 7)
  /-- Multiplies coefficients with Barrett reduction. (R224) -/
  | mmulq (st : BitVec 3) (d : BitVec 7) (a : BitVec 7) (b : BitVec 7)
  /-- Multiplies by a twiddle with Shoup multiplication. (R224) -/
  | mmuls (st : BitVec 3) (d : BitVec 6) (e : BitVec 6) (w : BitVec 5)
  /-- Computes a modular multiply-add with one reduction. (R224) -/
  | mfmaq (st : BitVec 3) (d : BitVec 7) (a : BitVec 7) (b : BitVec 7)
  /-- Reduces a 128-bit value modulo q. (R224) -/
  | mredq (st : BitVec 3) (d : BitVec 7) (a : BitVec 7)
  /-- Centres a residue into the signed range. (R224) -/
  | mctrq (st : BitVec 3) (d : BitVec 7) (a : BitVec 7)
  /-- Performs a Cooley-Tukey or Gentleman-Sande butterfly between lanes at distance 2^d. (R225) -/
  | bfly (st : BitVec 3) (d : BitVec 6) (e : BitVec 6) (w : BitVec 5) (t : BitVec 3) (v : BitVec 1)
  /-- Exchanges pairs between lanes at distance 2^d. (R226) -/
  | pbf (st : BitVec 3) (d : BitVec 6) (e : BitVec 6) (t : BitVec 3)
  /-- Permutes pairs by bit reversal within blocks of 2^k lanes. (R226) -/
  | pbrev (st : BitVec 3) (d : BitVec 6) (e : BitVec 6) (k : BitVec 3)
  /-- Rotates pairs up or down by r within blocks of 2^k lanes. (R226) -/
  | prot (st : BitVec 3) (d : BitVec 6) (e : BitVec 6) (r : BitVec 5) (k : BitVec 3) (v : BitVec 1)
  /-- Multiplies two 64-bit values into a 128-bit quad. (R224) -/
  | mulw (st : BitVec 3) (d : BitVec 7) (a : BitVec 7) (b : BitVec 7)
  /-- Computes the Shoup companion of a value. (R224) -/
  | mshoup (st : BitVec 3) (d : BitVec 7) (a : BitVec 7)
  /-- Loads per lane through a capability after the capability checks. (R200) -/
  | ld (st : BitVec 3) (d : BitVec 7) (c : BitVec 4) (o : BitVec 7) (z : BitVec 3)
  /-- Stores per lane through a capability, combined into line writes. (R200) -/
  | st (st : BitVec 3) (d : BitVec 7) (c : BitVec 4) (o : BitVec 7) (z : BitVec 3)
  /-- Loads a scratchpad word per lane, or pops a FIFO port. (R201) -/
  | lds (st : BitVec 3) (d : BitVec 7) (a : BitVec 7) (i : BitVec 7)
  /-- Stores a scratchpad word per lane, or pushes a FIFO port. (R201) -/
  | sts (st : BitVec 3) (d : BitVec 7) (a : BitVec 7) (i : BitVec 7)
  /-- Loads one word uniformly into a scalar. (R202) -/
  | ldu (st : BitVec 3) (d : BitVec 6) (c : BitVec 4) (i : BitVec 11)
  /-- Stores a scalar uniformly as one line write. (R202) -/
  | stu (st : BitVec 3) (d : BitVec 6) (c : BitVec 4) (i : BitVec 11)
  /-- Performs a memory atomic per lane at the home and returns the old value. (R204) -/
  | atom (st : BitVec 3) (d : BitVec 7) (c : BitVec 4) (o : BitVec 7) (f : BitVec 3)
  /-- Performs an exchange, compare-and-swap or float add atomic at the home. (R205) -/
  | atomx (st : BitVec 3) (d : BitVec 7) (c : BitVec 4) (o : BitVec 7) (f : BitVec 3)
  /-- Performs a scratchpad atomic in the bank. (R204) -/
  | atoms (st : BitVec 3) (d : BitVec 7) (o : BitVec 7) (f : BitVec 3)
  /-- Performs release, acquire or both at a scope. (R206) -/
  | fence (st : BitVec 3) (c : BitVec 2) (k : BitVec 2)
  /-- Watches a memory word at its home until a condition or deadline. (R207) -/
  | waitm (st : BitVec 3) (d : BitVec 6) (c : BitVec 4) (i : BitVec 11)
  /-- Loads a capability from a capability-bearing object. (R208) -/
  | capld (st : BitVec 3) (d : BitVec 4) (c : BitVec 4) (i : BitVec 11)
  /-- Stores a capability into a capability-bearing object. (R208) -/
  | capst (st : BitVec 3) (d : BitVec 4) (c : BitVec 4) (i : BitVec 11)
  /-- Derives a narrower capability by offset, length and rights mask. (R209) -/
  | capsub (st : BitVec 3) (d : BitVec 4) (a : BitVec 4) (b : BitVec 6)
  /-- Copies a capability's 128 bits into four scalars. (R210) -/
  | capinfo (st : BitVec 3) (d : BitVec 6) (a : BitVec 4)
  /-- Changes an SRAM bank's mode in core handler state and writes a status. (R212) -/
  | bmode (st : BitVec 3) (d : BitVec 6) (a : BitVec 6) (b : BitVec 6)
  /-- Reads an SRAM bank's current mode. (R211) -/
  | bmodeQ (st : BitVec 3) (d : BitVec 6) (a : BitVec 6)
  /-- Creates a linear copy job in one of four directions. (R233) -/
  | cpy (st : BitVec 3) (a : BitVec 6) (c : BitVec 4) (d : BitVec 4) (r : BitVec 2)
  /-- Creates a tile copy job that walks a layout record. The memory side's capability is c (csrc), or, for .SM, d (cdst)
  (R232, DEDUCED log 20). (R234) -/
  | cpyt (st : BitVec 3) (a : BitVec 6) (c d : BitVec 4) (l : BitVec 3) (r : BitVec 1)
  /-- Creates a multicast job that delivers a block into peer crews' scratchpads. (R237) -/
  | cpym (st : BitVec 3) (a : BitVec 6) (c : BitVec 4) (o : BitVec 3) (r : BitVec 1)
  /-- Creates a gather job of indexed rows into scratchpad. (R236) -/
  | cpyg (st : BitVec 3) (a : BitVec 6) (c : BitVec 4) (f : BitVec 4)
  /-- Creates a scatter job of scratchpad rows to indexed memory. (R236) -/
  | cpys (st : BitVec 3) (a : BitVec 6) (c : BitVec 4) (f : BitVec 4)
  /-- Creates a reducing copy job that combines source words into the destination. (R235) -/
  | cred (st : BitVec 3) (a : BitVec 6) (c : BitVec 4) (d : BitVec 4) (o : BitVec 2) (r : BitVec 2)
  /-- Closes the open batch and writes its number. (R238) -/
  | cbatch (st : BitVec 3) (d : BitVec 6)
  /-- Parks until every covered batch is visible at a scope, then acquires and returns CSTAT. (R239) -/
  | cwait (st : BitVec 3) (d : BitVec 6) (c : BitVec 2)
  /-- Tests without waiting whether the covered batches are visible. (R239) -/
  | ctest (st : BitVec 3) (d : BitVec 6) (c : BitVec 2)
  /-- Creates a token job that writes a value once the covered batches are visible at dev scope. (R240) -/
  | ctoken (st : BitVec 3) (c : BitVec 4) (a : BitVec 6) (b : BitVec 6) (f : BitVec 3)
  /-- Adds a byte count to a barrier object and arms it. (R241) -/
  | boinit (st : BitVec 3) (n : BitVec 3) (a : BitVec 6)
  /-- Parks until the barrier object is armed with its count reached, then acquires. (R241) -/
  | bowait (st : BitVec 3) (n : BitVec 3)
  /-- Tests a barrier object without waiting. (R241) -/
  | botest (st : BitVec 3) (d : BitVec 6) (n : BitVec 3)
  /-- Writes a layout record from eight scalars. (R271) -/
  | mlay (st : BitVec 3) (n : BitVec 3) (a : BitVec 6)
  /-- Reads a layout record into eight scalars. (R271) -/
  | mlayGet (st : BitVec 3) (n : BitVec 3) (a : BitVec 6)
  /-- Sets the gang register from a scalar, checking its list. (R273) -/
  | mgang (st : BitVec 3) (a : BitVec 6)
  /-- Reads the gang register. (R273) -/
  | mgangGet (st : BitVec 3) (d : BitVec 6)
  /-- Issues a dense matrix multiply-accumulate into a tile, solo or into a gang latch. (R279) -/
  | mma (st : BitVec 3) (t : BitVec 6) (a : BitVec 7) (l : BitVec 3) (r : BitVec 1)
  /-- Issues an N:M sparse matrix multiply-accumulate into a tile. (R279) -/
  | mmas (st : BitVec 3) (t : BitVec 6) (a : BitVec 7) (l : BitVec 3) (r : BitVec 1) (p : BitVec 4)
  /-- Creates a matrix job that zeroes n accumulator tiles. (R281) -/
  | accz (st : BitVec 3) (t : BitVec 6) (n : BitVec 3)
  /-- Creates a job that loads a tile from scratchpad or memory through a layout record. (R282) -/
  | accld (st : BitVec 3) (a : BitVec 6) (c : BitVec 4) (l : BitVec 3) (f : BitVec 1)
  /-- Creates a job that drains a tile, optionally scaled and converted, to scratchpad or memory. (R283) -/
  | accst (st : BitVec 3) (a : BitVec 6) (c : BitVec 4) (l : BitVec 3) (r : BitVec 2) (x : BitVec 1) (f : BitVec 1)
  /-- Allocates an aligned block of accumulator tiles, or records a reservation on failure. (R284) -/
  | accalloc (st : BitVec 3) (d : BitVec 6) (n : BitVec 3) (p : BitVec 5)
  /-- Reads the crew's held-tile mask into two scalars. (R284) -/
  | accallocQ (st : BitVec 3) (d : BitVec 6)
  /-- Frees n held tiles after their matrix jobs complete. (R284) -/
  | accfree (st : BitVec 3) (a : BitVec 6) (n : BitVec 3)
  /-- Invalidates the group's reuse latch. (R275) -/
  | mrel (st : BitVec 3)
  /-- Ends the effective lanes of a wake, saving the frame and checking the slate in, or freeing it on close. (R306) -/
  | wyield (st : BitVec 3)
  /-- Ends the effective lanes and frees their slates. (R306) -/
  | wclose (st : BitVec 3)
  /-- Posts a record from each lane, filling KEY and TS from the slate. (R307) -/
  | wemit (st : BitVec 3) (d : BitVec 7) (t : BitVec 1) (k : BitVec 1)
  /-- Ends a merge wake, keeping the survivor and freeing the partner. (R306) -/
  | wmerge (st : BitVec 3)
  /-- Writes a slate's START, END, KEY, COUNT and FLAGS into seven registers. (R308) -/
  | winfo (st : BitVec 3) (d : BitVec 7) (p : BitVec 1)
  /-- Reads the core's watermark for the stream into two scalars. (R308) -/
  | wmark (st : BitVec 3) (d : BitVec 6)
  /-- Posts a record from each lane to a stream, unordered or ordered with statuses. (R309) -/
  | rpost (st : BitVec 3) (d : BitVec 7) (a : BitVec 7) (m : BitVec 7)
  /-- Posts a node record from each lane to a node bin. (R309) -/
  | bpost (st : BitVec 3) (d : BitVec 7) (a : BitVec 7)
  /-- Moves a slate's END and sets CEND. (R310) -/
  | wext (st : BitVec 3) (a : BitVec 7)
  /-- Sends a query to the launch's work distributor as a job of the open batch. (R331) -/
  | wdq (st : BitVec 3) (a : BitVec 6)
  /-- Parks until a stage ring slot shows the expected phase, then acquires. (R332) -/
  | srwait (st : BitVec 3) (h : BitVec 1) (r : BitVec 2) (l : BitVec 3)
  /-- Waits on a stage ring slot and phase given in a scalar. (R332) -/
  | srwaitR (st : BitVec 3) (a : BitVec 6) (r : BitVec 2)
  /-- Releases and counts one signal on a stage ring slot. (R332) -/
  | srsig (st : BitVec 3) (r : BitVec 2) (l : BitVec 3)
  /-- Signals a stage ring slot given in a scalar. (R332) -/
  | srsigR (st : BitVec 3) (a : BitVec 6) (r : BitVec 2)
  /-- Waits on, or tests, a completion counter against a value, then acquires. (R333) -/
  | cntwait (st : BitVec 3) (d : BitVec 6) (a : BitVec 6) (f : BitVec 3)
  /-- Cancels a launch, graph, phase or job named by a counter id. (R334) -/
  | cancel (st : BitVec 3) (a : BitVec 6) (f : BitVec 3)
  /-- Releases and submits a launch block from device code, then writes acceptance or refusal. (R335) -/
  | launchq (st : BitVec 3) (d : BitVec 6) (a : BitVec 6) (c : BitVec 4)
  /-- Prefixes a base instruction with a guard, zeroing, rounding, type and fourth operand. (R93) -/
  | pfx (p : BitVec 5) (n : BitVec 1) (z : BitVec 1) (r : BitVec 3) (t : BitVec 4) (c : BitVec 7)
  /-- A group issues a word whose OP is not an instruction and takes trap 0x01 with TVAL holding the word. (R103) -/
  | undefinedOpcode (w : BitVec 32)
  /-- A fetch at or beyond CODESIZE, or CTHSIZE in core handler state, takes trap 0x08 with TPC and TVAL holding the offset. (R124) -/
  | instructionFetchFault (off : BitVec 32)
  /-- After 16,777,216 ticks in user handler state, the group takes trap 0x51 and event kind 13 is posted. (R251) -/
  | watchdog (core slot grp : Nat)
  /-- A waiting eligible launch rises one priority level every 16,384 clocks, up to 255. (R55) -/
  | priorityAging (launch : Nat)
  /-- A crew fully parked for 65,536 clocks with runnable work queued for its core may be saved to admit that work. (R55) -/
  | eviction (core slot : Nat)
  /-- A launch entry is taken: the block is checked and the launch accepted with a sequence number or refused. (R319) -/
  | launchEntry (part queue : Nat)
  /-- A wait-counter entry holds its queue until the counter wait is met. (R314) -/
  | waitCounterEntry (part queue : Nat)
  /-- A signal-counter entry adds an amount to a counter's VALUE. (R313) -/
  | signalCounterEntry (part queue : Nat)
  /-- Binds a stream to a window launch, or a node bin to a node launch. (R317) -/
  | streamAttach (part queue : Nat)
  /-- Unbinds a stream or node bin and stops acceptance of its records or posts. (R317) -/
  | streamDetach (part queue : Nat)
  /-- Creates a user queue bound to a context serial, with its ring, head write-back and save area. (R313) -/
  | queueCreate (part queue : Nat)
  /-- Destroys a queue and discards its untaken entries. (R314) -/
  | queueDestroy (part queue : Nat)
  /-- A privileged cancel entry cancels a level by counter id. (R46) -/
  | cancelEntry (part queue : Nat)
  /-- When every crew of a cancelled launch has halted, the slots free and the launch completes as cancelled. (R46) -/
  | cancelComplete (launch : Nat)
  /-- A privileged pre-empt entry requests pre-emption of a crew slot on a core. (R313) -/
  | preEmptEntry (part queue : Nat)
  /-- When the pre-emption deadline passes, every group is stopped at its next boundary, handlers included. (R259) -/
  | forcedSave (core slot : Nat)
  /-- Once every group has stopped, the save engine drains results, jobs and writes, writes the image and frees the slot. (R260) -/
  | crewSave (core slot : Nat)
  /-- A saved crew is placed on a core, every saved item is reloaded, and buffered line writes are resent. (R262) -/
  | crewRestore (launch crew core : Nat)
  /-- An accepted launch whose waits are all met becomes eligible and starts aging. (R321) -/
  | launchEligible (launch : Nat)
  /-- When its groups have retired and its writes and jobs are visible, the launch completes and its counters increment. (R45) -/
  | launchComplete (launch : Nat)
  /-- A group in WAITGT issues again once GT reaches its deadline. (R138) -/
  | waitgtDeadline (core slot grp : Nat)
  /-- A parked WAITM re-reads its word at the home 16 to 256 ticks after the last read and completes on condition or deadline. (R207) -/
  | waitmPoll (core slot grp : Nat)
  /-- A load request at a line's home slice returns the data with a lease expiry and records E. (R177) -/
  | homeLoad (msg : Nat)
  /-- A gateway cache serves a remote-homed line within its own lease, or fetches it from the home. (R179) -/
  | gatewayLoad (msg : Nat)
  /-- A line write is performed at its home in arrival order and returns its GWCT. (R180) -/
  | homeWrite (msg : Nat)
  /-- A memory atomic is performed at its home, or at the CXL port, as a write in coherence order. (R189) -/
  | homeAtomic (msg : Nat)
  /-- An acknowledgement raises LGWCT, lowers USC and lets a buffered line write to the same line proceed. (R181) -/
  | storeAck (msg : Nat)
  /-- A load, atomic or CAPLD result arrives and is written, releasing the scoreboard. (R85) -/
  | loadResponse (msg : Nat)
  /-- A copy job starts once earlier stores are visible, the tracker allows it and, for a token, its batches are visible. (R228) -/
  | jobStart (core job : Nat)
  /-- A job completes when all its writes are performed, freeing its slot and possibly making a batch visible. (R228) -/
  | jobComplete (core job : Nat)
  /-- A multicast branch writes into a receiver's scratchpad and lowers its barrier object's count. (R237) -/
  | multicastDelivery (msg : Nat)
  /-- The work distributor answers a query with the next tile or the end-of-work token. (R326) -/
  | wdQuery (core job : Nat)
  /-- A matrix job starts on the units when the tracker allows it. (R280) -/
  | matrixJobStart (core job : Nat)
  /-- A matrix job completes when every tile write is performed. (R280) -/
  | matrixJobComplete (core job : Nat)
  /-- A write of ACCOWNk takes effect and unlocks the region once matrix jobs on it are complete. (R286) -/
  | accownTakeEffect (core region : Nat)
  /-- A table's copies exchange at the first clock with no old-version evaluation in flight. (R163) -/
  | tableSwap (core table : Nat)
  /-- A posted record reaches the ingress node and is routed to its partition core by key hash, or to all cores. (R290) -/
  | recordIngress (msg : Nat)
  /-- A partition core accepts a record, finding or opening slates, raising merges and closes and updating watermarks. (R299) -/
  | recordAccept (msg : Nat)
  /-- The head item of a checked-in slate's pending list starts as a wake lane in a gathered group. (R299) -/
  | wakeStart (core launch entry count : Nat)
  /-- Acceptance of an ordered lane's record writes its status and lets the next lane post. (R309) -/
  | rpostOrdAcceptance (msg : Nat)
  /-- After tau ticks since the oldest record entered, a node bin forms a group from its oldest records. (R325) -/
  | nodeBinTimer (part bin : Nat)
  /-- A host completes CXL back-invalidation of its copies, letting the home perform the held write and return its GWCT. (R180) -/
  | backInvalidationResponse (msg : Nat)
  /-- The package controller filters a bridge-stream record and reposts it into the destination partition or refuses it. (R329) -/
  | bridgeFilter (msg : Nat)
  /-- The entry invalidation completes and OTINV[63] reads 0. (R356) -/
  | otinvDone (part : Nat)
  /-- The range is zero in HBM and the slice, and SCRUB[63] reads 0. (R365) -/
  | scrubDone (part : Nat)
  /-- A stack's clocks change to the selected state within 20 microseconds. (R371) -/
  | perfStateChange (stack : Nat)
  /-- A stop completes once every outstanding result of the stopped groups is written, or rolled back. (R264) -/
  | debugStopComplete (part : Nat)
  /-- Verification ends, the image runs or is rejected, and event kind 12 is posted. (R368) -/
  | fwloadResult (part : Nat)
  /-- A variable-latency result of SDIV, FDIV, FSQRT, MSHOUP, WINFO, WMARK, CTEST, BOTEST or ACCALLOC is written and releases the scoreboard. (R85) -/
  | variableLatencyResult (core slot grp result : Nat)
  /-- GT reaches a group's LGWCT or a batch's largest GWCT, ending a release(dev) or making the batch visible at dev scope for CWAIT and CTEST. (R187) -/
  | globalWriteCompletionTimeReached (core slot grp : Nat)
  /-- The home's grant arrives at a gateway cache, which installs the line with expiry Xg and serves the waiting core. (R179) -/
  | gatewayFillResponse (msg : Nat)
  /-- Spilled slates return from the spill object, so records waiting on their key and the slates' pending items may proceed. (R301) -/
  | slateFetchComplete (core launch slate : Nat)
  /-- The host reports a CXL.cache write or atomic on a host-memory line globally observed, and the port returns GWCT and releases its exclusive hold. (R351) -/
  | cxlCacheGloballyObserved (msg : Nat)
  /-- A host write of the tail index to a queue's kick page makes the entries up to it available. (R311) -/
  | kick (part queue off size : Nat) (val : BitVec 32)
  /-- A page response reissues the faulting instruction, or leads to trap 0x11, or is discarded as stale. (R257) -/
  | pageResponse (part index : Nat) (code : PageCode) (frames : List Nat)
  /-- An ATS Invalidation Request completes after affected accesses are performed and probes discarded. (R358) -/
  | atsInvalidation (part va pages : Nat)
  /-- A 16-byte supervisor read pops the oldest escalation entry. (R253) -/
  | escQueuePop (core : Nat)
  /-- A supervisor write naming a slot and group completes its escalation and resumes the group. (R253) -/
  | escCompletion (core : Nat) (val : BitVec 64)
  /-- A 16-byte supervisor write posts event kind 14 to the partition's event queue. (R253) -/
  | supervisorEventPost (core : Nat) (data : BitVec 128)
  /-- The supervisor core reads or writes a stopped group's state through its group window. (R255) -/
  | groupWindowAccess (core off : Nat) (write : Option (BitVec 32))
  /-- The supervisor core reads or writes a crew's scratchpad through its window, with zero reads and dropped writes beyond the allocation. (R253) -/
  | scratchpadWindowAccess (core off : Nat) (write : Option (BitVec 32))
  /-- A host access to the partition's HDM range is mapped to a slice, or answered with poison beyond the range. (R350) -/
  | hostHdmAccess (part off : Nat) (write : Option (BitVec 8))
  /-- A host write to a partition register without behaviour of its own updates it. (R354) -/
  | registerWrite (part off : Nat) (val : BitVec 64)
  /-- A write to OTINV starts dropping every cached copy of an object table entry. (R356) -/
  | otinv (part : Nat) (val : BitVec 64)
  /-- A write to SCRUB starts zeroing a slice-local range at the home. (R365) -/
  | scrub (part : Nat) (val : BitVec 64)
  /-- A partition requests performance states for its stacks. (R371) -/
  | psreqWrite (part : Nat) (val : BitVec 64)
  /-- While a thermal or current limit is exceeded, the stack's state number rises one per microsecond with a clamp event. (R372) -/
  | clampRaise (stack : Nat) (die : Option Nat) (value : Nat)
  /-- Once the condition is well below the limit, the state returns one per millisecond with a clamp event. (R372) -/
  | clampReturn (stack : Nat) (die : Option Nat) (value : Nat)
  /-- Sets a crew's debug attach bit so debug traps take core routing. (R263) -/
  | dbgAttach (part core slot : Nat)
  /-- Clears a crew's debug attach bit. (R263) -/
  | dbgDetach (part core slot : Nat)
  /-- Stops every group of a crew at its next instruction boundary. (R263) -/
  | dbgStop (part core slot : Nat)
  /-- Stops one group and halts its crew. (R263) -/
  | dbgStopGroup (part core slot grp : Nat)
  /-- Resumes every group the debug node stopped, at its PC field. (R263) -/
  | dbgResume (part core slot : Nat)
  /-- Sets SSTEP of a stopped group and resumes it. (R263) -/
  | dbgStep (part core slot grp : Nat)
  /-- A CORERST write resets one core of the partition, clearing its state and fence and restarting its supervisor core. (R362) -/
  | corerst (part : Nat) (val : BitVec 64)
  /-- A FWLOAD write asks the security engine to verify and load a firmware image. (R368) -/
  | fwload (part : Nat) (val : BitVec 64)
  /-- Binds a partition to a port and function with its cores, slices, ways and hypervisor mark. (R366) -/
  | bind (part port function : Nat) (cores : BitVec 48) (slices : BitVec 192) (ways : List (BitVec 16)) (hypervisor : Bool)
  /-- Starts moving cores or slices between partitions, with back-invalidation, stopping, zeroing and clearing. (R364) -/
  | rebind (giver taker : Nat) (cores : BitVec 48) (slices : BitVec 192)
  /-- After zeroing and the lease wait, the new binding takes effect and event kind 11 is posted. (R364) -/
  | rebindComplete
  /-- Sets the partitions' gateway cache way masks. (R353) -/
  | ways (gateway part : Nat) (mask : BitVec 16)
  /-- Sets the network head time-out T. (R341) -/
  | nett (ticks : Nat)
  /-- Sets the highest performance state allowed per stack. (R366) -/
  | pscap (stack cap : Nat)
  /-- Sets the thermal limit per die and current limit per stack. (R366) -/
  | clamp (stack : Nat) (thermal : List Nat) (current : Nat)
  /-- Writes an owner key slot's digests and role. (R367) -/
  | enroll (slot : Nat) (ecDigest lmsDigest : BitVec 384) (role : BitVec 2) (signer : Option Nat)
  /-- Revokes an owner key slot. (R367) -/
  | revoke (slot : Nat) (signer : Option Nat)
  /-- Raises the fused minimum security version for an image type. (R366) -/
  | svn (image version : Nat)
  /-- Power-on reset starts GT from zero and the boot ROM trains the HBM and awaits firmware. (R373) -/
  | powerOnReset
  /-- An error is detected in ECC-protected storage or a link; a soft error is corrected and counted, and an uncorrectable one poisons its line. (R370) -/
  | eccError (owner line : Nat) (uncorrectable : Bool)
  /-- An SPDM 1.2 session is established, or ended, on the management endpoint, authenticated by the fabric manager key slot. (R366) -/
  | spdmSession (establish : Bool) (digest : BitVec 384)
  /-- A core cache drops a leased line, so later loads of it go to the home or gateway. (R177) -/
  | coreCacheLineDrop (core line : Nat)
  /-- An uncorrectable flit is resent from the link's retry buffer. (R347) -/
  | linkRetry (router out : Nat)
  /-- A link that fails 16 retries in a row is reported to the package controller. (R347) -/
  | linkFailureReport (router out : Nat)
  /-- A router output grants the oldest requesting packet with room and forwards it along a productive hop. (R340) -/
  | packetForward (router inp out : Nat)
  /-- A buffer head that has not left for T network clocks is marked suspect. (R341) -/
  | suspectMark (router inp : Nat)
  /-- The garnet token reaches a router and is captured for its oldest suspect head, or passes on. (R342) -/
  | garnetTokenArrival
  /-- The sink of a drained packet is acknowledged and the capturing router releases the token. (R343) -/
  | gutterSinkAck
  /-- The detector samples the graph twice at least 1,024 clocks apart and detaches its bins and streams when quiescent. (R328) -/
  | quiescenceSample (part counter : Nat)
  /-- An uncorrectable error in supervisor core data stops the supervisor core and fences the core. (R267) -/
  | supervisorCoreError (core line : Nat)
  /-- A group ready and unchosen for 1,024 clocks goes ahead of every other in issue selection. (R53) -/
  | issueStarvation (core slot grp : Nat)
  deriving DecidableEq, Repr

end Sys2Proof
end

