-- ==== Sys2Proof/WellFormed.lean ====
section
/-! DEFINITION. The field values that are not reserved (R81, R99): an instruction that breaks one takes trap 0x02. -/

namespace Sys2Proof

/-- The system register numbers of R136; every other number is reserved. -/
def sysRegKnown (n : Nat) : Bool :=
  n ≤ 0x14 || (0x20 ≤ n && n ≤ 0x24) || n = 0x28 || (0x30 ≤ n && n ≤ 0x33)

/-- Every field of the instruction holds an assigned value. -/
def Instr.wf : Instr → Bool
  | .nop _ => true
  | .bra _ _ => true
  | .call _ _ => true
  | .ret _ => true
  | .jmpi _ d _ f => decide (f.toNat < 2) && decide (f.toNat = 1 ∨ d.toNat = 0)
  | .brnz _ _ _ => true
  | .brz _ _ _ => true
  | .ssy _ _ => true
  | .brp _ p _ => decide (p.toNat < 24)
  | .brpn _ p _ => decide (p.toNat < 24)
  | .sync _ => true
  | .loop _ _ _ => true
  | .exit _ => true
  | .bar _ _ => true
  | .barArv _ _ => true
  | .barWait _ _ => true
  | .barinit _ _ n => decide (n.toNat ≤ 16)
  | .phint _ a b => decide (a.toNat ≤ 60) && decide (b.toNat ≤ 60)
  | .setmw _ _ => true
  | .getmw _ _ => true
  | .chain _ n => decide (1 ≤ n.toNat) && decide (n.toNat ≤ 8)
  | .trap _ _ => true
  | .rft _ => true
  | .rftNext _ => true
  | .esc _ _ => true
  | .brkpt _ _ => true
  | .sysrd _ _ r => sysRegKnown r.toNat
  | .syswr _ _ r => sysRegKnown r.toNat
  | .syswrSet _ _ r => sysRegKnown r.toNat
  | .syswrClr _ _ r => sysRegKnown r.toNat
  | .waitgt _ a f => decide (a.toNat ≤ 62) && decide (f.toNat < 2)
  | .gtime _ d => decide (d.toNat ≤ 62)
  | .ipref _ _ => true
  | .sadd _ _ _ _ f => decide (f.toNat < 2)
  | .ssub _ _ _ _ f => decide (f.toNat < 2)
  | .smul _ _ _ _ f => decide (f.toNat < 2)
  | .smulh _ _ _ _ f => decide (f.toNat < 2)
  | .sand _ _ _ _ => true
  | .sor _ _ _ _ => true
  | .sxor _ _ _ _ => true
  | .sshl _ _ _ _ => true
  | .sshr _ _ _ _ => true
  | .ssra _ _ _ _ => true
  | .smin _ _ _ _ f => decide (f.toNat < 2)
  | .smax _ _ _ _ f => decide (f.toNat < 2)
  | .scmp _ _ _ _ f => decide (f.toNat < 6)
  | .ssel _ _ _ _ => true
  | .saddi _ _ _ _ => true
  | .smovi _ _ _ => true
  | .smovh _ _ _ => true
  | .sbits _ _ _ f => decide (f.toNat < 4)
  | .sdiv _ _ _ _ f => decide (f.toNat < 4)
  | .s2v _ _ _ => true
  | .v2s _ _ _ _ => true
  | .vadd _ _ _ _ => true
  | .vsub _ _ _ _ => true
  | .vmul _ _ _ _ => true
  | .vmulh _ _ _ _ => true
  | .vmad _ _ _ _ => true
  | .vand _ _ _ _ => true
  | .vor _ _ _ _ => true
  | .vxor _ _ _ _ => true
  | .vshl _ _ _ _ => true
  | .vshr _ _ _ _ => true
  | .vsra _ _ _ _ => true
  | .vmin _ _ _ _ => true
  | .vmax _ _ _ _ => true
  | .vabsd _ _ _ _ => true
  | .vaddi _ _ _ _ => true
  | .vmovi _ _ _ => true
  | .vbits _ _ _ f => decide (f.toNat < 4)
  | .vaddc _ _ _ _ => true
  | .vsubb _ _ _ _ => true
  | .vcmp _ p _ _ _ => decide (p.toNat < 24)
  | .vcmpx _ p _ _ _ => decide (p.toNat < 24)
  | .vsel _ _ _ _ => true
  | .vmov _ _ _ => true
  | .plog _ d a b _ => decide (d.toNat < 24) && decide (a.toNat < 24) && decide (b.toNat < 24)
  | .pset _ d a f => decide (f.toNat < 4) && decide (d.toNat < 24) && decide (if f.toNat < 2 then a.toNat = 0 else a.toNat < 24)
  | .pget _ _ i => decide (i.toNat < 24 ∨ i.toNat = 127)
  | .ballot _ d p => decide (d.toNat ≤ 60) && decide (p.toNat < 24)
  | .pfrom _ p c _ b => decide (c.toNat < 2) && decide (if c.toNat = 0 then p.toNat < 24 ∧ b.toNat < 32 else p.toNat = 0 ∧ b.toNat = 0)
  | .shfl _ _ _ _ => true
  | .shflx _ _ _ _ => true
  | .bcast _ _ _ _ => true
  | .vred _ _ _ o => decide (o.toNat ≤ 8)
  | .vscan _ _ _ _ o => decide (o.toNat ≤ 8)
  | .laneid _ _ => true
  | .rng _ _ => true
  | .fadd _ _ _ _ => true
  | .fsub _ _ _ _ => true
  | .fmul _ _ _ _ => true
  | .ffma _ _ _ _ => true
  | .fmin _ _ _ _ => true
  | .fmax _ _ _ _ => true
  | .fabs _ _ _ => true
  | .fneg _ _ _ => true
  | .fcmp _ p _ _ _ => decide (p.toNat < 24)
  | .fcmpx _ p _ _ _ => decide (p.toNat < 24)
  | .fclass _ _ _ => true
  | .frnd _ _ _ => true
  | .fdiv _ _ _ _ => true
  | .fsqrt _ _ _ => true
  | .fspec _ _ _ f => decide (f.toNat < 6)
  | .tblev _ _ _ _ => true
  | .tblld _ _ b _ => decide (b.toNat ≤ 62)
  | .tblsw _ _ => true
  | .cvt _ _ _ _ r => decide (r.toNat < 5)
  | .rqnt _ _ _ => true
  | .dot4 _ _ _ _ => true
  | .dot8 _ _ _ _ => true
  | .dot2 _ _ _ _ => true
  | .pack _ _ _ _ => true
  | .unpk _ _ _ _ => true
  | .setq _ _ => true
  | .getq _ _ => true
  | .maddq _ _ _ _ => true
  | .msubq _ _ _ _ => true
  | .mnegq _ _ _ => true
  | .mmulq _ _ _ _ => true
  | .mmuls _ _ _ _ => true
  | .mfmaq _ _ _ _ => true
  | .mredq _ _ _ => true
  | .mctrq _ _ _ => true
  | .bfly _ _ _ _ t _ => decide (t.toNat < 7)
  | .pbf _ _ _ t => decide (t.toNat < 7)
  | .pbrev _ _ _ _ => true
  | .prot _ _ _ r k _ => decide (r.toNat < 2 ^ k.toNat)
  | .mulw _ _ _ _ => true
  | .mshoup _ _ _ => true
  | .ld _ _ _ _ z => decide (z.toNat < 5)
  | .st _ _ _ _ z => decide (z.toNat < 5)
  | .lds _ _ _ _ => true
  | .sts _ _ _ _ => true
  | .ldu _ _ _ _ => true
  | .stu _ _ _ _ => true
  | .atom _ _ _ _ _ => true
  | .atomx _ d _ _ f => decide (f.toNat < 3) && decide (f.toNat = 1 → d.toNat % 2 = 0)
  | .atoms _ _ _ _ => true
  | .fence _ _ k => decide (k.toNat < 3)
  | .waitm _ d _ _ => decide (d.toNat ≤ 60)
  | .capld _ _ _ _ => true
  | .capst _ _ _ _ => true
  | .capsub _ _ _ b => decide (b.toNat ≤ 60)
  | .capinfo _ d _ => decide (d.toNat ≤ 60)
  | .bmode _ _ _ _ => true
  | .bmodeQ _ _ _ => true
  | .cpy _ a c d r => decide (a.toNat ≤ 61) && decide (r.toNat < 2 ∨ c.toNat = 0) && decide (r.toNat % 2 = 0 ∨ d.toNat = 0)
  | .cpyt _ a c d _ r => decide (a.toNat ≤ 61) && decide (if r.toNat = 1 then c.toNat = 0 else d.toNat = 0)
  | .cpym _ a c _ r => decide (a.toNat ≤ 61) && decide (r.toNat = 0 ∨ c.toNat = 0)
  | .cpyg _ a _ f => decide (a.toNat ≤ 61) && decide (f.toNat ≤ 9)
  | .cpys _ a _ f => decide (a.toNat ≤ 61) && decide (f.toNat ≤ 9)
  | .cred _ a c d _ r => decide (a.toNat ≤ 61) && decide (r.toNat < 2 ∨ c.toNat = 0) && decide (r.toNat % 2 = 0 ∨ d.toNat = 0)
  | .cbatch _ _ => true
  | .cwait _ _ _ => true
  | .ctest _ _ _ => true
  | .ctoken _ _ _ b f => decide (b.toNat ≤ 61) && decide (f.toNat < 2)
  | .boinit _ _ _ => true
  | .bowait _ _ => true
  | .botest _ _ _ => true
  | .mlay _ _ a => decide (a.toNat ≤ 56)
  | .mlayGet _ _ a => decide (a.toNat ≤ 56)
  | .mgang _ _ => true
  | .mgangGet _ _ => true
  | .mma _ _ _ _ _ => true
  | .mmas _ _ _ _ _ p => decide (p.toNat ≤ 8)
  | .accz _ _ n => decide (n.toNat ≤ 4)
  | .accld _ a c _ f => decide (a.toNat ≤ 61) && decide (f.toNat = 1 ∨ c.toNat = 0)
  | .accst _ a c _ _ _ f => decide (a.toNat ≤ 61) && decide (f.toNat = 1 ∨ c.toNat = 0)
  | .accalloc _ _ n p => decide (p.toNat < 24) && decide (n.toNat ≤ 4)
  | .accallocQ _ d => decide (d.toNat ≤ 62)
  | .accfree _ _ n => decide (n.toNat ≤ 4)
  | .mrel _ => true
  | .wyield _ => true
  | .wclose _ => true
  | .wemit _ _ _ _ => true
  | .wmerge _ => true
  | .winfo _ _ _ => true
  | .wmark _ d => decide (d.toNat ≤ 62)
  | .rpost _ _ a m => decide (m.toNat = 0 ∨ m.toNat = 1 ∨ m.toNat = 3) && decide (m.toNat = 0 → a.toNat = 0)
  | .bpost _ _ _ => true
  | .wext _ _ => true
  | .wdq _ _ => true
  | .srwait _ _ _ _ => true
  | .srwaitR _ _ _ => true
  | .srsig _ _ _ => true
  | .srsigR _ _ _ => true
  | .cntwait _ _ a f => decide (a.toNat ≤ 61) && decide (f.toNat < 2)
  | .cancel _ _ f => decide (f.toNat < 4)
  | .launchq _ _ _ _ => true
  | .pfx p n _ r _ _ => decide (p.toNat < 24 ∨ p.toNat = 31) && decide (p.toNat = 31 → n.toNat = 0) && decide (r.toNat < 6)
  | .undefinedOpcode _ => true
  | .instructionFetchFault _ => true
  | .watchdog _ _ _ => true
  | .priorityAging _ => true
  | .eviction _ _ => true
  | .launchEntry _ _ => true
  | .waitCounterEntry _ _ => true
  | .signalCounterEntry _ _ => true
  | .streamAttach _ _ => true
  | .streamDetach _ _ => true
  | .queueCreate _ _ => true
  | .queueDestroy _ _ => true
  | .cancelEntry _ _ => true
  | .cancelComplete _ => true
  | .preEmptEntry _ _ => true
  | .forcedSave _ _ => true
  | .crewSave _ _ => true
  | .crewRestore _ _ _ => true
  | .launchEligible _ => true
  | .launchComplete _ => true
  | .waitgtDeadline _ _ _ => true
  | .waitmPoll _ _ _ => true
  | .homeLoad _ => true
  | .gatewayLoad _ => true
  | .homeWrite _ => true
  | .homeAtomic _ => true
  | .storeAck _ => true
  | .loadResponse _ => true
  | .jobStart _ _ => true
  | .jobComplete _ _ => true
  | .multicastDelivery _ => true
  | .wdQuery _ _ => true
  | .matrixJobStart _ _ => true
  | .matrixJobComplete _ _ => true
  | .accownTakeEffect _ _ => true
  | .tableSwap _ _ => true
  | .recordIngress _ => true
  | .recordAccept _ => true
  | .wakeStart _ _ _ _ => true
  | .rpostOrdAcceptance _ => true
  | .nodeBinTimer _ _ => true
  | .quiescenceSample _ _ => true
  | .bridgeFilter _ => true
  | .otinvDone _ => true
  | .scrubDone _ => true
  | .perfStateChange _ => true
  | .debugStopComplete _ => true
  | .fwloadResult _ => true
  | .variableLatencyResult _ _ _ _ => true
  | .globalWriteCompletionTimeReached _ _ _ => true
  | .gatewayFillResponse _ => true
  | .slateFetchComplete _ _ _ => true
  | .supervisorCoreError _ _ => true
  | .kick _ _ _ _ _ => true
  | .pageResponse _ _ _ _ => true
  | .atsInvalidation _ _ _ => true
  | .escQueuePop _ => true
  | .escCompletion _ _ => true
  | .supervisorEventPost _ _ => true
  | .groupWindowAccess _ _ _ => true
  | .scratchpadWindowAccess _ _ _ => true
  | .hostHdmAccess _ _ _ => true
  | .registerWrite _ _ _ => true
  | .otinv _ _ => true
  | .scrub _ _ => true
  | .psreqWrite _ _ => true
  | .clampRaise _ _ _ => true
  | .clampReturn _ _ _ => true
  | .dbgAttach _ _ _ => true
  | .dbgDetach _ _ _ => true
  | .dbgStop _ _ _ => true
  | .dbgStopGroup _ _ _ _ => true
  | .dbgResume _ _ _ => true
  | .dbgStep _ _ _ _ => true
  | .corerst _ _ => true
  | .fwload _ _ => true
  | .bind _ _ _ _ _ _ _ => true
  | .rebind _ _ _ _ => true
  | .rebindComplete => true
  | .ways _ _ _ => true
  | .nett _ => true
  | .pscap _ _ => true
  | .clamp _ _ _ => true
  | .enroll _ _ _ _ _ => true
  | .revoke _ _ => true
  | .svn _ _ => true
  | .powerOnReset => true
  | .eccError _ _ _ => true
  | .spdmSession _ _ => true
  | .coreCacheLineDrop _ _ => true
  | .linkRetry _ _ => true
  | .linkFailureReport _ _ => true
  | .packetForward _ _ _ => true
  | .suspectMark _ _ => true
  | .garnetTokenArrival => true
  | .gutterSinkAck => true
  | .backInvalidationResponse _ => true
  | .cxlCacheGloballyObserved _ => true
  | .issueStarvation _ _ _ => true

end Sys2Proof
end

