-- ==== Sys2Proof/Decode.lean ====
section
/-! DEFINITION. Decoding instruction words (R79, R98, R101 to R103) and encoding instructions: both from the tables of the spec, field by field. -/

namespace Sys2Proof

/-- Why a word is not an instruction to run: a reserved field or reserved value (R103, trap 0x02), by its mnemonic. -/
inductive DecodeError where
  | reserved (mnemonic : String)
  deriving DecidableEq, Repr

/-- The field of `len` bits of a word that begins at bit `lo`. -/
def fld (w : Word) (lo len : Nat) : BitVec len := w.extractLsb' lo len

/-- OP, bits [28:21] (R79). -/
def opOf (w : Word) : Nat := (fld w 21 8).toNat

/-- Opcodes 0x00 to 0x0F: the fields of the row whose fixed bits the word has; none where a fixed bit differs (R81). -/
def decodeRow0 (op : Nat) (w : Word) : Option Instr :=
  if op = 0x00 then
    if fld w 0 21 = 0 then some (.nop (fld w 29 3)) else
    none
  else if op = 0x01 then
    some (.bra (fld w 29 3) (fld w 0 21))
  else if op = 0x02 then
    some (.call (fld w 29 3) (fld w 0 21))
  else if op = 0x03 then
    if fld w 0 21 = 0 then some (.ret (fld w 29 3)) else
    none
  else if op = 0x04 then
    if fld w 3 6 = 0 then some (.jmpi (fld w 29 3) (fld w 15 6) (fld w 9 6) (fld w 0 3)) else
    none
  else if op = 0x05 then
    some (.brnz (fld w 29 3) (fld w 15 6) (fld w 0 15))
  else if op = 0x06 then
    some (.brz (fld w 29 3) (fld w 15 6) (fld w 0 15))
  else if op = 0x07 then
    some (.ssy (fld w 29 3) (fld w 0 21))
  else if op = 0x08 then
    some (.brp (fld w 29 3) (fld w 16 5) (fld w 0 16))
  else if op = 0x09 then
    some (.brpn (fld w 29 3) (fld w 16 5) (fld w 0 16))
  else if op = 0x0A then
    if fld w 0 21 = 0 then some (.sync (fld w 29 3)) else
    none
  else if op = 0x0B then
    some (.loop (fld w 29 3) (fld w 15 6) (fld w 0 15))
  else if op = 0x0C then
    if fld w 0 21 = 0 then some (.exit (fld w 29 3)) else
    none
  else if op = 0x0D then
    if fld w 0 17 = 0 then some (.bar (fld w 29 3) (fld w 17 4)) else
    if fld w 0 17 = 32768 then some (.barArv (fld w 29 3) (fld w 17 4)) else
    if fld w 0 17 = 65536 then some (.barWait (fld w 29 3) (fld w 17 4)) else
    none
  else if op = 0x0E then
    if fld w 15 2 = 0 then some (.barinit (fld w 29 3) (fld w 17 4) (fld w 0 15)) else
    none
  else if op = 0x0F then
    if fld w 0 9 = 0 then some (.phint (fld w 29 3) (fld w 15 6) (fld w 9 6)) else
    none
  else none

/-- Opcodes 0x10 to 0x1F: the fields of the row whose fixed bits the word has; none where a fixed bit differs (R81). -/
def decodeRow1 (op : Nat) (w : Word) : Option Instr :=
  if op = 0x10 then
    some (.setmw (fld w 29 3) (fld w 0 21))
  else if op = 0x11 then
    if fld w 0 15 = 0 then some (.getmw (fld w 29 3) (fld w 15 6)) else
    none
  else if op = 0x12 then
    some (.chain (fld w 29 3) (fld w 0 21))
  else if op = 0x13 then
    some (.trap (fld w 29 3) (fld w 0 21))
  else if op = 0x14 then
    if fld w 0 21 = 0 then some (.rft (fld w 29 3)) else
    if fld w 0 21 = 1 then some (.rftNext (fld w 29 3)) else
    none
  else if op = 0x15 then
    some (.esc (fld w 29 3) (fld w 0 21))
  else if op = 0x16 then
    some (.brkpt (fld w 29 3) (fld w 0 21))
  else if op = 0x17 then
    if fld w 0 3 = 0 then some (.sysrd (fld w 29 3) (fld w 15 6) (fld w 3 12)) else
    none
  else if op = 0x18 then
    if fld w 0 3 = 1 then some (.syswr (fld w 29 3) (fld w 15 6) (fld w 3 12)) else
    if fld w 0 3 = 2 then some (.syswrSet (fld w 29 3) (fld w 15 6) (fld w 3 12)) else
    if fld w 0 3 = 3 then some (.syswrClr (fld w 29 3) (fld w 15 6) (fld w 3 12)) else
    none
  else if op = 0x19 then
    if fld w 3 6 = 0 ∧ fld w 15 6 = 0 then some (.waitgt (fld w 29 3) (fld w 9 6) (fld w 0 3)) else
    none
  else if op = 0x1A then
    if fld w 0 15 = 0 then some (.gtime (fld w 29 3) (fld w 15 6)) else
    none
  else if op = 0x1B then
    some (.ipref (fld w 29 3) (fld w 0 21))
  else none

/-- Opcodes 0x20 to 0x2F: the fields of the row whose fixed bits the word has; none where a fixed bit differs (R81). -/
def decodeRow2 (op : Nat) (w : Word) : Option Instr :=
  if op = 0x20 then
    some (.sadd (fld w 29 3) (fld w 15 6) (fld w 9 6) (fld w 3 6) (fld w 0 3))
  else if op = 0x21 then
    some (.ssub (fld w 29 3) (fld w 15 6) (fld w 9 6) (fld w 3 6) (fld w 0 3))
  else if op = 0x22 then
    some (.smul (fld w 29 3) (fld w 15 6) (fld w 9 6) (fld w 3 6) (fld w 0 3))
  else if op = 0x23 then
    some (.smulh (fld w 29 3) (fld w 15 6) (fld w 9 6) (fld w 3 6) (fld w 0 3))
  else if op = 0x24 then
    if fld w 0 3 = 0 then some (.sand (fld w 29 3) (fld w 15 6) (fld w 9 6) (fld w 3 6)) else
    none
  else if op = 0x25 then
    if fld w 0 3 = 0 then some (.sor (fld w 29 3) (fld w 15 6) (fld w 9 6) (fld w 3 6)) else
    none
  else if op = 0x26 then
    if fld w 0 3 = 0 then some (.sxor (fld w 29 3) (fld w 15 6) (fld w 9 6) (fld w 3 6)) else
    none
  else if op = 0x27 then
    if fld w 0 3 = 0 then some (.sshl (fld w 29 3) (fld w 15 6) (fld w 9 6) (fld w 3 6)) else
    none
  else if op = 0x28 then
    if fld w 0 3 = 0 then some (.sshr (fld w 29 3) (fld w 15 6) (fld w 9 6) (fld w 3 6)) else
    none
  else if op = 0x29 then
    if fld w 0 3 = 0 then some (.ssra (fld w 29 3) (fld w 15 6) (fld w 9 6) (fld w 3 6)) else
    none
  else if op = 0x2A then
    some (.smin (fld w 29 3) (fld w 15 6) (fld w 9 6) (fld w 3 6) (fld w 0 3))
  else if op = 0x2B then
    some (.smax (fld w 29 3) (fld w 15 6) (fld w 9 6) (fld w 3 6) (fld w 0 3))
  else if op = 0x2C then
    some (.scmp (fld w 29 3) (fld w 15 6) (fld w 9 6) (fld w 3 6) (fld w 0 3))
  else if op = 0x2D then
    if fld w 0 3 = 0 then some (.ssel (fld w 29 3) (fld w 15 6) (fld w 9 6) (fld w 3 6)) else
    none
  else if op = 0x2E then
    some (.saddi (fld w 29 3) (fld w 15 6) (fld w 9 6) (fld w 0 9))
  else if op = 0x2F then
    some (.smovi (fld w 29 3) (fld w 15 6) (fld w 0 15))
  else none

/-- Opcodes 0x30 to 0x3F: the fields of the row whose fixed bits the word has; none where a fixed bit differs (R81). -/
def decodeRow3 (op : Nat) (w : Word) : Option Instr :=
  if op = 0x30 then
    some (.smovh (fld w 29 3) (fld w 15 6) (fld w 0 15))
  else if op = 0x31 then
    if fld w 3 6 = 0 then some (.sbits (fld w 29 3) (fld w 15 6) (fld w 9 6) (fld w 0 3)) else
    none
  else if op = 0x32 then
    some (.sdiv (fld w 29 3) (fld w 15 6) (fld w 9 6) (fld w 3 6) (fld w 0 3))
  else if op = 0x33 then
    if fld w 0 8 = 0 then some (.s2v (fld w 29 3) (fld w 14 7) (fld w 8 6)) else
    none
  else if op = 0x34 then
    if fld w 7 1 = 0 then some (.v2s (fld w 29 3) (fld w 14 7) (fld w 8 6) (fld w 0 7)) else
    none
  else none

/-- Opcodes 0x40 to 0x4F: the fields of the row whose fixed bits the word has; none where a fixed bit differs (R81). -/
def decodeRow4 (op : Nat) (w : Word) : Option Instr :=
  if op = 0x40 then
    some (.vadd (fld w 29 3) (fld w 14 7) (fld w 7 7) (fld w 0 7))
  else if op = 0x41 then
    some (.vsub (fld w 29 3) (fld w 14 7) (fld w 7 7) (fld w 0 7))
  else if op = 0x42 then
    some (.vmul (fld w 29 3) (fld w 14 7) (fld w 7 7) (fld w 0 7))
  else if op = 0x43 then
    some (.vmulh (fld w 29 3) (fld w 14 7) (fld w 7 7) (fld w 0 7))
  else if op = 0x44 then
    some (.vmad (fld w 29 3) (fld w 14 7) (fld w 7 7) (fld w 0 7))
  else if op = 0x45 then
    some (.vand (fld w 29 3) (fld w 14 7) (fld w 7 7) (fld w 0 7))
  else if op = 0x46 then
    some (.vor (fld w 29 3) (fld w 14 7) (fld w 7 7) (fld w 0 7))
  else if op = 0x47 then
    some (.vxor (fld w 29 3) (fld w 14 7) (fld w 7 7) (fld w 0 7))
  else if op = 0x48 then
    some (.vshl (fld w 29 3) (fld w 14 7) (fld w 7 7) (fld w 0 7))
  else if op = 0x49 then
    some (.vshr (fld w 29 3) (fld w 14 7) (fld w 7 7) (fld w 0 7))
  else if op = 0x4A then
    some (.vsra (fld w 29 3) (fld w 14 7) (fld w 7 7) (fld w 0 7))
  else if op = 0x4B then
    some (.vmin (fld w 29 3) (fld w 14 7) (fld w 7 7) (fld w 0 7))
  else if op = 0x4C then
    some (.vmax (fld w 29 3) (fld w 14 7) (fld w 7 7) (fld w 0 7))
  else if op = 0x4D then
    some (.vabsd (fld w 29 3) (fld w 14 7) (fld w 7 7) (fld w 0 7))
  else if op = 0x4E then
    some (.vaddi (fld w 29 3) (fld w 14 7) (fld w 7 7) (fld w 0 7))
  else if op = 0x4F then
    some (.vmovi (fld w 29 3) (fld w 14 7) (fld w 0 14))
  else none

/-- Opcodes 0x50 to 0x5F: the fields of the row whose fixed bits the word has; none where a fixed bit differs (R81). -/
def decodeRow5 (op : Nat) (w : Word) : Option Instr :=
  if op = 0x50 then
    some (.vbits (fld w 29 3) (fld w 14 7) (fld w 7 7) (fld w 0 7))
  else if op = 0x51 then
    some (.vaddc (fld w 29 3) (fld w 14 7) (fld w 7 7) (fld w 0 7))
  else if op = 0x52 then
    some (.vsubb (fld w 29 3) (fld w 14 7) (fld w 7 7) (fld w 0 7))
  else if op = 0x53 then
    some (.vcmp (fld w 29 3) (fld w 16 5) (fld w 14 2) (fld w 7 7) (fld w 0 7))
  else if op = 0x54 then
    some (.vcmpx (fld w 29 3) (fld w 16 5) (fld w 14 2) (fld w 7 7) (fld w 0 7))
  else if op = 0x55 then
    some (.vsel (fld w 29 3) (fld w 14 7) (fld w 7 7) (fld w 0 7))
  else if op = 0x56 then
    if fld w 0 7 = 0 then some (.vmov (fld w 29 3) (fld w 14 7) (fld w 7 7)) else
    none
  else if op = 0x57 then
    if fld w 0 3 = 0 then some (.plog (fld w 29 3) (fld w 16 5) (fld w 11 5) (fld w 6 5) (fld w 3 3)) else
    none
  else if op = 0x58 then
    if fld w 0 3 = 0 ∧ fld w 6 5 = 0 then some (.pset (fld w 29 3) (fld w 16 5) (fld w 11 5) (fld w 3 3)) else
    none
  else if op = 0x59 then
    if fld w 7 7 = 0 then some (.pget (fld w 29 3) (fld w 14 7) (fld w 0 7)) else
    none
  else if op = 0x5A then
    if fld w 5 3 = 0 ∧ fld w 14 7 = 0 then some (.ballot (fld w 29 3) (fld w 8 6) (fld w 0 5)) else
    none
  else if op = 0x5B then
    some (.pfrom (fld w 29 3) (fld w 16 5) (fld w 14 2) (fld w 7 7) (fld w 0 7))
  else if op = 0x5C then
    some (.shfl (fld w 29 3) (fld w 14 7) (fld w 7 7) (fld w 0 7))
  else if op = 0x5D then
    some (.shflx (fld w 29 3) (fld w 14 7) (fld w 7 7) (fld w 0 7))
  else if op = 0x5E then
    some (.bcast (fld w 29 3) (fld w 14 7) (fld w 7 7) (fld w 0 7))
  else if op = 0x5F then
    if fld w 4 3 = 0 then some (.vred (fld w 29 3) (fld w 14 7) (fld w 7 7) (fld w 0 4)) else
    none
  else none

/-- Opcodes 0x60 to 0x6F: the fields of the row whose fixed bits the word has; none where a fixed bit differs (R81). -/
def decodeRow6 (op : Nat) (w : Word) : Option Instr :=
  if op = 0x60 then
    if fld w 5 2 = 0 then some (.vscan (fld w 29 3) (fld w 14 7) (fld w 7 7) (fld w 4 1) (fld w 0 4)) else
    none
  else if op = 0x61 then
    if fld w 0 14 = 0 then some (.laneid (fld w 29 3) (fld w 14 7)) else
    none
  else if op = 0x62 then
    if fld w 0 14 = 0 then some (.rng (fld w 29 3) (fld w 14 7)) else
    none
  else none

/-- Opcodes 0x80 to 0x8F: the fields of the row whose fixed bits the word has; none where a fixed bit differs (R81). -/
def decodeRow8 (op : Nat) (w : Word) : Option Instr :=
  if op = 0x80 then
    some (.fadd (fld w 29 3) (fld w 14 7) (fld w 7 7) (fld w 0 7))
  else if op = 0x81 then
    some (.fsub (fld w 29 3) (fld w 14 7) (fld w 7 7) (fld w 0 7))
  else if op = 0x82 then
    some (.fmul (fld w 29 3) (fld w 14 7) (fld w 7 7) (fld w 0 7))
  else if op = 0x83 then
    some (.ffma (fld w 29 3) (fld w 14 7) (fld w 7 7) (fld w 0 7))
  else if op = 0x84 then
    some (.fmin (fld w 29 3) (fld w 14 7) (fld w 7 7) (fld w 0 7))
  else if op = 0x85 then
    some (.fmax (fld w 29 3) (fld w 14 7) (fld w 7 7) (fld w 0 7))
  else if op = 0x86 then
    if fld w 0 7 = 0 then some (.fabs (fld w 29 3) (fld w 14 7) (fld w 7 7)) else
    none
  else if op = 0x87 then
    if fld w 0 7 = 0 then some (.fneg (fld w 29 3) (fld w 14 7) (fld w 7 7)) else
    none
  else if op = 0x88 then
    some (.fcmp (fld w 29 3) (fld w 16 5) (fld w 14 2) (fld w 7 7) (fld w 0 7))
  else if op = 0x89 then
    some (.fcmpx (fld w 29 3) (fld w 16 5) (fld w 14 2) (fld w 7 7) (fld w 0 7))
  else if op = 0x8A then
    if fld w 0 7 = 0 then some (.fclass (fld w 29 3) (fld w 14 7) (fld w 7 7)) else
    none
  else if op = 0x8B then
    if fld w 0 7 = 0 then some (.frnd (fld w 29 3) (fld w 14 7) (fld w 7 7)) else
    none
  else if op = 0x8C then
    some (.fdiv (fld w 29 3) (fld w 14 7) (fld w 7 7) (fld w 0 7))
  else if op = 0x8D then
    if fld w 0 7 = 0 then some (.fsqrt (fld w 29 3) (fld w 14 7) (fld w 7 7)) else
    none
  else if op = 0x8E then
    some (.fspec (fld w 29 3) (fld w 14 7) (fld w 7 7) (fld w 0 7))
  else if op = 0x8F then
    if fld w 1 6 = 0 then some (.tblev (fld w 29 3) (fld w 14 7) (fld w 7 7) (fld w 0 1)) else
    none
  else none

/-- Opcodes 0x90 to 0x9F: the fields of the row whose fixed bits the word has; none where a fixed bit differs (R81). -/
def decodeRow9 (op : Nat) (w : Word) : Option Instr :=
  if op = 0x90 then
    if fld w 1 2 = 0 ∧ fld w 15 6 = 0 then some (.tblld (fld w 29 3) (fld w 9 6) (fld w 3 6) (fld w 0 1)) else
    none
  else if op = 0x91 then
    if fld w 1 20 = 0 then some (.tblsw (fld w 29 3) (fld w 0 1)) else
    none
  else if op = 0x92 then
    some (.cvt (fld w 29 3) (fld w 14 7) (fld w 7 7) (fld w 3 4) (fld w 0 3))
  else if op = 0x93 then
    if fld w 0 8 = 0 then some (.rqnt (fld w 29 3) (fld w 14 7) (fld w 8 6)) else
    none
  else if op = 0x94 then
    some (.dot4 (fld w 29 3) (fld w 14 7) (fld w 7 7) (fld w 0 7))
  else if op = 0x95 then
    some (.dot8 (fld w 29 3) (fld w 14 7) (fld w 7 7) (fld w 0 7))
  else if op = 0x96 then
    some (.dot2 (fld w 29 3) (fld w 14 7) (fld w 7 7) (fld w 0 7))
  else if op = 0x97 then
    some (.pack (fld w 29 3) (fld w 14 7) (fld w 7 7) (fld w 0 7))
  else if op = 0x98 then
    if fld w 1 6 = 0 then some (.unpk (fld w 29 3) (fld w 14 7) (fld w 7 7) (fld w 0 1)) else
    none
  else none

/-- Opcodes 0xA0 to 0xAF: the fields of the row whose fixed bits the word has; none where a fixed bit differs (R81). -/
def decodeRowA (op : Nat) (w : Word) : Option Instr :=
  if op = 0xA0 then
    if fld w 0 4 = 0 ∧ fld w 9 12 = 0 then some (.setq (fld w 29 3) (fld w 4 5)) else
    none
  else if op = 0xA1 then
    if fld w 0 4 = 0 ∧ fld w 9 12 = 0 then some (.getq (fld w 29 3) (fld w 4 5)) else
    none
  else if op = 0xA2 then
    some (.maddq (fld w 29 3) (fld w 14 7) (fld w 7 7) (fld w 0 7))
  else if op = 0xA3 then
    some (.msubq (fld w 29 3) (fld w 14 7) (fld w 7 7) (fld w 0 7))
  else if op = 0xA4 then
    if fld w 0 7 = 0 then some (.mnegq (fld w 29 3) (fld w 14 7) (fld w 7 7)) else
    none
  else if op = 0xA5 then
    some (.mmulq (fld w 29 3) (fld w 14 7) (fld w 7 7) (fld w 0 7))
  else if op = 0xA6 then
    if fld w 0 4 = 0 then some (.mmuls (fld w 29 3) (fld w 15 6) (fld w 9 6) (fld w 4 5)) else
    none
  else if op = 0xA7 then
    some (.mfmaq (fld w 29 3) (fld w 14 7) (fld w 7 7) (fld w 0 7))
  else if op = 0xA8 then
    if fld w 0 7 = 0 then some (.mredq (fld w 29 3) (fld w 14 7) (fld w 7 7)) else
    none
  else if op = 0xA9 then
    if fld w 0 7 = 0 then some (.mctrq (fld w 29 3) (fld w 14 7) (fld w 7 7)) else
    none
  else if op = 0xAA then
    some (.bfly (fld w 29 3) (fld w 15 6) (fld w 9 6) (fld w 4 5) (fld w 1 3) (fld w 0 1))
  else if op = 0xAB then
    if fld w 0 1 = 0 ∧ fld w 4 5 = 0 then some (.pbf (fld w 29 3) (fld w 15 6) (fld w 9 6) (fld w 1 3)) else
    none
  else if op = 0xAC then
    if fld w 0 1 = 0 ∧ fld w 4 5 = 0 then some (.pbrev (fld w 29 3) (fld w 15 6) (fld w 9 6) (fld w 1 3)) else
    none
  else if op = 0xAD then
    some (.prot (fld w 29 3) (fld w 15 6) (fld w 9 6) (fld w 4 5) (fld w 1 3) (fld w 0 1))
  else if op = 0xAE then
    some (.mulw (fld w 29 3) (fld w 14 7) (fld w 7 7) (fld w 0 7))
  else if op = 0xAF then
    if fld w 0 7 = 0 then some (.mshoup (fld w 29 3) (fld w 14 7) (fld w 7 7)) else
    none
  else none

/-- Opcodes 0xB0 to 0xBF: the fields of the row whose fixed bits the word has; none where a fixed bit differs (R81). -/
def decodeRowB (op : Nat) (w : Word) : Option Instr :=
  if op = 0xB0 then
    some (.ld (fld w 29 3) (fld w 14 7) (fld w 10 4) (fld w 3 7) (fld w 0 3))
  else if op = 0xB1 then
    some (.st (fld w 29 3) (fld w 14 7) (fld w 10 4) (fld w 3 7) (fld w 0 3))
  else if op = 0xB2 then
    some (.lds (fld w 29 3) (fld w 14 7) (fld w 7 7) (fld w 0 7))
  else if op = 0xB3 then
    some (.sts (fld w 29 3) (fld w 14 7) (fld w 7 7) (fld w 0 7))
  else if op = 0xB4 then
    some (.ldu (fld w 29 3) (fld w 15 6) (fld w 11 4) (fld w 0 11))
  else if op = 0xB5 then
    some (.stu (fld w 29 3) (fld w 15 6) (fld w 11 4) (fld w 0 11))
  else if op = 0xB6 then
    some (.atom (fld w 29 3) (fld w 14 7) (fld w 10 4) (fld w 3 7) (fld w 0 3))
  else if op = 0xB7 then
    some (.atomx (fld w 29 3) (fld w 14 7) (fld w 10 4) (fld w 3 7) (fld w 0 3))
  else if op = 0xB8 then
    if fld w 10 4 = 0 then some (.atoms (fld w 29 3) (fld w 14 7) (fld w 3 7) (fld w 0 3)) else
    none
  else if op = 0xB9 then
    if fld w 4 17 = 0 then some (.fence (fld w 29 3) (fld w 2 2) (fld w 0 2)) else
    none
  else if op = 0xBA then
    some (.waitm (fld w 29 3) (fld w 15 6) (fld w 11 4) (fld w 0 11))
  else if op = 0xBB then
    if fld w 19 2 = 0 then some (.capld (fld w 29 3) (fld w 15 4) (fld w 11 4) (fld w 0 11)) else
    none
  else if op = 0xBC then
    if fld w 19 2 = 0 then some (.capst (fld w 29 3) (fld w 15 4) (fld w 11 4) (fld w 0 11)) else
    none
  else if op = 0xBD then
    if fld w 0 3 = 0 ∧ fld w 13 2 = 0 ∧ fld w 19 2 = 0 then some (.capsub (fld w 29 3) (fld w 15 4) (fld w 9 4) (fld w 3 6)) else
    none
  else if op = 0xBE then
    if fld w 0 9 = 0 ∧ fld w 13 2 = 0 then some (.capinfo (fld w 29 3) (fld w 15 6) (fld w 9 4)) else
    none
  else if op = 0xBF then
    if fld w 0 3 = 0 then some (.bmode (fld w 29 3) (fld w 15 6) (fld w 9 6) (fld w 3 6)) else
    if fld w 0 9 = 1 then some (.bmodeQ (fld w 29 3) (fld w 15 6) (fld w 9 6)) else
    none
  else none

/-- Opcodes 0xC0 to 0xCF: the fields of the row whose fixed bits the word has; none where a fixed bit differs (R81). -/
def decodeRowC (op : Nat) (w : Word) : Option Instr :=
  if op = 0xC0 then
    if fld w 2 5 = 0 then some (.cpy (fld w 29 3) (fld w 15 6) (fld w 11 4) (fld w 7 4) (fld w 0 2)) else
    none
  else if op = 0xC1 then
    if fld w 1 3 = 0 then some (.cpyt (fld w 29 3) (fld w 15 6) (fld w 11 4) (fld w 7 4) (fld w 4 3) (fld w 0 1)) else
    none
  else if op = 0xC2 then
    if fld w 1 3 = 0 ∧ fld w 7 4 = 0 then some (.cpym (fld w 29 3) (fld w 15 6) (fld w 11 4) (fld w 4 3) (fld w 0 1)) else
    none
  else if op = 0xC3 then
    if fld w 4 7 = 0 then some (.cpyg (fld w 29 3) (fld w 15 6) (fld w 11 4) (fld w 0 4)) else
    none
  else if op = 0xC4 then
    if fld w 4 3 = 0 ∧ fld w 11 4 = 0 then some (.cpys (fld w 29 3) (fld w 15 6) (fld w 7 4) (fld w 0 4)) else
    none
  else if op = 0xC5 then
    if fld w 4 3 = 0 then some (.cred (fld w 29 3) (fld w 15 6) (fld w 11 4) (fld w 7 4) (fld w 2 2) (fld w 0 2)) else
    none
  else if op = 0xC6 then
    if fld w 0 15 = 0 then some (.cbatch (fld w 29 3) (fld w 15 6)) else
    none
  else if op = 0xC7 then
    if fld w 2 13 = 0 then some (.cwait (fld w 29 3) (fld w 15 6) (fld w 0 2)) else
    none
  else if op = 0xC8 then
    if fld w 2 13 = 0 then some (.ctest (fld w 29 3) (fld w 15 6) (fld w 0 2)) else
    none
  else if op = 0xC9 then
    if fld w 19 2 = 0 then some (.ctoken (fld w 29 3) (fld w 15 4) (fld w 9 6) (fld w 3 6) (fld w 0 3)) else
    none
  else if op = 0xCA then
    if fld w 0 9 = 0 ∧ fld w 18 3 = 0 then some (.boinit (fld w 29 3) (fld w 15 3) (fld w 9 6)) else
    none
  else if op = 0xCB then
    if fld w 0 15 = 0 ∧ fld w 18 3 = 0 then some (.bowait (fld w 29 3) (fld w 15 3)) else
    none
  else if op = 0xCC then
    if fld w 0 9 = 0 ∧ fld w 12 3 = 0 then some (.botest (fld w 29 3) (fld w 15 6) (fld w 9 3)) else
    none
  else none

/-- Opcodes 0xD0 to 0xDF: the fields of the row whose fixed bits the word has; none where a fixed bit differs (R81). -/
def decodeRowD (op : Nat) (w : Word) : Option Instr :=
  if op = 0xD0 then
    if fld w 0 9 = 0 ∧ fld w 18 3 = 0 then some (.mlay (fld w 29 3) (fld w 15 3) (fld w 9 6)) else
    if fld w 0 9 = 1 ∧ fld w 18 3 = 0 then some (.mlayGet (fld w 29 3) (fld w 15 3) (fld w 9 6)) else
    none
  else if op = 0xD1 then
    if fld w 0 9 = 0 ∧ fld w 15 6 = 0 then some (.mgang (fld w 29 3) (fld w 9 6)) else
    if fld w 0 15 = 1 then some (.mgangGet (fld w 29 3) (fld w 15 6)) else
    none
  else if op = 0xD2 then
    if fld w 0 4 = 0 then some (.mma (fld w 29 3) (fld w 15 6) (fld w 8 7) (fld w 5 3) (fld w 4 1)) else
    none
  else if op = 0xD3 then
    some (.mmas (fld w 29 3) (fld w 15 6) (fld w 8 7) (fld w 5 3) (fld w 4 1) (fld w 0 4))
  else if op = 0xD4 then
    if fld w 3 12 = 0 then some (.accz (fld w 29 3) (fld w 15 6) (fld w 0 3)) else
    none
  else if op = 0xD5 then
    if fld w 1 3 = 0 ∧ fld w 7 4 = 0 then some (.accld (fld w 29 3) (fld w 15 6) (fld w 11 4) (fld w 4 3) (fld w 0 1)) else
    none
  else if op = 0xD6 then
    if fld w 11 4 = 0 then some (.accst (fld w 29 3) (fld w 15 6) (fld w 7 4) (fld w 4 3) (fld w 2 2) (fld w 1 1) (fld w 0 1)) else
    none
  else if op = 0xD7 then
    if fld w 8 7 = 0 then some (.accalloc (fld w 29 3) (fld w 15 6) (fld w 5 3) (fld w 0 5)) else
    if fld w 0 15 = 256 then some (.accallocQ (fld w 29 3) (fld w 15 6)) else
    none
  else if op = 0xD8 then
    if fld w 0 5 = 0 ∧ fld w 8 1 = 0 ∧ fld w 15 6 = 0 then some (.accfree (fld w 29 3) (fld w 9 6) (fld w 5 3)) else
    none
  else if op = 0xD9 then
    if fld w 0 21 = 0 then some (.mrel (fld w 29 3)) else
    none
  else none

/-- Opcodes 0xE0 to 0xEF: the fields of the row whose fixed bits the word has; none where a fixed bit differs (R81). -/
def decodeRowE (op : Nat) (w : Word) : Option Instr :=
  if op = 0xE0 then
    if fld w 0 21 = 0 then some (.wyield (fld w 29 3)) else
    none
  else if op = 0xE1 then
    if fld w 0 21 = 0 then some (.wclose (fld w 29 3)) else
    none
  else if op = 0xE2 then
    if fld w 2 12 = 0 then some (.wemit (fld w 29 3) (fld w 14 7) (fld w 1 1) (fld w 0 1)) else
    none
  else if op = 0xE3 then
    if fld w 0 21 = 0 then some (.wmerge (fld w 29 3)) else
    none
  else if op = 0xE4 then
    if fld w 1 13 = 0 then some (.winfo (fld w 29 3) (fld w 14 7) (fld w 0 1)) else
    none
  else if op = 0xE5 then
    if fld w 0 15 = 0 then some (.wmark (fld w 29 3) (fld w 15 6)) else
    none
  else if op = 0xE6 then
    some (.rpost (fld w 29 3) (fld w 14 7) (fld w 7 7) (fld w 0 7))
  else if op = 0xE7 then
    if fld w 0 7 = 0 then some (.bpost (fld w 29 3) (fld w 14 7) (fld w 7 7)) else
    none
  else if op = 0xE8 then
    if fld w 0 7 = 0 ∧ fld w 14 7 = 0 then some (.wext (fld w 29 3) (fld w 7 7)) else
    none
  else if op = 0xE9 then
    if fld w 0 9 = 0 ∧ fld w 15 6 = 0 then some (.wdq (fld w 29 3) (fld w 9 6)) else
    none
  else if op = 0xEA then
    if fld w 6 15 = 0 then some (.srwait (fld w 29 3) (fld w 5 1) (fld w 3 2) (fld w 0 3)) else
    if fld w 15 6 = 0 ∧ fld w 5 4 = 2 ∧ fld w 0 3 = 0 then some (.srwaitR (fld w 29 3) (fld w 9 6) (fld w 3 2)) else
    none
  else if op = 0xEB then
    if fld w 5 16 = 0 then some (.srsig (fld w 29 3) (fld w 3 2) (fld w 0 3)) else
    if fld w 15 6 = 0 ∧ fld w 5 4 = 2 ∧ fld w 0 3 = 0 then some (.srsigR (fld w 29 3) (fld w 9 6) (fld w 3 2)) else
    none
  else if op = 0xEC then
    if fld w 3 6 = 0 then some (.cntwait (fld w 29 3) (fld w 15 6) (fld w 9 6) (fld w 0 3)) else
    none
  else if op = 0xED then
    if fld w 3 6 = 0 ∧ fld w 15 6 = 0 then some (.cancel (fld w 29 3) (fld w 9 6) (fld w 0 3)) else
    none
  else if op = 0xEE then
    if fld w 0 3 = 0 ∧ fld w 7 2 = 0 then some (.launchq (fld w 29 3) (fld w 15 6) (fld w 9 6) (fld w 3 4)) else
    none
  else none

/-- Opcodes 0xF0 to 0xFF: the fields of the row whose fixed bits the word has; none where a fixed bit differs (R81). -/
def decodeRowF (op : Nat) (w : Word) : Option Instr :=
  if op = 0xFE then
    if fld w 29 3 = 0 then some (.pfx (fld w 16 5) (fld w 15 1) (fld w 14 1) (fld w 11 3) (fld w 7 4) (fld w 0 7)) else
    none
  else none

/-- The instruction whose fixed bits a word has, whatever its field values; none where no row has them. -/
def rawDecode (w : Word) : Option Instr :=
  let op := opOf w
  if op / 16 = 0x0 then decodeRow0 op w
  else if op / 16 = 0x1 then decodeRow1 op w
  else if op / 16 = 0x2 then decodeRow2 op w
  else if op / 16 = 0x3 then decodeRow3 op w
  else if op / 16 = 0x4 then decodeRow4 op w
  else if op / 16 = 0x5 then decodeRow5 op w
  else if op / 16 = 0x6 then decodeRow6 op w
  else if op / 16 = 0x8 then decodeRow8 op w
  else if op / 16 = 0x9 then decodeRow9 op w
  else if op / 16 = 0xA then decodeRowA op w
  else if op / 16 = 0xB then decodeRowB op w
  else if op / 16 = 0xC then decodeRowC op w
  else if op / 16 = 0xD then decodeRowD op w
  else if op / 16 = 0xE then decodeRowE op w
  else if op / 16 = 0xF then decodeRowF op w
  else none

/-- The first mnemonic of the opcode grid at an opcode; none where the grid has a dash (R101). -/
def opMnemonic (op : Nat) : Option String :=
  if op / 16 = 0x0 then
    if op = 0x00 then some "NOP" else
    if op = 0x01 then some "BRA" else
    if op = 0x02 then some "CALL" else
    if op = 0x03 then some "RET" else
    if op = 0x04 then some "JMPI" else
    if op = 0x05 then some "BRNZ" else
    if op = 0x06 then some "BRZ" else
    if op = 0x07 then some "SSY" else
    if op = 0x08 then some "BRP" else
    if op = 0x09 then some "BRPN" else
    if op = 0x0A then some "SYNC" else
    if op = 0x0B then some "LOOP" else
    if op = 0x0C then some "EXIT" else
    if op = 0x0D then some "BAR" else
    if op = 0x0E then some "BARINIT" else
    if op = 0x0F then some "PHINT" else
    none
  else if op / 16 = 0x1 then
    if op = 0x10 then some "SETMW" else
    if op = 0x11 then some "GETMW" else
    if op = 0x12 then some "CHAIN" else
    if op = 0x13 then some "TRAP" else
    if op = 0x14 then some "RFT" else
    if op = 0x15 then some "ESC" else
    if op = 0x16 then some "BRKPT" else
    if op = 0x17 then some "SYSRD" else
    if op = 0x18 then some "SYSWR" else
    if op = 0x19 then some "WAITGT" else
    if op = 0x1A then some "GTIME" else
    if op = 0x1B then some "IPREF" else
    none
  else if op / 16 = 0x2 then
    if op = 0x20 then some "SADD" else
    if op = 0x21 then some "SSUB" else
    if op = 0x22 then some "SMUL" else
    if op = 0x23 then some "SMULH" else
    if op = 0x24 then some "SAND" else
    if op = 0x25 then some "SOR" else
    if op = 0x26 then some "SXOR" else
    if op = 0x27 then some "SSHL" else
    if op = 0x28 then some "SSHR" else
    if op = 0x29 then some "SSRA" else
    if op = 0x2A then some "SMIN" else
    if op = 0x2B then some "SMAX" else
    if op = 0x2C then some "SCMP" else
    if op = 0x2D then some "SSEL" else
    if op = 0x2E then some "SADDI" else
    if op = 0x2F then some "SMOVI" else
    none
  else if op / 16 = 0x3 then
    if op = 0x30 then some "SMOVH" else
    if op = 0x31 then some "SBITS" else
    if op = 0x32 then some "SDIV" else
    if op = 0x33 then some "S2V" else
    if op = 0x34 then some "V2S" else
    none
  else if op / 16 = 0x4 then
    if op = 0x40 then some "VADD" else
    if op = 0x41 then some "VSUB" else
    if op = 0x42 then some "VMUL" else
    if op = 0x43 then some "VMULH" else
    if op = 0x44 then some "VMAD" else
    if op = 0x45 then some "VAND" else
    if op = 0x46 then some "VOR" else
    if op = 0x47 then some "VXOR" else
    if op = 0x48 then some "VSHL" else
    if op = 0x49 then some "VSHR" else
    if op = 0x4A then some "VSRA" else
    if op = 0x4B then some "VMIN" else
    if op = 0x4C then some "VMAX" else
    if op = 0x4D then some "VABSD" else
    if op = 0x4E then some "VADDI" else
    if op = 0x4F then some "VMOVI" else
    none
  else if op / 16 = 0x5 then
    if op = 0x50 then some "VBITS" else
    if op = 0x51 then some "VADDC" else
    if op = 0x52 then some "VSUBB" else
    if op = 0x53 then some "VCMP" else
    if op = 0x54 then some "VCMPX" else
    if op = 0x55 then some "VSEL" else
    if op = 0x56 then some "VMOV" else
    if op = 0x57 then some "PLOG" else
    if op = 0x58 then some "PSET" else
    if op = 0x59 then some "PGET" else
    if op = 0x5A then some "BALLOT" else
    if op = 0x5B then some "PFROM" else
    if op = 0x5C then some "SHFL" else
    if op = 0x5D then some "SHFLX" else
    if op = 0x5E then some "BCAST" else
    if op = 0x5F then some "VRED" else
    none
  else if op / 16 = 0x6 then
    if op = 0x60 then some "VSCAN" else
    if op = 0x61 then some "LANEID" else
    if op = 0x62 then some "RNG" else
    none
  else if op / 16 = 0x8 then
    if op = 0x80 then some "FADD" else
    if op = 0x81 then some "FSUB" else
    if op = 0x82 then some "FMUL" else
    if op = 0x83 then some "FFMA" else
    if op = 0x84 then some "FMIN" else
    if op = 0x85 then some "FMAX" else
    if op = 0x86 then some "FABS" else
    if op = 0x87 then some "FNEG" else
    if op = 0x88 then some "FCMP" else
    if op = 0x89 then some "FCMPX" else
    if op = 0x8A then some "FCLASS" else
    if op = 0x8B then some "FRND" else
    if op = 0x8C then some "FDIV" else
    if op = 0x8D then some "FSQRT" else
    if op = 0x8E then some "FSPEC" else
    if op = 0x8F then some "TBLEV" else
    none
  else if op / 16 = 0x9 then
    if op = 0x90 then some "TBLLD" else
    if op = 0x91 then some "TBLSW" else
    if op = 0x92 then some "CVT" else
    if op = 0x93 then some "RQNT" else
    if op = 0x94 then some "DOT4" else
    if op = 0x95 then some "DOT8" else
    if op = 0x96 then some "DOT2" else
    if op = 0x97 then some "PACK" else
    if op = 0x98 then some "UNPK" else
    none
  else if op / 16 = 0xA then
    if op = 0xA0 then some "SETQ" else
    if op = 0xA1 then some "GETQ" else
    if op = 0xA2 then some "MADDQ" else
    if op = 0xA3 then some "MSUBQ" else
    if op = 0xA4 then some "MNEGQ" else
    if op = 0xA5 then some "MMULQ" else
    if op = 0xA6 then some "MMULS" else
    if op = 0xA7 then some "MFMAQ" else
    if op = 0xA8 then some "MREDQ" else
    if op = 0xA9 then some "MCTRQ" else
    if op = 0xAA then some "BFLY" else
    if op = 0xAB then some "PBF" else
    if op = 0xAC then some "PBREV" else
    if op = 0xAD then some "PROT" else
    if op = 0xAE then some "MULW" else
    if op = 0xAF then some "MSHOUP" else
    none
  else if op / 16 = 0xB then
    if op = 0xB0 then some "LD" else
    if op = 0xB1 then some "ST" else
    if op = 0xB2 then some "LDS" else
    if op = 0xB3 then some "STS" else
    if op = 0xB4 then some "LDU" else
    if op = 0xB5 then some "STU" else
    if op = 0xB6 then some "ATOM" else
    if op = 0xB7 then some "ATOMX" else
    if op = 0xB8 then some "ATOMS" else
    if op = 0xB9 then some "FENCE" else
    if op = 0xBA then some "WAITM" else
    if op = 0xBB then some "CAPLD" else
    if op = 0xBC then some "CAPST" else
    if op = 0xBD then some "CAPSUB" else
    if op = 0xBE then some "CAPINFO" else
    if op = 0xBF then some "BMODE" else
    none
  else if op / 16 = 0xC then
    if op = 0xC0 then some "CPY" else
    if op = 0xC1 then some "CPYT" else
    if op = 0xC2 then some "CPYM" else
    if op = 0xC3 then some "CPYG" else
    if op = 0xC4 then some "CPYS" else
    if op = 0xC5 then some "CRED" else
    if op = 0xC6 then some "CBATCH" else
    if op = 0xC7 then some "CWAIT" else
    if op = 0xC8 then some "CTEST" else
    if op = 0xC9 then some "CTOKEN" else
    if op = 0xCA then some "BOINIT" else
    if op = 0xCB then some "BOWAIT" else
    if op = 0xCC then some "BOTEST" else
    none
  else if op / 16 = 0xD then
    if op = 0xD0 then some "MLAY" else
    if op = 0xD1 then some "MGANG" else
    if op = 0xD2 then some "MMA" else
    if op = 0xD3 then some "MMAS" else
    if op = 0xD4 then some "ACCZ" else
    if op = 0xD5 then some "ACCLD" else
    if op = 0xD6 then some "ACCST" else
    if op = 0xD7 then some "ACCALLOC" else
    if op = 0xD8 then some "ACCFREE" else
    if op = 0xD9 then some "MREL" else
    none
  else if op / 16 = 0xE then
    if op = 0xE0 then some "WYIELD" else
    if op = 0xE1 then some "WCLOSE" else
    if op = 0xE2 then some "WEMIT" else
    if op = 0xE3 then some "WMERGE" else
    if op = 0xE4 then some "WINFO" else
    if op = 0xE5 then some "WMARK" else
    if op = 0xE6 then some "RPOST" else
    if op = 0xE7 then some "BPOST" else
    if op = 0xE8 then some "WEXT" else
    if op = 0xE9 then some "WDQ" else
    if op = 0xEA then some "SRWAIT" else
    if op = 0xEB then some "SRSIG" else
    if op = 0xEC then some "CNTWAIT" else
    if op = 0xED then some "CANCEL" else
    if op = 0xEE then some "LAUNCHQ" else
    none
  else if op / 16 = 0xF then
    if op = 0xFE then some "PFX" else
    none
  else none

/-- The instruction a word stands for. A word whose OP is not an instruction is itself the step UNDEFINED_OPCODE
(R103); a reserved field or reserved field value is refused by name (R81, R93, R99). -/
def decode (w : Word) : Except DecodeError Instr :=
  match opMnemonic (opOf w) with
  | none => .ok (.undefinedOpcode w)
  | some name =>
    match rawDecode w with
    | none => .error (.reserved name)
    | some i => if i.wf then .ok i else .error (.reserved name)

/-- The first instruction of a string of bytes in memory order, and the bytes after it: words are little-endian and
four bytes long (R79). Fewer than four bytes are no instruction. -/
def decodeBytes : List (BitVec 8) → Option (Except DecodeError Instr × List (BitVec 8))
  | b0 :: b1 :: b2 :: b3 :: rest => some (decode (b3 ++ b2 ++ b1 ++ b0), rest)
  | _ => none

/-- The instruction the decoder reads from a table word laid out as the hardware stores it: four bytes, lowest
first. -/
def decodeTableWord (nbits w : Nat) : Option Instr :=
  let x := w % 2 ^ nbits
  match decodeBytes [BitVec.ofNat 8 x, BitVec.ofNat 8 (x / 2 ^ 8), BitVec.ofNat 8 (x / 2 ^ 16),
      BitVec.ofNat 8 (x / 2 ^ 24)] with
  | some (.ok i, _) => some i
  | _ => none

/-- The word of an instruction (R79, R98, R102); the steps that are no instruction words have none and give the
word of zeros, but for UNDEFINED_OPCODE, which holds its word. -/
def encode : Instr → Word
  | .nop st => st ++ 0#8 ++ 0#21
  | .bra st d => st ++ 1#8 ++ d
  | .call st d => st ++ 2#8 ++ d
  | .ret st => st ++ 3#8 ++ 0#21
  | .jmpi st d a f => st ++ 4#8 ++ d ++ a ++ 0#6 ++ f
  | .brnz st a d => st ++ 5#8 ++ a ++ d
  | .brz st a d => st ++ 6#8 ++ a ++ d
  | .ssy st d => st ++ 7#8 ++ d
  | .brp st p d => st ++ 8#8 ++ p ++ d
  | .brpn st p d => st ++ 9#8 ++ p ++ d
  | .sync st => st ++ 10#8 ++ 0#21
  | .loop st a d => st ++ 11#8 ++ a ++ d
  | .exit st => st ++ 12#8 ++ 0#21
  | .bar st b => st ++ 13#8 ++ b ++ 0#17
  | .barArv st b => st ++ 13#8 ++ b ++ 32768#17
  | .barWait st b => st ++ 13#8 ++ b ++ 65536#17
  | .barinit st b n => st ++ 14#8 ++ b ++ 0#2 ++ n
  | .phint st a b => st ++ 15#8 ++ a ++ b ++ 0#9
  | .setmw st i => st ++ 16#8 ++ i
  | .getmw st d => st ++ 17#8 ++ d ++ 0#15
  | .chain st n => st ++ 18#8 ++ n
  | .trap st i => st ++ 19#8 ++ i
  | .rft st => st ++ 20#8 ++ 0#21
  | .rftNext st => st ++ 20#8 ++ 1#21
  | .esc st i => st ++ 21#8 ++ i
  | .brkpt st i => st ++ 22#8 ++ i
  | .sysrd st d r => st ++ 23#8 ++ d ++ r ++ 0#3
  | .syswr st a r => st ++ 24#8 ++ a ++ r ++ 1#3
  | .syswrSet st a r => st ++ 24#8 ++ a ++ r ++ 2#3
  | .syswrClr st a r => st ++ 24#8 ++ a ++ r ++ 3#3
  | .waitgt st a f => st ++ 25#8 ++ 0#6 ++ a ++ 0#6 ++ f
  | .gtime st d => st ++ 26#8 ++ d ++ 0#15
  | .ipref st d => st ++ 27#8 ++ d
  | .sadd st d a b f => st ++ 32#8 ++ d ++ a ++ b ++ f
  | .ssub st d a b f => st ++ 33#8 ++ d ++ a ++ b ++ f
  | .smul st d a b f => st ++ 34#8 ++ d ++ a ++ b ++ f
  | .smulh st d a b f => st ++ 35#8 ++ d ++ a ++ b ++ f
  | .sand st d a b => st ++ 36#8 ++ d ++ a ++ b ++ 0#3
  | .sor st d a b => st ++ 37#8 ++ d ++ a ++ b ++ 0#3
  | .sxor st d a b => st ++ 38#8 ++ d ++ a ++ b ++ 0#3
  | .sshl st d a b => st ++ 39#8 ++ d ++ a ++ b ++ 0#3
  | .sshr st d a b => st ++ 40#8 ++ d ++ a ++ b ++ 0#3
  | .ssra st d a b => st ++ 41#8 ++ d ++ a ++ b ++ 0#3
  | .smin st d a b f => st ++ 42#8 ++ d ++ a ++ b ++ f
  | .smax st d a b f => st ++ 43#8 ++ d ++ a ++ b ++ f
  | .scmp st d a b f => st ++ 44#8 ++ d ++ a ++ b ++ f
  | .ssel st d a b => st ++ 45#8 ++ d ++ a ++ b ++ 0#3
  | .saddi st d a i => st ++ 46#8 ++ d ++ a ++ i
  | .smovi st d i => st ++ 47#8 ++ d ++ i
  | .smovh st d i => st ++ 48#8 ++ d ++ i
  | .sbits st d a f => st ++ 49#8 ++ d ++ a ++ 0#6 ++ f
  | .sdiv st d a b f => st ++ 50#8 ++ d ++ a ++ b ++ f
  | .s2v st v a => st ++ 51#8 ++ v ++ a ++ 0#8
  | .v2s st v d n => st ++ 52#8 ++ v ++ d ++ 0#1 ++ n
  | .vadd st d a b => st ++ 64#8 ++ d ++ a ++ b
  | .vsub st d a b => st ++ 65#8 ++ d ++ a ++ b
  | .vmul st d a b => st ++ 66#8 ++ d ++ a ++ b
  | .vmulh st d a b => st ++ 67#8 ++ d ++ a ++ b
  | .vmad st d a b => st ++ 68#8 ++ d ++ a ++ b
  | .vand st d a b => st ++ 69#8 ++ d ++ a ++ b
  | .vor st d a b => st ++ 70#8 ++ d ++ a ++ b
  | .vxor st d a b => st ++ 71#8 ++ d ++ a ++ b
  | .vshl st d a b => st ++ 72#8 ++ d ++ a ++ b
  | .vshr st d a b => st ++ 73#8 ++ d ++ a ++ b
  | .vsra st d a b => st ++ 74#8 ++ d ++ a ++ b
  | .vmin st d a b => st ++ 75#8 ++ d ++ a ++ b
  | .vmax st d a b => st ++ 76#8 ++ d ++ a ++ b
  | .vabsd st d a b => st ++ 77#8 ++ d ++ a ++ b
  | .vaddi st d a i => st ++ 78#8 ++ d ++ a ++ i
  | .vmovi st d i => st ++ 79#8 ++ d ++ i
  | .vbits st d a f => st ++ 80#8 ++ d ++ a ++ f
  | .vaddc st d a b => st ++ 81#8 ++ d ++ a ++ b
  | .vsubb st d a b => st ++ 82#8 ++ d ++ a ++ b
  | .vcmp st p c a b => st ++ 83#8 ++ p ++ c ++ a ++ b
  | .vcmpx st p c a b => st ++ 84#8 ++ p ++ c ++ a ++ b
  | .vsel st d a b => st ++ 85#8 ++ d ++ a ++ b
  | .vmov st d a => st ++ 86#8 ++ d ++ a ++ 0#7
  | .plog st d a b f => st ++ 87#8 ++ d ++ a ++ b ++ f ++ 0#3
  | .pset st d a f => st ++ 88#8 ++ d ++ a ++ 0#5 ++ f ++ 0#3
  | .pget st d i => st ++ 89#8 ++ d ++ 0#7 ++ i
  | .ballot st d p => st ++ 90#8 ++ 0#7 ++ d ++ 0#3 ++ p
  | .pfrom st p c a b => st ++ 91#8 ++ p ++ c ++ a ++ b
  | .shfl st d a b => st ++ 92#8 ++ d ++ a ++ b
  | .shflx st d a i => st ++ 93#8 ++ d ++ a ++ i
  | .bcast st d a i => st ++ 94#8 ++ d ++ a ++ i
  | .vred st d a o => st ++ 95#8 ++ d ++ a ++ 0#3 ++ o
  | .vscan st d a e o => st ++ 96#8 ++ d ++ a ++ 0#2 ++ e ++ o
  | .laneid st d => st ++ 97#8 ++ d ++ 0#14
  | .rng st d => st ++ 98#8 ++ d ++ 0#14
  | .fadd st d a b => st ++ 128#8 ++ d ++ a ++ b
  | .fsub st d a b => st ++ 129#8 ++ d ++ a ++ b
  | .fmul st d a b => st ++ 130#8 ++ d ++ a ++ b
  | .ffma st d a b => st ++ 131#8 ++ d ++ a ++ b
  | .fmin st d a b => st ++ 132#8 ++ d ++ a ++ b
  | .fmax st d a b => st ++ 133#8 ++ d ++ a ++ b
  | .fabs st d a => st ++ 134#8 ++ d ++ a ++ 0#7
  | .fneg st d a => st ++ 135#8 ++ d ++ a ++ 0#7
  | .fcmp st p c a b => st ++ 136#8 ++ p ++ c ++ a ++ b
  | .fcmpx st p c a b => st ++ 137#8 ++ p ++ c ++ a ++ b
  | .fclass st d a => st ++ 138#8 ++ d ++ a ++ 0#7
  | .frnd st d a => st ++ 139#8 ++ d ++ a ++ 0#7
  | .fdiv st d a b => st ++ 140#8 ++ d ++ a ++ b
  | .fsqrt st d a => st ++ 141#8 ++ d ++ a ++ 0#7
  | .fspec st d a f => st ++ 142#8 ++ d ++ a ++ f
  | .tblev st d a t => st ++ 143#8 ++ d ++ a ++ 0#6 ++ t
  | .tblld st a b t => st ++ 144#8 ++ 0#6 ++ a ++ b ++ 0#2 ++ t
  | .tblsw st t => st ++ 145#8 ++ 0#20 ++ t
  | .cvt st d a t r => st ++ 146#8 ++ d ++ a ++ t ++ r
  | .rqnt st v a => st ++ 147#8 ++ v ++ a ++ 0#8
  | .dot4 st d a b => st ++ 148#8 ++ d ++ a ++ b
  | .dot8 st d a b => st ++ 149#8 ++ d ++ a ++ b
  | .dot2 st d a b => st ++ 150#8 ++ d ++ a ++ b
  | .pack st d a b => st ++ 151#8 ++ d ++ a ++ b
  | .unpk st d a h => st ++ 152#8 ++ d ++ a ++ 0#6 ++ h
  | .setq st w => st ++ 160#8 ++ 0#12 ++ w ++ 0#4
  | .getq st w => st ++ 161#8 ++ 0#12 ++ w ++ 0#4
  | .maddq st d a b => st ++ 162#8 ++ d ++ a ++ b
  | .msubq st d a b => st ++ 163#8 ++ d ++ a ++ b
  | .mnegq st d a => st ++ 164#8 ++ d ++ a ++ 0#7
  | .mmulq st d a b => st ++ 165#8 ++ d ++ a ++ b
  | .mmuls st d e w => st ++ 166#8 ++ d ++ e ++ w ++ 0#4
  | .mfmaq st d a b => st ++ 167#8 ++ d ++ a ++ b
  | .mredq st d a => st ++ 168#8 ++ d ++ a ++ 0#7
  | .mctrq st d a => st ++ 169#8 ++ d ++ a ++ 0#7
  | .bfly st d e w t v => st ++ 170#8 ++ d ++ e ++ w ++ t ++ v
  | .pbf st d e t => st ++ 171#8 ++ d ++ e ++ 0#5 ++ t ++ 0#1
  | .pbrev st d e k => st ++ 172#8 ++ d ++ e ++ 0#5 ++ k ++ 0#1
  | .prot st d e r k v => st ++ 173#8 ++ d ++ e ++ r ++ k ++ v
  | .mulw st d a b => st ++ 174#8 ++ d ++ a ++ b
  | .mshoup st d a => st ++ 175#8 ++ d ++ a ++ 0#7
  | .ld st d c o z => st ++ 176#8 ++ d ++ c ++ o ++ z
  | .st st d c o z => st ++ 177#8 ++ d ++ c ++ o ++ z
  | .lds st d a i => st ++ 178#8 ++ d ++ a ++ i
  | .sts st d a i => st ++ 179#8 ++ d ++ a ++ i
  | .ldu st d c i => st ++ 180#8 ++ d ++ c ++ i
  | .stu st d c i => st ++ 181#8 ++ d ++ c ++ i
  | .atom st d c o f => st ++ 182#8 ++ d ++ c ++ o ++ f
  | .atomx st d c o f => st ++ 183#8 ++ d ++ c ++ o ++ f
  | .atoms st d o f => st ++ 184#8 ++ d ++ 0#4 ++ o ++ f
  | .fence st c k => st ++ 185#8 ++ 0#17 ++ c ++ k
  | .waitm st d c i => st ++ 186#8 ++ d ++ c ++ i
  | .capld st d c i => st ++ 187#8 ++ 0#2 ++ d ++ c ++ i
  | .capst st d c i => st ++ 188#8 ++ 0#2 ++ d ++ c ++ i
  | .capsub st d a b => st ++ 189#8 ++ 0#2 ++ d ++ 0#2 ++ a ++ b ++ 0#3
  | .capinfo st d a => st ++ 190#8 ++ d ++ 0#2 ++ a ++ 0#9
  | .bmode st d a b => st ++ 191#8 ++ d ++ a ++ b ++ 0#3
  | .bmodeQ st d a => st ++ 191#8 ++ d ++ a ++ 1#9
  | .cpy st a c d r => st ++ 192#8 ++ a ++ c ++ d ++ 0#5 ++ r
  | .cpyt st a c d l r => st ++ 193#8 ++ a ++ c ++ d ++ l ++ 0#3 ++ r
  | .cpym st a c o r => st ++ 194#8 ++ a ++ c ++ 0#4 ++ o ++ 0#3 ++ r
  | .cpyg st a c f => st ++ 195#8 ++ a ++ c ++ 0#7 ++ f
  | .cpys st a c f => st ++ 196#8 ++ a ++ 0#4 ++ c ++ 0#3 ++ f
  | .cred st a c d o r => st ++ 197#8 ++ a ++ c ++ d ++ 0#3 ++ o ++ r
  | .cbatch st d => st ++ 198#8 ++ d ++ 0#15
  | .cwait st d c => st ++ 199#8 ++ d ++ 0#13 ++ c
  | .ctest st d c => st ++ 200#8 ++ d ++ 0#13 ++ c
  | .ctoken st c a b f => st ++ 201#8 ++ 0#2 ++ c ++ a ++ b ++ f
  | .boinit st n a => st ++ 202#8 ++ 0#3 ++ n ++ a ++ 0#9
  | .bowait st n => st ++ 203#8 ++ 0#3 ++ n ++ 0#15
  | .botest st d n => st ++ 204#8 ++ d ++ 0#3 ++ n ++ 0#9
  | .mlay st n a => st ++ 208#8 ++ 0#3 ++ n ++ a ++ 0#9
  | .mlayGet st n a => st ++ 208#8 ++ 0#3 ++ n ++ a ++ 1#9
  | .mgang st a => st ++ 209#8 ++ 0#6 ++ a ++ 0#9
  | .mgangGet st d => st ++ 209#8 ++ d ++ 1#15
  | .mma st t a l r => st ++ 210#8 ++ t ++ a ++ l ++ r ++ 0#4
  | .mmas st t a l r p => st ++ 211#8 ++ t ++ a ++ l ++ r ++ p
  | .accz st t n => st ++ 212#8 ++ t ++ 0#12 ++ n
  | .accld st a c l f => st ++ 213#8 ++ a ++ c ++ 0#4 ++ l ++ 0#3 ++ f
  | .accst st a c l r x f => st ++ 214#8 ++ a ++ 0#4 ++ c ++ l ++ r ++ x ++ f
  | .accalloc st d n p => st ++ 215#8 ++ d ++ 0#7 ++ n ++ p
  | .accallocQ st d => st ++ 215#8 ++ d ++ 256#15
  | .accfree st a n => st ++ 216#8 ++ 0#6 ++ a ++ 0#1 ++ n ++ 0#5
  | .mrel st => st ++ 217#8 ++ 0#21
  | .wyield st => st ++ 224#8 ++ 0#21
  | .wclose st => st ++ 225#8 ++ 0#21
  | .wemit st d t k => st ++ 226#8 ++ d ++ 0#12 ++ t ++ k
  | .wmerge st => st ++ 227#8 ++ 0#21
  | .winfo st d p => st ++ 228#8 ++ d ++ 0#13 ++ p
  | .wmark st d => st ++ 229#8 ++ d ++ 0#15
  | .rpost st d a m => st ++ 230#8 ++ d ++ a ++ m
  | .bpost st d a => st ++ 231#8 ++ d ++ a ++ 0#7
  | .wext st a => st ++ 232#8 ++ 0#7 ++ a ++ 0#7
  | .wdq st a => st ++ 233#8 ++ 0#6 ++ a ++ 0#9
  | .srwait st h r l => st ++ 234#8 ++ 0#15 ++ h ++ r ++ l
  | .srwaitR st a r => st ++ 234#8 ++ 0#6 ++ a ++ 2#4 ++ r ++ 0#3
  | .srsig st r l => st ++ 235#8 ++ 0#16 ++ r ++ l
  | .srsigR st a r => st ++ 235#8 ++ 0#6 ++ a ++ 2#4 ++ r ++ 0#3
  | .cntwait st d a f => st ++ 236#8 ++ d ++ a ++ 0#6 ++ f
  | .cancel st a f => st ++ 237#8 ++ 0#6 ++ a ++ 0#6 ++ f
  | .launchq st d a c => st ++ 238#8 ++ d ++ a ++ 0#2 ++ c ++ 0#3
  | .pfx p n z r t c => 0#3 ++ 254#8 ++ p ++ n ++ z ++ r ++ t ++ c
  | .undefinedOpcode w => w
  | .instructionFetchFault _ => 0
  | .watchdog _ _ _ => 0
  | .priorityAging _ => 0
  | .eviction _ _ => 0
  | .launchEntry _ _ => 0
  | .waitCounterEntry _ _ => 0
  | .signalCounterEntry _ _ => 0
  | .streamAttach _ _ => 0
  | .streamDetach _ _ => 0
  | .queueCreate _ _ => 0
  | .queueDestroy _ _ => 0
  | .cancelEntry _ _ => 0
  | .cancelComplete _ => 0
  | .preEmptEntry _ _ => 0
  | .forcedSave _ _ => 0
  | .crewSave _ _ => 0
  | .crewRestore _ _ _ => 0
  | .launchEligible _ => 0
  | .launchComplete _ => 0
  | .waitgtDeadline _ _ _ => 0
  | .waitmPoll _ _ _ => 0
  | .homeLoad _ => 0
  | .gatewayLoad _ => 0
  | .homeWrite _ => 0
  | .homeAtomic _ => 0
  | .storeAck _ => 0
  | .loadResponse _ => 0
  | .jobStart _ _ => 0
  | .jobComplete _ _ => 0
  | .multicastDelivery _ => 0
  | .wdQuery _ _ => 0
  | .matrixJobStart _ _ => 0
  | .matrixJobComplete _ _ => 0
  | .accownTakeEffect _ _ => 0
  | .tableSwap _ _ => 0
  | .recordIngress _ => 0
  | .recordAccept _ => 0
  | .wakeStart _ _ _ _ => 0
  | .rpostOrdAcceptance _ => 0
  | .nodeBinTimer _ _ => 0
  | .quiescenceSample _ _ => 0
  | .bridgeFilter _ => 0
  | .otinvDone _ => 0
  | .scrubDone _ => 0
  | .perfStateChange _ => 0
  | .debugStopComplete _ => 0
  | .fwloadResult _ => 0
  | .variableLatencyResult _ _ _ _ => 0
  | .globalWriteCompletionTimeReached _ _ _ => 0
  | .gatewayFillResponse _ => 0
  | .slateFetchComplete _ _ _ => 0
  | .supervisorCoreError _ _ => 0
  | .kick _ _ _ _ _ => 0
  | .pageResponse _ _ _ _ => 0
  | .atsInvalidation _ _ _ => 0
  | .escQueuePop _ => 0
  | .escCompletion _ _ => 0
  | .supervisorEventPost _ _ => 0
  | .groupWindowAccess _ _ _ => 0
  | .scratchpadWindowAccess _ _ _ => 0
  | .hostHdmAccess _ _ _ => 0
  | .registerWrite _ _ _ => 0
  | .otinv _ _ => 0
  | .scrub _ _ => 0
  | .psreqWrite _ _ => 0
  | .clampRaise _ _ _ => 0
  | .clampReturn _ _ _ => 0
  | .dbgAttach _ _ _ => 0
  | .dbgDetach _ _ _ => 0
  | .dbgStop _ _ _ => 0
  | .dbgStopGroup _ _ _ _ => 0
  | .dbgResume _ _ _ => 0
  | .dbgStep _ _ _ _ => 0
  | .corerst _ _ => 0
  | .fwload _ _ => 0
  | .bind _ _ _ _ _ _ _ => 0
  | .rebind _ _ _ _ => 0
  | .rebindComplete => 0
  | .ways _ _ _ => 0
  | .nett _ => 0
  | .pscap _ _ => 0
  | .clamp _ _ _ => 0
  | .enroll _ _ _ _ _ => 0
  | .revoke _ _ => 0
  | .svn _ _ => 0
  | .powerOnReset => 0
  | .eccError _ _ _ => 0
  | .spdmSession _ _ => 0
  | .coreCacheLineDrop _ _ => 0
  | .linkRetry _ _ => 0
  | .linkFailureReport _ _ => 0
  | .packetForward _ _ _ => 0
  | .suspectMark _ _ => 0
  | .garnetTokenArrival => 0
  | .gutterSinkAck => 0
  | .backInvalidationResponse _ => 0
  | .cxlCacheGloballyObserved _ => 0
  | .issueStarvation _ _ _ => 0

/-- The instructions that stand in code as words: every row of the table with an encoding. -/
def Instr.encoded : Instr → Bool
  | .nop _ => true
  | .bra _ _ => true
  | .call _ _ => true
  | .ret _ => true
  | .jmpi _ _ _ _ => true
  | .brnz _ _ _ => true
  | .brz _ _ _ => true
  | .ssy _ _ => true
  | .brp _ _ _ => true
  | .brpn _ _ _ => true
  | .sync _ => true
  | .loop _ _ _ => true
  | .exit _ => true
  | .bar _ _ => true
  | .barArv _ _ => true
  | .barWait _ _ => true
  | .barinit _ _ _ => true
  | .phint _ _ _ => true
  | .setmw _ _ => true
  | .getmw _ _ => true
  | .chain _ _ => true
  | .trap _ _ => true
  | .rft _ => true
  | .rftNext _ => true
  | .esc _ _ => true
  | .brkpt _ _ => true
  | .sysrd _ _ _ => true
  | .syswr _ _ _ => true
  | .syswrSet _ _ _ => true
  | .syswrClr _ _ _ => true
  | .waitgt _ _ _ => true
  | .gtime _ _ => true
  | .ipref _ _ => true
  | .sadd _ _ _ _ _ => true
  | .ssub _ _ _ _ _ => true
  | .smul _ _ _ _ _ => true
  | .smulh _ _ _ _ _ => true
  | .sand _ _ _ _ => true
  | .sor _ _ _ _ => true
  | .sxor _ _ _ _ => true
  | .sshl _ _ _ _ => true
  | .sshr _ _ _ _ => true
  | .ssra _ _ _ _ => true
  | .smin _ _ _ _ _ => true
  | .smax _ _ _ _ _ => true
  | .scmp _ _ _ _ _ => true
  | .ssel _ _ _ _ => true
  | .saddi _ _ _ _ => true
  | .smovi _ _ _ => true
  | .smovh _ _ _ => true
  | .sbits _ _ _ _ => true
  | .sdiv _ _ _ _ _ => true
  | .s2v _ _ _ => true
  | .v2s _ _ _ _ => true
  | .vadd _ _ _ _ => true
  | .vsub _ _ _ _ => true
  | .vmul _ _ _ _ => true
  | .vmulh _ _ _ _ => true
  | .vmad _ _ _ _ => true
  | .vand _ _ _ _ => true
  | .vor _ _ _ _ => true
  | .vxor _ _ _ _ => true
  | .vshl _ _ _ _ => true
  | .vshr _ _ _ _ => true
  | .vsra _ _ _ _ => true
  | .vmin _ _ _ _ => true
  | .vmax _ _ _ _ => true
  | .vabsd _ _ _ _ => true
  | .vaddi _ _ _ _ => true
  | .vmovi _ _ _ => true
  | .vbits _ _ _ _ => true
  | .vaddc _ _ _ _ => true
  | .vsubb _ _ _ _ => true
  | .vcmp _ _ _ _ _ => true
  | .vcmpx _ _ _ _ _ => true
  | .vsel _ _ _ _ => true
  | .vmov _ _ _ => true
  | .plog _ _ _ _ _ => true
  | .pset _ _ _ _ => true
  | .pget _ _ _ => true
  | .ballot _ _ _ => true
  | .pfrom _ _ _ _ _ => true
  | .shfl _ _ _ _ => true
  | .shflx _ _ _ _ => true
  | .bcast _ _ _ _ => true
  | .vred _ _ _ _ => true
  | .vscan _ _ _ _ _ => true
  | .laneid _ _ => true
  | .rng _ _ => true
  | .fadd _ _ _ _ => true
  | .fsub _ _ _ _ => true
  | .fmul _ _ _ _ => true
  | .ffma _ _ _ _ => true
  | .fmin _ _ _ _ => true
  | .fmax _ _ _ _ => true
  | .fabs _ _ _ => true
  | .fneg _ _ _ => true
  | .fcmp _ _ _ _ _ => true
  | .fcmpx _ _ _ _ _ => true
  | .fclass _ _ _ => true
  | .frnd _ _ _ => true
  | .fdiv _ _ _ _ => true
  | .fsqrt _ _ _ => true
  | .fspec _ _ _ _ => true
  | .tblev _ _ _ _ => true
  | .tblld _ _ _ _ => true
  | .tblsw _ _ => true
  | .cvt _ _ _ _ _ => true
  | .rqnt _ _ _ => true
  | .dot4 _ _ _ _ => true
  | .dot8 _ _ _ _ => true
  | .dot2 _ _ _ _ => true
  | .pack _ _ _ _ => true
  | .unpk _ _ _ _ => true
  | .setq _ _ => true
  | .getq _ _ => true
  | .maddq _ _ _ _ => true
  | .msubq _ _ _ _ => true
  | .mnegq _ _ _ => true
  | .mmulq _ _ _ _ => true
  | .mmuls _ _ _ _ => true
  | .mfmaq _ _ _ _ => true
  | .mredq _ _ _ => true
  | .mctrq _ _ _ => true
  | .bfly _ _ _ _ _ _ => true
  | .pbf _ _ _ _ => true
  | .pbrev _ _ _ _ => true
  | .prot _ _ _ _ _ _ => true
  | .mulw _ _ _ _ => true
  | .mshoup _ _ _ => true
  | .ld _ _ _ _ _ => true
  | .st _ _ _ _ _ => true
  | .lds _ _ _ _ => true
  | .sts _ _ _ _ => true
  | .ldu _ _ _ _ => true
  | .stu _ _ _ _ => true
  | .atom _ _ _ _ _ => true
  | .atomx _ _ _ _ _ => true
  | .atoms _ _ _ _ => true
  | .fence _ _ _ => true
  | .waitm _ _ _ _ => true
  | .capld _ _ _ _ => true
  | .capst _ _ _ _ => true
  | .capsub _ _ _ _ => true
  | .capinfo _ _ _ => true
  | .bmode _ _ _ _ => true
  | .bmodeQ _ _ _ => true
  | .cpy _ _ _ _ _ => true
  | .cpyt _ _ _ _ _ _ => true
  | .cpym _ _ _ _ _ => true
  | .cpyg _ _ _ _ => true
  | .cpys _ _ _ _ => true
  | .cred _ _ _ _ _ _ => true
  | .cbatch _ _ => true
  | .cwait _ _ _ => true
  | .ctest _ _ _ => true
  | .ctoken _ _ _ _ _ => true
  | .boinit _ _ _ => true
  | .bowait _ _ => true
  | .botest _ _ _ => true
  | .mlay _ _ _ => true
  | .mlayGet _ _ _ => true
  | .mgang _ _ => true
  | .mgangGet _ _ => true
  | .mma _ _ _ _ _ => true
  | .mmas _ _ _ _ _ _ => true
  | .accz _ _ _ => true
  | .accld _ _ _ _ _ => true
  | .accst _ _ _ _ _ _ _ => true
  | .accalloc _ _ _ _ => true
  | .accallocQ _ _ => true
  | .accfree _ _ _ => true
  | .mrel _ => true
  | .wyield _ => true
  | .wclose _ => true
  | .wemit _ _ _ _ => true
  | .wmerge _ => true
  | .winfo _ _ _ => true
  | .wmark _ _ => true
  | .rpost _ _ _ _ => true
  | .bpost _ _ _ => true
  | .wext _ _ => true
  | .wdq _ _ => true
  | .srwait _ _ _ _ => true
  | .srwaitR _ _ _ => true
  | .srsig _ _ _ => true
  | .srsigR _ _ _ => true
  | .cntwait _ _ _ _ => true
  | .cancel _ _ _ => true
  | .launchq _ _ _ _ => true
  | .pfx _ _ _ _ _ _ => true
  | .undefinedOpcode _ => false
  | .instructionFetchFault _ => false
  | .watchdog _ _ _ => false
  | .priorityAging _ => false
  | .eviction _ _ => false
  | .launchEntry _ _ => false
  | .waitCounterEntry _ _ => false
  | .signalCounterEntry _ _ => false
  | .streamAttach _ _ => false
  | .streamDetach _ _ => false
  | .queueCreate _ _ => false
  | .queueDestroy _ _ => false
  | .cancelEntry _ _ => false
  | .cancelComplete _ => false
  | .preEmptEntry _ _ => false
  | .forcedSave _ _ => false
  | .crewSave _ _ => false
  | .crewRestore _ _ _ => false
  | .launchEligible _ => false
  | .launchComplete _ => false
  | .waitgtDeadline _ _ _ => false
  | .waitmPoll _ _ _ => false
  | .homeLoad _ => false
  | .gatewayLoad _ => false
  | .homeWrite _ => false
  | .homeAtomic _ => false
  | .storeAck _ => false
  | .loadResponse _ => false
  | .jobStart _ _ => false
  | .jobComplete _ _ => false
  | .multicastDelivery _ => false
  | .wdQuery _ _ => false
  | .matrixJobStart _ _ => false
  | .matrixJobComplete _ _ => false
  | .accownTakeEffect _ _ => false
  | .tableSwap _ _ => false
  | .recordIngress _ => false
  | .recordAccept _ => false
  | .wakeStart _ _ _ _ => false
  | .rpostOrdAcceptance _ => false
  | .nodeBinTimer _ _ => false
  | .quiescenceSample _ _ => false
  | .bridgeFilter _ => false
  | .otinvDone _ => false
  | .scrubDone _ => false
  | .perfStateChange _ => false
  | .debugStopComplete _ => false
  | .fwloadResult _ => false
  | .variableLatencyResult _ _ _ _ => false
  | .globalWriteCompletionTimeReached _ _ _ => false
  | .gatewayFillResponse _ => false
  | .slateFetchComplete _ _ _ => false
  | .supervisorCoreError _ _ => false
  | .kick _ _ _ _ _ => false
  | .pageResponse _ _ _ _ => false
  | .atsInvalidation _ _ _ => false
  | .escQueuePop _ => false
  | .escCompletion _ _ => false
  | .supervisorEventPost _ _ => false
  | .groupWindowAccess _ _ _ => false
  | .scratchpadWindowAccess _ _ _ => false
  | .hostHdmAccess _ _ _ => false
  | .registerWrite _ _ _ => false
  | .otinv _ _ => false
  | .scrub _ _ => false
  | .psreqWrite _ _ => false
  | .clampRaise _ _ _ => false
  | .clampReturn _ _ _ => false
  | .dbgAttach _ _ _ => false
  | .dbgDetach _ _ _ => false
  | .dbgStop _ _ _ => false
  | .dbgStopGroup _ _ _ _ => false
  | .dbgResume _ _ _ => false
  | .dbgStep _ _ _ _ => false
  | .corerst _ _ => false
  | .fwload _ _ => false
  | .bind _ _ _ _ _ _ _ => false
  | .rebind _ _ _ _ => false
  | .rebindComplete => false
  | .ways _ _ _ => false
  | .nett _ => false
  | .pscap _ _ => false
  | .clamp _ _ _ => false
  | .enroll _ _ _ _ _ => false
  | .revoke _ _ => false
  | .svn _ _ => false
  | .powerOnReset => false
  | .eccError _ _ _ => false
  | .spdmSession _ _ => false
  | .coreCacheLineDrop _ _ => false
  | .linkRetry _ _ => false
  | .linkFailureReport _ _ => false
  | .packetForward _ _ _ => false
  | .suspectMark _ _ => false
  | .garnetTokenArrival => false
  | .gutterSinkAck => false
  | .backInvalidationResponse _ => false
  | .cxlCacheGloballyObserved _ => false
  | .issueStarvation _ _ _ => false

end Sys2Proof
end

