-- ==== Sys2Proof/Machine/Bits.lean ====
section
/-! DEFINITION. Bit fields, sign extension, byte order and lane lists: the helpers every meaning uses (R3, R29, R108). -/

namespace Sys2Proof.Machine

/-- `x[hi:lo]` of a natural number read as bits (R3, R6). -/
def bitsOf (x hi lo : Nat) : Nat := x / 2 ^ lo % 2 ^ (hi + 1 - lo)

/-- `x[n]` of a natural number read as bits. -/
def bitOf (x n : Nat) : Bool := x.testBit n

/-- A natural number of `w` bits read as two's complement. -/
def signedOf (w x : Nat) : Int :=
  if x % 2 ^ w < 2 ^ (w - 1) then (x % 2 ^ w : Nat) else ((x % 2 ^ w : Nat) : Int) - (2 ^ w : Nat)

/-- An exact integer modulo 2^w, as the natural number of its bit pattern (R109). -/
def wrapTo (w : Nat) (x : Int) : Nat := (x % ((2 ^ w : Nat) : Int)).toNat

/-- An exact integer clamped to the range lo to hi (R109). -/
def clampTo (lo hi x : Int) : Int := if x < lo then lo else if hi < x then hi else x

/-- A word read as a signed value. -/
def sWord (x : Word) : Int := signedOf 32 x.toNat

/-- Two's complement of a signed field of `w` bits, extended to a word. -/
def sext (w x : Nat) : Word := BitVec.ofInt 32 (signedOf w x)

/-- The 64-bit value of two words, the low word first (R108). -/
def pairOf (lo hi : Word) : DWord := hi ++ lo

/-- Little-endian bytes of a value, lowest first (R3). -/
def bytesLE : Nat → Nat → List (BitVec 8)
  | 0, _ => []
  | n + 1, x => BitVec.ofNat 8 x :: bytesLE n (x / 256)

/-- The value of little-endian bytes (R3). -/
def natLE : List (BitVec 8) → Nat
  | [] => 0
  | b :: bs => b.toNat + 256 * natLE bs

/-- All lanes 0 to 127 in ascending order (R29). -/
def lanes : List Nat := List.range laneCount

/-- The lanes whose bit in the mask is 1, ascending (R6). -/
def activeLanes (m : Mask) : List Nat := lanes.filter fun l => m.getLsbD l

/-- The lowest lane whose bit is 1. -/
def lowestLane (m : Mask) : Option Nat := lanes.find? fun l => m.getLsbD l

/-- The mask whose bit L is `f L`. -/
def maskOf (f : Nat → Bool) : Mask :=
  lanes.foldl (fun m l => if f l then m ||| BitVec.ofNat 128 (2 ^ l) else m) 0

/-- The mask of the lanes below n. -/
def maskBelow (n : Nat) : Mask := BitVec.ofNat 128 (2 ^ (min n 128) - 1)

/-- The word of an array of lanes. -/
def laneGet (vs : List Word) (l : Nat) : Word := getAt 0 vs l

/-- New lane values: lane L of the mask takes `f L`, every other lane keeps its old value (R143). -/
def laneMerge (m : Mask) (old : List Word) (f : Nat → Word) : List Word :=
  lanes.map fun l => if m.getLsbD l then f l else laneGet old l

/-- Word j of a mask: lanes 32j to 32j + 31 (R32). -/
def maskWord (m : Mask) (j : Nat) : Word := m.extractLsb' (32 * j) 32

/-- A mask with its word j replaced. -/
def maskSetWord (m : Mask) (j : Nat) (w : Word) : Mask :=
  (m &&& ~~~ (BitVec.ofNat 128 (0xFFFFFFFF * 2 ^ (32 * j)))) ||| BitVec.ofNat 128 (w.toNat * 2 ^ (32 * j))

end Sys2Proof.Machine
end

