-- ==== Sys2Proof/Machine/Flags.lean ====
section
/-! DEFINITION. The FLAGS register and the arithmetic traps (R118 to R121), and the mode word's fields (R89 to R92). -/

namespace Sys2Proof.Machine

/-- The seven sticky flags of FLAGS, bit 0 IV to bit 6 MQR (R118). -/
abbrev FlagBits := BitVec 7

/-- Invalid. -/
def flagIV : FlagBits := 1
/-- Divide-by-zero. -/
def flagDZ : FlagBits := 2
/-- Overflow. -/
def flagOF : FlagBits := 4
/-- Underflow. -/
def flagUF : FlagBits := 8
/-- Inexact. -/
def flagNX : FlagBits := 16
/-- Modular configuration. -/
def flagMQC : FlagBits := 32
/-- Modular range. -/
def flagMQR : FlagBits := 64

/-- The flags of a condition, or none. -/
def flagIf (b : Bool) (f : FlagBits) : FlagBits := if b then f else 0

/-- Element types of R90, by their codes. -/
abbrev ETypeCode := Nat

/-- Element width of a type code (R90). -/
def etWidth : ETypeCode → Nat
  | 0 | 1 | 2 => 32
  | 3 | 4 | 5 | 6 => 16
  | 7 | 8 | 9 | 10 => 8
  | 11 | 12 | 13 => 4
  | _ => 64

/-- Elements per register of a type code; a 64-bit type counts as one element of a pair (R90, R164). -/
def etCount (t : ETypeCode) : Nat := if t ≥ 14 then 1 else 32 / etWidth t

/-- Two's-complement integer types. -/
def etSigned (t : ETypeCode) : Bool := t = 0 || t = 3 || t = 7 || t = 11 || t = 15

/-- Integer types, signed or unsigned. -/
def etInt (t : ETypeCode) : Bool := etSigned t || t = 1 || t = 4 || t = 8 || t = 12 || t = 14

/-- Type set A of R142. -/
def setA : List ETypeCode := [0, 1, 2, 3, 4, 5, 6, 7, 8, 9, 10, 11, 12, 13, 14, 15]
/-- Type set I of R142. -/
def setI : List ETypeCode := [0, 1, 3, 4, 7, 8, 11, 12]
/-- Type set W of R142. -/
def setW : List ETypeCode := [0, 1]
/-- Type set U of R142. -/
def setU : List ETypeCode := [3, 4, 7, 8, 11, 12]
/-- Type set F of R142. -/
def setF : List ETypeCode := [2, 5, 6]
/-- Type set G of R142. -/
def setG : List ETypeCode := [2]
/-- Type set H of R142. -/
def setH : List ETypeCode := [2, 5, 6, 9, 10, 13]
/-- Type set P of R142. -/
def setP : List ETypeCode := [3, 4, 5, 6, 7, 8, 9, 10, 11, 12, 13]
/-- Type set Q of R142. -/
def setQ : List ETypeCode := [0, 1, 2, 3, 4, 5, 6, 7, 8, 9, 10, 11, 12, 13]

/-- MW.GUARD (R89). -/
def mwGuard (mw : Word) : Nat := bitsOf mw.toNat 4 0
/-- MW.GNEG (R89). -/
def mwGneg (mw : Word) : Bool := bitOf mw.toNat 5
/-- MW.ETYPE (R89). -/
def mwEtype (mw : Word) : Nat := bitsOf mw.toNat 9 6
/-- MW.RND (R89). -/
def mwRnd (mw : Word) : Nat := bitsOf mw.toNat 12 10
/-- MW.SAT (R89). -/
def mwSat (mw : Word) : Bool := bitOf mw.toNat 13
/-- MW.FTZ (R89). -/
def mwFtz (mw : Word) : Bool := bitOf mw.toNat 14
/-- MW.PSR (R89). -/
def mwPsr (mw : Word) : Bool := bitOf mw.toNat 15
/-- MW.CHK (R89). -/
def mwChk (mw : Word) : Bool := bitOf mw.toNat 16
/-- MW.TEIV (R89). -/
def mwTeiv (mw : Word) : Bool := bitOf mw.toNat 17
/-- MW.TEDZ (R89). -/
def mwTedz (mw : Word) : Bool := bitOf mw.toNat 18
/-- MW.TEOF (R89). -/
def mwTeof (mw : Word) : Bool := bitOf mw.toNat 19
/-- MW.TEMQ (R89). -/
def mwTemq (mw : Word) : Bool := bitOf mw.toNat 20

/-- The mode-word values that R92 reserves. -/
def mwReserved (mw : Word) : Bool :=
  bitsOf mw.toNat 31 21 ≠ 0 || (24 ≤ mwGuard mw && mwGuard mw ≤ 30) || 5 ≤ mwRnd mw
    || (mwGneg mw && mwGuard mw = 31)

/-- The trap that an enabled condition takes: its cause, the lowest of those that arise (R120). -/
def enabledCause (mw : Word) (f : FlagBits) : Option Nat :=
  if mwTeiv mw && f &&& flagIV ≠ 0 then some 0x20
  else if mwTedz mw && f &&& flagDZ ≠ 0 then some 0x21
  else if mwTeof mw && f &&& flagOF ≠ 0 then some 0x22
  else if mwTemq mw && f &&& flagMQC ≠ 0 then some 0x28
  else if mwTemq mw && f &&& flagMQR ≠ 0 then some 0x29
  else none

/-- The flag whose enable takes a cause (R120). -/
def causeFlag : Nat → FlagBits
  | 0x20 => flagIV
  | 0x21 => flagDZ
  | 0x22 => flagOF
  | 0x28 => flagMQC
  | 0x29 => flagMQR
  | _ => 0

/-- The lowest lane, in the list's order, whose own flags raise the cause (R120). -/
def causeLane (c : Nat) : List (Nat × FlagBits) → Nat
  | [] => 0
  | (l, f) :: rest => if f &&& causeFlag c ≠ 0 then l else causeLane c rest

/-- The union of the lanes' flags (R119). -/
def unionFlags (fs : List (Nat × FlagBits)) : FlagBits := fs.foldl (fun a p => a ||| p.2) 0

end Sys2Proof.Machine
end

