-- ==== Sys2Proof/Machine/State.lean ====
section
/-! DEFINITION. Everything the spec gives the machine, as plain data: groups (R30), crews (R40), launches and partitions (R43 to R46, R311 to R329, R352 to R373), cores (R16), homes and caches (R176 to R180), messages in flight, streams and the Dormer (R289 to R310), the network (R336 to R348), the package (R12); and the state after power-on reset. Log 1 names the fields that are the model's own. An array held as a list reads as its default past the end. -/

namespace Sys2Proof.Machine

open Sys2Proof

/-- A stop of the model with a reason. -/
inductive Fault where
  /-- Raised by a group instruction in a state whose `cur` names no resident group. Safe: the step function never asks
  for it. -/
  | noIssuingGroup
  deriving DecidableEq, Repr

/-- Why the model gives no next state. -/
inductive Refusal where
  /-- An instruction without a meaning in this model. Safe. -/
  | notModelled (mnemonic : String)
  /-- A step of the device that its agent cannot take in this state: nothing is there to do it. Safe: the step function
  then passes on to the next entry of its agenda. -/
  | notEnabled (step : String)
  deriving DecidableEq, Repr

/-- Which group: core, crew slot, crew-local index (R18, R39). -/
structure Gid where
  core : Nat
  slot : Nat
  grp : Nat
  deriving DecidableEq, Repr

/-- The prefix word in front of the instruction being issued (R93, R95). -/
structure Prefix where
  pmask : Nat
  pneg : Bool
  pzero : Bool
  prnd : Nat
  ptype : BitVec 4
  vc : Nat
  word : Word
  deriving DecidableEq, Repr

/-- The three states of a group (R123). -/
inductive GState where
  | normal | user | core
  deriving DecidableEq, Repr

/-- Roles (R47). -/
inductive Role where
  | general | copy | matrix | vector
  deriving DecidableEq, Repr

/-- A reconvergence stack entry (R37). -/
structure StackEntry where
  path : Bool
  pc : Word
  mask : Mask
  mw : Word
  deriving DecidableEq, Repr

/-- The group's registers (R30). v0 to v127 by lane, s0 to s59 (s60 to s63 are the activity mask, R32), p0 to p23,
c0 to c15, lay0 to lay7, qm, qb, W by lane. -/
structure Regs where
  v : List (List Word)
  s : List Word
  act : Mask
  xm : Mask
  p : List Mask
  c : List (BitVec 128)
  mw : Word
  flags : FlagBits
  lay : List (BitVec 256)
  qm : List DWord
  qb : List DWord
  w : List DWord
  wv : Mask
  cc : Nat
  prevDest : Nat
  gang : Word
  bcc : Word
  rngKey : DWord
  rngCtr : DWord
  deriving DecidableEq, Repr

/-- A value on its way to a register: lanes of a vector register, a scalar, lanes of a predicate, lanes of qm and
qb. -/
inductive RegVal where
  | vec (m : Mask) (vs : List Word)
  | scal (w : Word)
  | pred (m bits : Mask)
  | modq (m : Mask) (qm qb : List DWord)
  deriving DecidableEq, Repr

/-- A fixed-latency result that is not ready yet (R82 to R84): the register by its code (0 to 127 v, 128 to 191 s, 192
to 215 p, 216 qm and qb), and the issue position from which it is ready. -/
structure Pending where
  reg : Nat
  val : RegVal
  readyAt : Nat
  deriving DecidableEq, Repr

/-- One lane of a load on its way: its bytes' numbers, lowest first, and the bytes among them that the group's own core
forwards (R183, R185). For `CAPLD` the lane is the byte offset. -/
structure LaneLoad where
  lane : Nat
  addrs : List Nat
  fwd : List (Nat × BitVec 8)
  deriving DecidableEq, Repr

/-- A `WAITM` at work (R207): destination, comparand, condition, deadline, the word's object and byte in it, the time of
the latest read, the page request group that a read waits for, whether the host has just granted the page. -/
structure Waitm where
  sd : Nat
  v : Word
  cond : Nat
  deadline : Nat
  obj : Nat
  y : Nat
  readAt : Option Nat
  page : Option Nat
  granted : Bool
  deriving DecidableEq, Repr

/-- What an outstanding variable-latency result will write (R85). -/
inductive OutKind where
  /-- a result that is already known -/
  | value (writes : List (Nat × RegVal))
  /-- the words of a scratchpad load, or the old values of a scratchpad atomic, already known (R197, R201, R205) -/
  | scratch (writes : List (Nat × RegVal))
  /-- a per-lane load of `size` bytes into registers from `reg`; `zero` lanes receive zero; bytes collected so far,
  by physical address -/
  | load (reg size : Nat) (lanes : List LaneLoad) (zero : Mask) (got : List (Nat × BitVec 8)) (poison : List Nat)
  /-- LDU into a scalar -/
  | loadU (sd : Nat) (lane : LaneLoad) (got : List (Nat × BitVec 8)) (poison : List Nat)
  /-- CAPLD into a capability register -/
  | loadC (cd : Nat) (lane : LaneLoad) (got : List (Nat × BitVec 8)) (poison : List Nat)
  /-- old values of an atomic into `reg`; the old values collected so far, by lane; the lanes whose word lay in a
  poisoned line, with that line -/
  | atom (reg : Nat) (mask : Mask) (got : List (Nat × Word)) (poison : List (Nat × Nat))
  /-- WAITM -/
  | waitm (w : Waitm)
  /-- a scratchpad result that consumes poison: the lane and the line (R266) -/
  | poisoned (lane line : Nat)
  deriving DecidableEq, Repr

/-- An outstanding variable-latency result of a group (R85): the registers it will write, by code; the lines still
awaited; the offset of the instruction (for the imprecise trap of R266). -/
structure Outst where
  id : Nat
  regs : List Nat
  kind : OutKind
  awaited : List Nat
  pc : Word
  deriving DecidableEq, Repr

/-- A line write waiting in a group's store buffer (R182): its id, its line, bytes by offset in the line, the effective
lease, whether host copies must be invalidated. -/
structure BufWrite where
  id : Nat
  line : Nat
  bytes : List (Nat × BitVec 8)
  lease : Nat
  host : Bool
  deriving DecidableEq, Repr

/-- A closed batch that is not complete (R238): its number, its jobs not yet complete, the largest GWCT of its
completed memory writes. -/
structure Batch where
  num : Word
  jobs : List Nat
  gwct : Nat
  deriving DecidableEq, Repr

/-- A post at work (R309): whether its lanes wait for acceptance one after another and whether late lanes trap, the
status register, the offset of the instruction, the lanes still to post with their records, the statuses so far, the
record that waits for acceptance, the stall count. The instruction is held at issue until it is over (R344). -/
structure Post where
  ord : Bool
  tl : Bool
  va : Nat
  pc : Word
  todo : List (Nat × BitVec 512)
  done : List (Nat × Nat)
  msg : Option Nat
  st : Nat
  deriving DecidableEq, Repr

/-- What a group waits for. -/
inductive Wait where
  | none
  /-- a register with an outstanding result (R85): the instruction, which reads and writes these registers, is issued
  again when one arrives -/
  | result (reads writes : List Nat)
  /-- every pending result, before the first instruction of a handler or before retirement (R86) -/
  | drain
  | gt (deadline : Nat)
  | barrier (b : Nat)
  | ring (ring slot : Nat) (phase : Bool)
  /-- issued into the gang latch, until it empties (R50) -/
  | gang
  /-- another gang list holds the latch (R50) -/
  | gangBusy
  | cwait (scope : Nat) (n : Word) (sd : Nat)
  | bowait (o : Nat)
  | cntwait (sd id value : Nat)
  /-- a pop that waits for words of FIFO f -/
  | fifo (f : Nat)
  /-- a page request group, by its index (R257), with its pages -/
  | page (index : Nat)
  /-- pages that do not translate, not yet requested (R256, R257): the lanes that miss with their pages, the pages (with
  true for a write), the registers that the instruction writes -/
  | pageIndex (lanes : List (Nat × Nat)) (pages : List (Nat × Bool)) (writes : List Nat)
  /-- the supervisor core's completion of an `ESC` (R134), with a trap that a result has raised meanwhile: cause, offset,
  value -/
  | esc (late : Option (Nat × Word × Word))
  /-- the supervisor core's completion of a double fault (R247), with a trap that a result has raised meanwhile -/
  | doubleFault (late : Option (Nat × Word × Word))
  /-- a trap that is being taken: its cause, offset and value, until the pending results are written (R245 step 1) -/
  | trap (cause : Nat) (tpc tval : Word)
  /-- lanes of a post that find no credit or wait for acceptance (R309, R344) -/
  | post (p : Post)
  /-- an unbacked lane's WYIELD, until a slot frees (R302) -/
  | slot
  deriving DecidableEq, Repr

/-- Whether a group runs, is in its crew's halt (with how long ago that began, in twelfths of a nominal clock, and whether it
retires nothing in skid, R249), is stopped by the debug node (R263), stopped for a save (R259), or halted by a cancel (R46). -/
inductive Halt where
  | running
  | halted (spent : Nat) (final : Bool)
  | debug
  | saving
  | cancelled
  deriving DecidableEq, Repr

/-- The reuse latch of a group (R275). -/
structure Reuse where
  va : Nat
  etype : Nat
  op : Nat
  pattern : Nat
  regs : List (List Word)
  act : Mask
  deriving DecidableEq, Repr

/-- The wake kinds and entry points (R51). -/
inductive WakeKind where
  | open | resume | merge | close | late | node
  deriving DecidableEq, Repr

/-- START, END, KEY, COUNT and FLAGS of a slate or window. -/
structure SlateInfo where
  start : DWord
  stop : DWord
  key : Word
  count : Word
  flags : Word
  deriving DecidableEq, Repr

/-- A lane of a wake group (R51, R52): its slate, by id, the partner of a merge, whether it is still unbacked (R302),
whether END was moved in this wake (R306), and the values that WINFO and WINFO.P report (R308). -/
structure WakeLane where
  slate : Option Nat
  partner : Option Nat
  unbacked : Bool
  moved : Bool
  info : Option SlateInfo
  infoP : Option SlateInfo
  deriving DecidableEq, Repr

/-- A group (R30, R39, R47, R123). `acq` are the results that its latest acquire covers, `bankBuf` the scratchpad stores
that wait for them (R187, R197). The model's own fields (log 1, log 8): `acqs` counts its acquires and the results that came back under one; `seen` has the versions of bytes
that it has read (R184); `ready` is how long it has been ready and not chosen, in
twelfths of a nominal clock (R53); `windowed` lists the registers that a window write has changed since it last issued (R255). `stream` is the stream of a window
wake group (R308). -/
structure Group where
  gid : Nat
  role : Role
  budget : Nat
  laneset : Nat
  regs : Regs
  pc : Word
  state : GState
  ps : GState
  stack : List StackEntry
  tcause : BitVec 8
  tpc : Word
  tval : Word
  tskid : BitVec 2
  sstep : Bool
  stepOwed : Option Word
  codeBase : Nat
  codeSize : Nat
  userSince : Nat
  batch : Word
  openJobs : List Nat
  openGwct : Nat
  closed : List Batch
  cstat : BitVec 4
  seenPhase : BitVec 16
  reuse : Option Reuse
  usc : Word
  lgwct : DWord
  buf : List BufWrite
  pos : Nat
  pend : List Pending
  outst : List Outst
  acq : List Nat
  acqs : Nat
  seen : List (Nat × Nat)
  bankBuf : List (Nat × Word)
  wait : Wait
  held : Option Nat
  halt : Halt
  starved : Bool
  since : Nat
  ready : Nat
  granted : List Nat
  windowed : List Nat
  wake : Option (WakeKind × List WakeLane)
  stream : BitVec 16
  deriving DecidableEq, Repr

/-- A barrier: expected count, arrived count, phase (R40, R129). -/
structure Barrier where
  expected : Nat
  arrived : Nat
  phase : Bool
  deriving DecidableEq, Repr

/-- A stage ring: arrival count, and 8 slots of phase and signal count (R49). -/
structure Ring where
  arrival : Nat
  slots : List (Bool × Nat)
  deriving DecidableEq, Repr

/-- A barrier object: pending count and armed bit (R241). -/
structure BarObj where
  count : BitVec 64
  armed : Bool
  deriving DecidableEq, Repr

/-- An accumulator operand in a latch or job: the tile, and the A tile as held in registers from va on (R268, R277). -/
structure TileIn where
  grp : Nat
  tile : Nat
  va : Nat
  regs : List (List Word)
  act : Mask
  deriving DecidableEq, Repr

/-- The shared part of a matrix operation (R274). -/
structure MatOp where
  op : Nat
  pattern : Nat
  etype : Nat
  lay : BitVec 256
  reuse : Bool
  deriving DecidableEq, Repr

/-- The gang latch of a crew (R50): its list, the groups that have issued (with the stall field of their word), the operation and its tiles. -/
structure Gang where
  list : List Nat
  issued : List (Nat × Nat)
  op : MatOp
  tiles : List TileIn
  deriving DecidableEq, Repr

/-- A crew (R39, R40): `total` is its group count at placement, `parked` how long it has been fully parked, in twelfths of
a nominal clock (R55), `left` when its latest group that has retired did so, `forced` whether a forced save stops it (R259). -/
structure Crew where
  launch : Nat
  index : Nat
  part : Nat
  ctx : Word
  total : Nat
  groups : List (Option Group)
  granules : List Nat
  barriers : List Barrier
  rings : List Ring
  held : BitVec 64
  reserve : Option (Nat × Nat)
  gang : Option Gang
  objs : List BarObj
  fifos : List Nat
  attached : Bool
  preemptAt : Option Nat
  forced : Bool
  parked : Nat
  left : Option Nat
  hints : List (Nat × Mask × List (Nat × Nat))
  deriving DecidableEq, Repr

/-- Where the bytes of a job's side lie: scratchpad of a crew slot, or memory (object id, byte offset in the object). -/
inductive Side where
  | scratch (off : Nat)
  | mem (obj : Nat) (off : Nat)
  deriving DecidableEq, Repr

/-- A footprint range (R190): object lines, scratchpad granules, or tiles, first and one past the last. -/
inductive Span where
  | lines (obj first last : Nat)
  | granules (first last : Nat)
  | tiles (first last : Nat)
  deriving DecidableEq, Repr

/-- What a job of the copy engine does (R227 to R240, R331). -/
inductive JobKind where
  | copy (src dst : Side) (len : Nat)
  | tile (mem : Nat × Nat) (scratch : Nat) (lay : BitVec 256) (toMem : Bool)
  | multicast (src : Side) (dst len : Nat) (peers : List Nat) (obj : Nat)
  | gather (list : Nat) (obj base limit : Nat) (dst count row : Nat)
  | scatter (src list : Nat) (obj base limit : Nat) (count row : Nat)
  | reduce (src dst : Side) (len op : Nat)
  | token (n : Word) (obj off : Nat) (val : DWord) (size : Nat)
  | query (off : Nat)
  deriving DecidableEq, Repr

/-- A job of the copy engine or a WDQ query, in one of the 32 job slots (R228), of the crew of an index of its launch.
`after` names what it waits for: the line writes and atomics that its group had not yet seen performed when it was created
(R192) and, for a token, the jobs of the batches that the token covers, which are visible from `dueAt` on (R240). -/
structure Job where
  id : Nat
  part : Nat
  launch : Nat
  crew : Nat
  ctx : Word
  granules : List Nat
  slot : Nat
  grp : Nat
  batch : Word
  kind : JobKind
  reads : List Span
  writes : List Span
  after : List Nat
  dueAt : Nat
  started : Bool
  acks : Nat
  gwct : Nat
  skipped : List Nat
  page : Option Nat
  deriving DecidableEq, Repr

/-- What a matrix job does (R280). -/
inductive MatKind where
  | mma (op : MatOp) (tiles : List TileIn)
  | zero (first count : Nat)
  | load (tile : Nat) (src : Side) (lay : BitVec 256)
  | store (tile : Nat) (dst : Side) (lay : BitVec 256) (scale : Option Nat) (rnd : Nat)
  deriving DecidableEq, Repr

/-- A matrix job in the core's queue of 16 (R280): its crew by index, context and slot, the groups and batches it belongs
to, and in `after` the line writes and atomics of its groups that were not yet performed when it was created (R192). -/
structure MatJob where
  id : Nat
  part : Nat
  launch : Nat
  crew : Nat
  ctx : Word
  granules : List Nat
  slot : Nat
  owners : List (Nat × Word)
  pc : Word
  kind : MatKind
  reads : List Span
  writes : List Span
  after : List Nat
  started : Bool
  acks : Nat
  gwct : Nat
  skipped : List Nat
  page : Option Nat
  deriving DecidableEq, Repr

/-- Modes of an SRAM bank (R19). -/
inductive BankMode where
  | cache | scratch | fifo | dormer
  deriving DecidableEq, Repr

/-- An SRAM bank (R19, R20, R213, R322): mode, pinned, the words of a FIFO, the launch whose Dormer it serves. -/
structure Bank where
  mode : BankMode
  pinned : Bool
  fifo : List Word
  dormerOf : Option Nat
  deriving DecidableEq, Repr

/-- One copy of a programmable table (R160). -/
structure TableCopy where
  lo : Word
  e : BitVec 32
  segs : List (Word × Word)
  deriving DecidableEq, Repr

/-- A programmable table (R160, R163): active and shadow copy, version, exchanges not yet in effect. -/
structure Table where
  active : TableCopy
  shadow : TableCopy
  version : BitVec 16
  swaps : Nat
  deriving DecidableEq, Repr

/-- A line held by a core cache or a gateway cache under a lease (R177, R179): data, expiry, the versions of its bytes at
the home at the grant (the model's own, DESIGN CHOICE log 8), the partition, poison (R370), the way of a gateway cache (R353). -/
structure HeldLine where
  line : Nat
  data : List (BitVec 8)
  expiry : Nat
  vers : List Nat
  part : Nat
  poison : Bool
  way : Nat
  deriving DecidableEq, Repr

/-- A record and the partition into whose stream it goes (R289). -/
structure Record where
  bits : BitVec 512
  part : Nat
  deriving DecidableEq, Repr

/-- An item of a slate's pending list (R299). -/
inductive Item where
  | resume (r : BitVec 512)
  | merge (partner : Nat)
  | close (window : Option Int)
  deriving DecidableEq, Repr

/-- A slate of the Dormer (R293, R299): an id of the model's own, the fields (START and END exact, R294), checked out, and
for a close, its pending list, its place in the order of check-ins, whether it lies in the spill object, whether it is being
fetched back, whether it is the partner of a merge, whether it is backed (R302), the bank of its slot (R211, R212), and its
slot of the spill object (R301). -/
structure Slate where
  id : Nat
  stream : BitVec 16
  program : BitVec 16
  key : Word
  start : Int
  stop : Int
  count : Word
  flags : Word
  frame : List Word
  out : Bool
  shut : Bool
  items : List Item
  stamp : Nat
  spilled : Bool
  fetching : Bool
  gone : Bool
  backed : Bool
  bank : Option Nat
  place : Option Nat
  deriving DecidableEq, Repr

/-- What a partition core keeps of a stream (R291): its watermark W, and whether it has ended there. -/
structure StreamMark where
  stream : BitVec 16
  wmark : Int
  ended : Bool
  deriving DecidableEq, Repr

/-- An open or late wake that waits in the wake gatherer (R51). -/
structure WakeItem where
  kind : WakeKind
  slate : Option Nat
  record : BitVec 512
  deriving DecidableEq, Repr

/-- The Dormer of one partition core for one window launch (R290, R291, R299 to R301): the banks that take its new slates, what it keeps of each stream, slates, the open
and late wakes that wait in the gatherer; of a kind-2 launch the windows whose close waits for an earlier one of its key,
and the closes that are raised and not over, with the group that runs them (R296). -/
structure Dormer where
  launch : Nat
  banks : List Nat
  marks : List StreamMark
  slates : List Slate
  nextId : Nat
  stamp : Nat
  ready : List WakeItem
  due : List ((BitVec 16 × Word) × Int)
  closing : List ((BitVec 16 × Word) × Int × Option Nat)
  deriving DecidableEq, Repr

/-- A node group that waits in the wake gatherer: launch and records (R325). -/
structure NodeGroup where
  launch : Nat
  records : List (BitVec 512)
  deriving DecidableEq, Repr

/-- An escalation queue entry and the group it waits for (R252). -/
structure EscEntry where
  bits : BitVec 128
  deriving DecidableEq, Repr

/-- A group by its launch, its crew's index and its crew-local index: a name that a save does not change (R43, R262). A group
that has retired has index 16 here, which no resident group has. -/
structure GroupName where
  launch : Nat
  crew : Nat
  grp : Nat
  deriving DecidableEq, Repr

/-- A compute core (R16). `escTaken` are the escalation entries that the supervisor core has read and not completed (R253,
R368); `icache` has the physical code lines in the instruction cache, the latest used first; `bankChange` is the `BMODE` at
work, by its group and its bank, and `leftCache` counts the banks that have left cache mode (R212; the model's own, log 8). -/
structure Core where
  crews : List (Option Crew)
  banks : List Bank
  sram : List Host.Cell
  freeGranules : List Nat
  cache : List HeldLine
  seen : List (Nat × Nat)
  acc : List (Nat × Word)
  accown : List Word
  live : List (BitVec 16)
  locked : List (Option GroupName)
  ownWrite : List (Option (Word × Nat))
  ownWriter : List (Option Gid)
  setAside : BitVec 64
  tables : List Table
  jobs : List Job
  mats : List MatJob
  escQueue : List EscEntry
  escTaken : List EscEntry
  escTop : Option Gid
  supData : BitVec 128
  supRunning : Bool
  supEntry : Nat
  supDropped : Nat
  fenced : Bool
  icache : List Nat
  dormers : List Dormer
  bankChange : Option (Gid × Nat)
  leftCache : Nat
  deriving DecidableEq, Repr

/-- A saved crew (R260, R261), with its scratchpad bytes by offset, the poisoned granules among them (R230), its FIFO
words, and the escalation entries of its groups that are not completed (R252; DESIGN CHOICE log 35). -/
structure Saved where
  crew : Crew
  scratch : List Host.Cell
  bad : List Nat
  fifos : List (List Word)
  esc : List EscEntry
  deriving DecidableEq, Repr

/-- The states of an accepted launch (R321, R45, R46). -/
inductive LaunchState where
  | waiting | eligible | complete | cancelling | cancelled
  deriving DecidableEq, Repr

/-- A role entry of a launch block (R319). -/
structure RoleEntry where
  offset : Nat
  role : Role
  budget : Nat
  count : Nat
  deriving DecidableEq, Repr

/-- A window descriptor (R292). -/
structure WinDesc where
  kind : Nat
  size : Nat
  slide : Nat
  gap : Nat
  lateness : Nat
  frame : Nat
  dbanks : Nat
  spill : Nat
  openE : Nat
  resumeE : Nat
  mergeE : Nat
  closeE : Nat
  lateE : Nat
  deriving DecidableEq, Repr

/-- The fields of a launch block (R318). -/
structure Block where
  kind : Nat
  prio : Nat
  roles : List RoleEntry
  ringArr : List Nat
  crews : Nat
  scratch : Nat
  accTiles : Nat
  deadline : Nat
  fifos : Nat
  peers : Nat
  bind : List Nat
  capList : List (BitVec 128)
  code : Nat
  codeSize : Nat
  trapTab : Nat
  graph : Nat
  phase : Nat
  job : Nat
  waits : List (Nat × Nat)
  sigs : List Nat
  self : Nat
  gridX : Nat
  gridY : Nat
  win : Option WinDesc
  saveOff : Nat
  quiesce : Bool
  deriving DecidableEq, Repr

/-- An accepted launch (R43 to R46, R319 to R321); `waited` is how long it has waited at its level, in twelfths of a nominal
clock (R55). -/
structure Launch where
  seq : Nat
  part : Nat
  ctx : Word
  block : Block
  addr : Nat
  state : LaunchState
  waited : Nat
  raised : Nat
  placed : List Nat
  places : List (Nat × Nat × Nat)
  finished : List Nat
  saved : List (Nat × Saved)
  cursor : Nat
  cores : List Nat
  saveArea : Nat
  saveBytes : Nat
  detached : Bool
  cancelSelf : Bool
  drainAt : Nat
  posted : Nat
  taken : Nat
  deriving DecidableEq, Repr

/-- A queue (R311): ring, head, tail, context, save area, stopped. -/
structure Queue where
  ring : Nat
  log2n : Nat
  head : Nat
  tail : Nat
  ctx : Word
  headAddr : Nat
  saveArea : Nat
  saveBytes : Nat
  stopped : Bool
  deriving DecidableEq, Repr

/-- A stream binding (R290, R317). -/
structure Binding where
  stream : Nat
  launch : Nat
  log2n : Nat
  status : Nat
  deriving DecidableEq, Repr

/-- A node bin (R325). -/
structure Bin where
  bin : Nat
  launch : Nat
  count : Nat
  timer : Nat
  records : List (Nat × BitVec 512)
  attached : Bool
  deriving DecidableEq, Repr

/-- What has become of the group that a page request group serves (R258): it waits; it was halted by a cancel; it was
saved, or rolled back by the debug node. -/
inductive PageFate where
  | live | cancelled | saved
  deriving DecidableEq, Repr

/-- A page request group (R257): index, group by its place and by its name, job or outstanding `WAITM` of the group, its
missing lanes with their pages, its pages (true for a write), context serial. -/
structure PageGroup where
  index : Nat
  owner : Gid
  name : GroupName
  job : Option Nat
  out : Option Nat
  fate : PageFate
  lanes : List (Nat × Nat)
  pages : List (Nat × Bool)
  ctx : Word
  deriving DecidableEq, Repr

/-- A sample of the quiescence detector (R328): how long ago it was taken, in twelfths of a nominal clock, and what it
found. -/
structure Sample where
  counter : Nat
  waited : Nat
  quiet : Bool
  posted : Nat
  taken : Nat
  deriving DecidableEq, Repr

/-- A partition (R352, R354): its resources and its BAR0 registers. `turn` is the queue that was served last (R314). -/
structure Partition where
  bound : Bool
  port : Nat
  function : Nat
  cores : BitVec 48
  slices : BitVec 192
  hypervisor : Bool
  pctl : DWord
  pasidr : DWord
  otbase : DWord
  otsize : DWord
  otinv : DWord
  cnt : DWord
  cthbase : DWord
  cthsize : DWord
  eqbase : DWord
  eqtail : Word
  eqhead : Word
  eqlost : DWord
  sprc : DWord
  ecc : DWord
  scrub : DWord
  psreq : DWord
  dbgcmd : DWord
  dbgstat : DWord
  fwload : DWord
  loading : Bool
  corerst : DWord
  msix : Nat
  queues : List (Nat × Queue)
  turn : Nat
  retired : List Word
  bindings : List Binding
  bins : List Bin
  nodeGroups : List NodeGroup
  pages : List PageGroup
  pageLimit : Nat
  bridge : List Nat
  samples : List Sample
  entryCache : List (Nat × BitVec 1024)
  debugWait : Option (Nat × Nat × List Nat)
  supImage : Option Nat
  rateUsed : List (Nat × Nat × Nat)
  deriving DecidableEq, Repr

/-- A translation of the host: PASID, virtual page, physical page of host memory, or device HDM offset; write allowed
(R174, R358). -/
structure HostPage where
  pasid : Nat
  page : Nat
  frame : Nat
  write : Bool
  deriving DecidableEq, Repr

/-- The address translation cache of a stack (R358), its performance state, the clamp steps in it, the GT of the latest
one and whether a thermal limit was its cause, PSCAP, the thermal limit of each die and the current limit (R366, R371,
R372); the conditions that raised the clamp (a die, or none for the current), and since when all of them have stayed below
their limits by the margin of R372. -/
structure Stack where
  atc : List HostPage
  pstate : Nat
  clamp : Nat
  clampAt : Nat
  hot : Bool
  pscap : Nat
  thermal : List Nat
  current : Nat
  causes : List (Option Nat × Nat)
  coolSince : Option Nat
  deriving DecidableEq, Repr

/-- Where a load request stands (R177, R179). -/
inductive LoadPhase where
  | toHome | toGateway | gatewayFill | response
  deriving DecidableEq, Repr

/-- A load request of a core for one line, or its response. The model's own (log 8): the bytes of the line that it reads,
the group's earlier loads of them, which are over before it is performed (R183), the least versions of them that it may
return (R184, R185), the versions of the line's bytes that it brings, and how many banks of its core had left cache mode when
it was sent, so that no fill is installed for a bank that has left it since (R212): none once the core has been reset. -/
structure LoadMsg where
  id : Nat
  gid : Gid
  part : Nat
  after : List Nat
  bytes : List Nat
  minVer : List (Nat × Nat)
  out : Nat
  line : Nat
  lease : Nat
  gateway : Option Nat
  leftCache : Option Nat
  phase : LoadPhase
  data : List (BitVec 8)
  expiry : Nat
  vers : List Nat
  poison : Bool
  deriving DecidableEq, Repr

/-- Who waits for a line write: a group, a group that has retired (R42), a copy job or a matrix job of a core. -/
inductive Issuer where
  | group (g : Gid)
  | past (g : Gid)
  | job (core id : Nat)
  | mat (core id : Nat)
  deriving DecidableEq, Repr

/-- Where a line write or an atomic stands (R180, R351). -/
inductive WritePhase where
  | toHome | backInval | atPort | ack
  deriving DecidableEq, Repr

/-- A line write in flight (R181). The model's own (log 8): the messages that are over before it is performed, the groups
that have read it from their core, each with a byte that it read (R184, R185), and the count of its group's acquires when it was performed (R188). -/
structure WriteMsg where
  id : Nat
  issuer : Issuer
  part : Nat
  after : List Nat
  seenBy : List (Gid × Nat)
  acqs : Nat
  line : Nat
  bytes : List (Nat × BitVec 8)
  lease : Nat
  host : Bool
  shared : Bool
  poison : Bool
  phase : WritePhase
  gwct : Nat
  ver : Nat
  deriving DecidableEq, Repr

/-- One word operation of an atomic: lane, address, operation, operand, second operand (R204, R205). -/
structure AtomOp where
  lane : Nat
  addr : Nat
  op : Nat
  v : Word
  v2 : Word
  deriving DecidableEq, Repr

/-- A memory atomic in flight: its words on one line (R189), and the messages that are over before it is performed
(log 8). -/
structure AtomMsg where
  id : Nat
  issuer : Issuer
  part : Nat
  after : List Nat
  out : Nat
  line : Nat
  ops : List AtomOp
  lease : Nat
  host : Bool
  shared : Bool
  phase : WritePhase
  olds : List (Nat × Word)
  poison : Bool
  gwct : Nat
  ver : Nat
  deriving DecidableEq, Repr

/-- Where a posted record stands (R290, R299, R329): on its way to an ingress node, to the package controller or to a
core; held at a core, and with it every record of the core or of the stream (R298, R300); waiting there for slates of
its key to be fetched, or until fewer than 64 records wait so (R301); a control record whose copies are on their way; done, with its status. -/
inductive RecPhase where
  | toIngress | toBridge | toCore (core : Nat) | held (core : Nat) (all : Bool) | fetch (core : Nat)
  | fetchFull (core : Nat) | control (left : Nat) | done
  deriving DecidableEq, Repr

/-- A posted record on its way (R309): its poster, whether the poster waits for its acceptance, the record that it is a
copy of, its status, the ingress node, whether it holds a credit of its core (R344), the launch among whose posted records
it is counted (R328), and its poster's context and partition (R359). -/
structure RecMsg where
  id : Nat
  record : Record
  poster : Gid
  waits : Bool
  parent : Option Nat
  phase : RecPhase
  status : Nat
  node : Nat
  credit : Bool
  launch : Option Nat
  ctx : Word
  posterPart : Nat
  deriving DecidableEq, Repr

/-- A branch of a multicast on its way to one crew (R237). -/
structure CastMsg where
  id : Nat
  core : Nat
  job : Nat
  launch : Nat
  crew : Nat
  off : Nat
  bytes : List (BitVec 8)
  poison : Bool
  obj : Nat
  deriving DecidableEq, Repr

/-- A gateway cache (R22, R353): lines by the model's own order, and the way mask of each partition. -/
structure Gateway where
  lines : List HeldLine
  ways : List (BitVec 16)
  deriving DecidableEq, Repr

/-- A packet of the network (R338): its header, and 64 bytes of payload. -/
structure Packet where
  src : Nat
  srcPort : Nat
  dst : Nat
  dstPort : Nat
  age : Nat
  set : List Nat
  payload : BitVec 512
  deriving DecidableEq, Repr

/-- An input buffer of a router (R338, R341): packets, how long its head has stood there, in 120ths of a network clock,
suspect. -/
structure NetBuf where
  packets : List Packet
  timer : Nat
  suspect : Bool
  deriving DecidableEq, Repr

/-- The network (R336 to R347). `gutter` is the one packet of the gutter lane with the router whose gutter-lane buffer
holds it (R343), `sinks` the endpoints' gutter buffers, by router (R344); `links` are the links' retry buffers: the flits
sent and not yet received, by router and output (R347); those of the gutter lane's own links have 16 added to the output
(R343). -/
structure Net where
  bufs : List (List NetBuf)
  token : Nat
  captured : Option Nat
  gutter : Option (Nat × Packet)
  sinks : List (Nat × Packet)
  delivered : List Packet
  links : List (Nat × Nat × Packet)
  retries : List (Nat × Nat × Nat)
  reported : List (Nat × Nat)
  timeout : Nat
  deriving DecidableEq, Repr

/-- An owner key slot (R367). -/
structure KeySlot where
  ec : BitVec 384
  lms : BitVec 384
  revoked : Bool
  role : BitVec 2
  used : Bool
  deriving DecidableEq, Repr

/-- A reassignment in progress (R364): giver, taker, cores, slices, GT at step 2. -/
structure Rebind where
  giver : Nat
  taker : Nat
  cores : BitVec 48
  slices : BitVec 192
  since : Nat
  deriving DecidableEq, Repr

/-- The I/O die (R12, R329, R349 to R373): whether the boot ROM awaits firmware, the entry offset of the running package
controller image, the firmware memory, the owner key slots, the fused minimum versions by image type, the digest of the
requester's key in the SPDM session, the filter table, the package controller's events, its corrected errors, the
reassignment in progress, the errors reported through AER, whether the latest management command was accepted, what the
package controller's latest read returned, and its accesses beyond its reach (R369). -/
structure Package where
  awaiting : Bool
  fwImage : Option Nat
  fwMem : List Host.Cell
  slots : List KeySlot
  minVersion : List Nat
  session : Option (BitVec 384)
  filter : List (BitVec 256)
  events : List (BitVec 512)
  eccCount : DWord
  rebind : Option Rebind
  aer : Nat
  reply : Bool
  fwData : Word
  dropped : Nat
  deriving DecidableEq, Repr

end Sys2Proof.Machine

namespace Sys2Proof.Machine

/-- What moves next (the model's own, DESIGN CHOICE log 1): a step of the device with its arguments, an issue turn of one group,
ticks of global time; or what happens outside the device: a byte that the host writes in its memory, a page that it
maps, a host agent that takes or gives up a copy of a line, a packet that enters an injection queue, or the two packets of
a line (R338), the hypervisor's mark of a bridge stream and its entries of the filter table (R329), the pages that a host
allows to be requested at once (R358), a read of a register or of a kick page (R311, R354), a reading of a die's temperature
or a stack's current (R372), an access of a supervisor core or of the package controller to the firmware memory, or of the package controller to the
scrub engine (R369), an
uncorrectable error in a line that a core cache or a gateway cache holds (R370). Of the device's own: a slice or a gateway
cache evicts a line (R13, R178), a crew is pre-empted to place queued work (R259), a flit reaches the far end of its link
(R347), the gutter lane moves its packet on (R343), the quiescence detector samples a graph (R328). -/
inductive Move where
  | event (i : Instr)
  | issue (g : Gid)
  | tick (n : Nat)
  | hostByte (a : Nat) (b : BitVec 8)
  | hostMap (p : HostPage)
  | hostCopy (line : Nat) (take : Bool)
  | inject (router inp : Nat) (p : Packet)
  | bridge (part stream : Nat) (mark : Bool)
  | filter (i : Nat) (e : BitVec 256)
  | pageLimit (part n : Nat)
  | regRead (part off : Nat)
  | kickRead (part queue off : Nat)
  | evictLine (line : Nat)
  | gatewayDrop (gateway line : Nat)
  | preempt (core slot : Nat)
  | injectLine (router inp : Nat) (p : Packet) (line : BitVec 1024)
  | linkArrive (router out : Nat)
  | gutterHop
  | sample (part counter : Nat)
  | sensor (stack : Nat) (die : Option Nat) (value : Nat)
  | supFw (core off : Nat) (write : Option (BitVec 32))
  | pkgFw (off : Nat) (write : Option (BitVec 32))
  | pkgScrub (slice loc n : Nat)
  | coreEcc (core line : Nat)
  | gatewayEcc (gateway line : Nat)
  deriving DecidableEq, Repr

/-- What is left of a retired group: its launch, its line writes in flight by id, its store buffer, its LGWCT (R42, R45),
and the line writes of its core, not yet performed, that it has read, each with a byte that it read (R184; log 8). -/
structure Ghost where
  launch : Nat
  ids : List Nat
  buf : List BufWrite
  lgwct : Nat
  reads : List (Nat × Nat)
  deriving DecidableEq, Repr

/-- The whole machine. -/
structure State where
  gt : Nat
  agenda : List Move
  cur : Gid
  pfx : Option Prefix
  free : Nat
  nextId : Nat
  homeSeq : Nat
  mem : List Host.Cell
  poison : List Nat
  vers : List (Nat × Nat × Nat)
  leases : List (Nat × Nat)
  horizon : List Nat
  hostCopies : List Nat
  portLines : List (Nat × Nat)
  hostPages : List HostPage
  hostData : BitVec 8
  hostPoison : Bool
  hostReg : DWord
  loads : List LoadMsg
  writes : List WriteMsg
  atoms : List AtomMsg
  recs : List RecMsg
  casts : List CastMsg
  cores : List Core
  dies : List Stack
  gateways : List Gateway
  launches : List Launch
  ghosts : List Ghost
  nextSeq : Nat
  parts : List Partition
  net : Net
  pkg : Package
  deriving DecidableEq, Repr

/-- Registers at group start (R30), before the launch's capabilities and the wake registers. CC and the WV bits, for which
R30 gives no start value, start at 0 (DESIGN CHOICE log 7). -/
def Regs.start : Regs where
  v := []
  s := []
  act := BitVec.allOnes 128
  xm := 0
  p := []
  c := []
  mw := 0x1F
  flags := 0
  lay := []
  qm := []
  qb := []
  w := []
  wv := 0
  cc := 0
  prevDest := 0
  gang := 0
  bcc := 0
  rngKey := 0
  rngCtr := 0

/-- A group at its start, of a role, with a budget (R30). -/
def Group.start : Group where
  gid := 0
  role := .general
  budget := 16
  laneset := 0
  regs := Regs.start
  pc := 0
  state := .normal
  ps := .normal
  stack := []
  tcause := 0
  tpc := 0
  tval := 0
  tskid := 0
  sstep := false
  stepOwed := none
  codeBase := 0
  codeSize := 0
  userSince := 0
  batch := 0
  openJobs := []
  openGwct := 0
  closed := []
  cstat := 0
  seenPhase := 0
  reuse := none
  usc := 0
  lgwct := 0
  buf := []
  pos := 0
  pend := []
  outst := []
  acq := []
  acqs := 0
  seen := []
  bankBuf := []
  wait := .none
  held := none
  halt := .running
  starved := false
  since := 0
  ready := 0
  granted := []
  windowed := []
  wake := none
  stream := 0

/-- A barrier at crew start with a group count (R129). -/
def Barrier.start (n : Nat) : Barrier := ⟨n, 0, false⟩

/-- A stage ring with arrival count 1 (R49). -/
def Ring.start : Ring := ⟨1, []⟩

/-- A barrier object at crew start (R241). -/
def BarObj.start : BarObj := ⟨0, false⟩

/-- A crew at its start. -/
def Crew.start : Crew where
  launch := 0
  index := 0
  part := 0
  ctx := 0
  total := 0
  groups := []
  granules := []
  barriers := []
  rings := []
  held := 0
  reserve := none
  gang := none
  objs := []
  fifos := []
  attached := false
  preemptAt := none
  forced := false
  parked := 0
  left := none
  hints := []

/-- A bank after core reset (R20). -/
def Bank.reset : Bank := ⟨.cache, false, [], none⟩

/-- A copy of a table after core reset (R160). -/
def TableCopy.reset : TableCopy := ⟨0, 0, []⟩

/-- A table after core reset (R160). -/
def Table.reset : Table := ⟨TableCopy.reset, TableCopy.reset, 0, 0⟩

/-- A core after core reset (R20, R160, R286, R344, R364). -/
def Core.reset : Core where
  crews := []
  banks := []
  sram := []
  freeGranules := []
  cache := []
  seen := []
  acc := []
  accown := []
  live := []
  locked := []
  ownWrite := []
  ownWriter := []
  setAside := 0
  tables := []
  jobs := []
  mats := []
  escQueue := []
  escTaken := []
  escTop := none
  supData := 0
  supRunning := false
  supEntry := 0
  supDropped := 0
  fenced := false
  icache := []
  dormers := []
  bankChange := none
  leftCache := 0

/-- A partition before it is bound (R352, R354). -/
def Partition.reset : Partition where
  bound := false
  port := 0
  function := 0
  cores := 0
  slices := 0
  hypervisor := false
  pctl := 0
  pasidr := 0
  otbase := 0
  otsize := 0
  otinv := 0
  cnt := 0
  cthbase := 0
  cthsize := 0
  eqbase := 0
  eqtail := 0
  eqhead := 0
  eqlost := 0
  sprc := 0
  ecc := 0
  scrub := 0
  psreq := 0
  dbgcmd := 0
  dbgstat := 0
  fwload := 0
  loading := false
  corerst := 0
  msix := 0
  queues := []
  turn := 0
  retired := []
  bindings := []
  bins := []
  nodeGroups := []
  pages := []
  pageLimit := 512
  bridge := []
  samples := []
  entryCache := []
  debugWait := none
  supImage := none
  rateUsed := []

/-- A stack after power-on reset (R371, R372): no limit has been set. -/
def Stack.reset : Stack := ⟨[], 0, 0, 0, false, 0, [], 65535, [], none⟩

/-- A gateway cache after power-on reset. -/
def Gateway.reset : Gateway := ⟨[], []⟩

/-- An empty input buffer. -/
def NetBuf.reset : NetBuf := ⟨[], 0, false⟩

/-- The network after power-on reset: T is 2,048 (R341), the token stands at router 0. -/
def Net.reset : Net where
  bufs := []
  token := 0
  captured := none
  gutter := none
  sinks := []
  delivered := []
  links := []
  retries := []
  reported := []
  timeout := 2048

/-- A key slot that no owner has enrolled (R367). -/
def KeySlot.reset : KeySlot := ⟨0, 0, false, 0, false⟩

/-- The package after power-on reset (R373): the boot ROM awaits firmware. -/
def Package.reset : Package where
  awaiting := true
  fwImage := none
  fwMem := []
  slots := []
  minVersion := []
  session := none
  filter := []
  events := []
  eccCount := 0
  rebind := none
  aer := 0
  reply := false
  fwData := 0
  dropped := 0

/-- The machine right after power-on reset (R24, R373): GT is 0, memory lists nothing, every core is reset, no partition
is bound. -/
def State.reset : State where
  gt := 0
  agenda := []
  cur := ⟨0, 0, 0⟩
  pfx := none
  free := 0
  nextId := 0
  homeSeq := 0
  mem := []
  poison := []
  vers := []
  leases := []
  horizon := []
  hostCopies := []
  portLines := []
  hostPages := []
  hostData := 0
  hostPoison := false
  hostReg := 0
  loads := []
  writes := []
  atoms := []
  recs := []
  casts := []
  cores := []
  dies := []
  gateways := []
  launches := []
  ghosts := []
  nextSeq := 0
  parts := []
  net := Net.reset
  pkg := Package.reset

/-- What a step answers. -/
abbrev Out := Host.Outcome State Fault Refusal

end Sys2Proof.Machine
end

