-- ==== Sys2Proof/Machine/Ops.lean ====
section
/-! DEFINITION. The named operations: access to cores, crews, groups, launches and partitions; memory as a canonical list of cells; addresses (R173, R350); registers with their readiness (R82 to R88); taking a trap and returning (R245 to R250); the gate in front of every group instruction (R104); retirement of an instruction. -/

namespace Sys2Proof.Machine

open Sys2Proof

/-! ### Places in the state -/

/-- Core c (R15). -/
def State.core (s : State) (c : Nat) : Core := getAt Core.reset s.cores c

/-- The state with core c replaced. -/
def State.setCore (s : State) (c : Nat) (x : Core) : State := { s with cores := setAt Core.reset s.cores c x }

/-- The crew in a slot of a core. -/
def State.crew? (s : State) (c k : Nat) : Option Crew := getAt none (s.core c).crews k

/-- The state with the crew of a slot replaced. -/
def State.setCrew (s : State) (c k : Nat) (x : Option Crew) : State :=
  s.setCore c { s.core c with crews := setAt none (s.core c).crews k x }

/-- A resident group. -/
def State.group? (s : State) (g : Gid) : Option Group :=
  match s.crew? g.core g.slot with
  | none => none
  | some k => getAt none k.groups g.grp

/-- A crew with one group replaced. -/
def Crew.setGroup (k : Crew) (i : Nat) (x : Option Group) : Crew := { k with groups := setAt none k.groups i x }

/-- The state with a group of a resident crew replaced; without the crew nothing changes. -/
def State.setGroup (s : State) (g : Gid) (x : Option Group) : State :=
  match s.crew? g.core g.slot with
  | none => s
  | some k => s.setCrew g.core g.slot (some (k.setGroup g.grp x))

/-- The state with a resident group changed by f. -/
def State.modGroup (s : State) (g : Gid) (f : Group → Group) : State :=
  match s.group? g with
  | none => s
  | some x => s.setGroup g (some (f x))

/-- Partition p (R352). -/
def State.part (s : State) (p : Nat) : Partition := getAt Partition.reset s.parts p

/-- The state with partition p replaced. -/
def State.setPart (s : State) (p : Nat) (x : Partition) : State :=
  { s with parts := setAt Partition.reset s.parts p x }

/-- The stack's die record. -/
def State.die (s : State) (k : Nat) : Stack := getAt Stack.reset s.dies k

/-- The state with a stack's die record replaced. -/
def State.setDie (s : State) (k : Nat) (x : Stack) : State := { s with dies := setAt Stack.reset s.dies k x }

/-- The launch of a sequence number (R43). -/
def State.launch? (s : State) (n : Nat) : Option Launch := s.launches.find? fun l => l.seq = n

/-- The state with a launch changed by f. -/
def State.modLaunch (s : State) (n : Nat) (f : Launch → Launch) : State :=
  { s with launches := s.launches.map fun l => if l.seq = n then f l else l }

/-- A fresh id for a message, a job or a result (the model's own, DESIGN CHOICE log 1). -/
def State.fresh (s : State) : Nat × State := (s.nextId, { s with nextId := s.nextId + 1 })

/-- The stack a core lies in (R15). -/
def stackOf (core : Nat) : Nat := core / 12

/-- The groups of a crew with their crew-local indices. -/
def Crew.members (k : Crew) : List (Nat × Group) :=
  (List.range 16).filterMap fun i => (getAt none k.groups i).map fun g => (i, g)

/-- The crew's number of groups. -/
def Crew.size (k : Crew) : Nat := k.members.length

/-! ### Memory cells -/

/-- One byte of a memory; an unlisted address reads 0 (DESIGN CHOICE log 3). -/
def cellGet : List Host.Cell → Nat → BitVec 8
  | [], _ => 0
  | (k, b) :: r, a => if a = k then b else if a < k then 0 else cellGet r a

/-- One byte written; the canonical form is kept: addresses rise strictly, and no entry is 0. -/
def cellSet : List Host.Cell → Nat → BitVec 8 → List Host.Cell
  | [], a, b => if b = 0 then [] else [(a, b)]
  | (k, c) :: r, a, b =>
    if a < k then (if b = 0 then (k, c) :: r else (a, b) :: (k, c) :: r)
    else if a = k then (if b = 0 then r else (a, b) :: r)
    else (k, c) :: cellSet r a b

/-- Every address of a memory lies above n. -/
def cellsAbove (n : Nat) : List Host.Cell → Bool
  | [] => true
  | (k, b) :: r => decide (n < k) && b != 0 && cellsAbove k r

/-- The canonical form: strictly rising addresses, no entry equal to what an unlisted address reads as. -/
def Memory.wf : List Host.Cell → Bool
  | [] => true
  | (k, b) :: r => b != 0 && cellsAbove k r

/-- n bytes from an address on. -/
def cellsRead (m : List Host.Cell) (a : Nat) : Nat → List (BitVec 8)
  | 0 => []
  | n + 1 => cellGet m a :: cellsRead m (a + 1) n

/-- Bytes written from an address on. -/
def cellsWrite : List Host.Cell → Nat → List (BitVec 8) → List Host.Cell
  | m, _, [] => m
  | m, a, b :: bs => cellsWrite (cellSet m a b) (a + 1) bs

/-- Every byte of a range set to 0. -/
def cellsClear (m : List Host.Cell) (a n : Nat) : List Host.Cell :=
  m.filter fun c => !(a ≤ c.1 && c.1 < a + n)

/-- Bytes written at single addresses, the later one in the list prevailing. -/
def cellsPut (m : List Host.Cell) (bs : List (Nat × BitVec 8)) : List Host.Cell :=
  bs.foldl (fun m p => cellSet m p.1 p.2) m

/-- The little-endian value of n bytes. -/
def cellsNat (m : List Host.Cell) (a n : Nat) : Nat := natLE (cellsRead m a n)

/-- The value a list of (address, byte) pairs gives an address, the last entry prevailing. -/
def overlay (bs : List (Nat × BitVec 8)) (a : Nat) : Option (BitVec 8) :=
  bs.foldl (fun r p => if p.1 = a then some p.2 else r) none

/-! ### Physical addresses: the model numbers every byte of memory (DESIGN CHOICE log 5) -/

/-- Slice-local addresses end here (R174). -/
def sliceBytes : Nat := 4000000000

/-- The bytes of a slice that HDM reaches (R350). -/
def hdmSliceBytes : Nat := 3999997952

/-- The number of a device-memory byte: slice and slice-local address. -/
def devAddr (slice loc : Nat) : Nat := slice * 2 ^ 32 + loc

/-- The first number of host memory. -/
def hostBase : Nat := 2 ^ 48

/-- The first number of the accumulator windows (R287). -/
def accBase : Nat := 2 ^ 56

/-- Host memory, whose home is the CXL port (R175). -/
def isHostAddr (a : Nat) : Bool := hostBase ≤ a && a < accBase

/-- An accumulator window byte. -/
def isAccAddr (a : Nat) : Bool := accBase ≤ a

/-- The slice of a device-memory byte. -/
def sliceOf (a : Nat) : Nat := a / 2 ^ 32

/-- The 128-byte line of a byte (R23). -/
def lineOf (a : Nat) : Nat := a / 128

/-- The slices of a partition, ascending (R350). -/
def Partition.sliceList (p : Partition) : List Nat := (List.range 192).filter fun m => p.slices.getLsbD m

/-- The cores of a partition, ascending. -/
def Partition.coreList (p : Partition) : List Nat := (List.range 48).filter fun c => p.cores.getLsbD c

/-- The size of a partition's HDM range (R350). -/
def Partition.hdmSize (p : Partition) : Nat := hdmSliceBytes * p.sliceList.length

/-- The byte behind an HDM offset (R350). -/
def hdmAddr (p : Partition) (h : Nat) : Nat :=
  let n := p.sliceList.length
  if n = 0 then 0
  else devAddr (getAt 0 p.sliceList (h / 4096 % n)) (h / (4096 * n) * 4096 + h % 4096)

/-- n bytes of a partition's device memory from an HDM offset on. -/
def hdmBytes (s : State) (p : Partition) (h : Nat) : Nat → List (BitVec 8)
  | 0 => []
  | n + 1 => cellGet s.mem (hdmAddr p h) :: hdmBytes s p (h + 1) n

/-- The little-endian value of n bytes of a partition's device memory. -/
def hdmNat (s : State) (p : Partition) (h n : Nat) : Nat := natLE (hdmBytes s p h n)

/-- A write of the n bytes from a on has been performed: they have a new version, the count of the device's performed writes
(DESIGN CHOICE log 8). -/
def State.newVer (s : State) (a n : Nat) : State :=
  { s with
    homeSeq := s.homeSeq + 1
    vers := (a, n, s.homeSeq + 1) :: s.vers.filter fun x => !(a ≤ x.1 && x.1 + x.2.1 ≤ a + n) }

/-- A write of single bytes has been performed: they have one new version. -/
def State.newVers (s : State) (as : List Nat) : State :=
  { s with
    homeSeq := s.homeSeq + 1
    vers := as.map (fun a => (a, 1, s.homeSeq + 1)) ++ s.vers.filter fun x => !(x.2.1 = 1 && as.contains x.1) }

/-- The version of a byte: the count of the device's performed writes at the latest one of the byte, 0 before the first. -/
def State.byteVer (s : State) (a : Nat) : Nat :=
  s.vers.foldl (fun v x => if x.1 ≤ a && a < x.1 + x.2.1 then max v x.2.2 else v) 0

/-- The versions of a line's 128 bytes. -/
def State.lineVers (s : State) (line : Nat) : List Nat := (List.range 128).map fun i => s.byteVer (128 * line + i)

/-- A byte of memory written by the device itself: the host's copy of its line has been back-invalidated (R350). -/
def State.devWrite (s : State) (a : Nat) (b : BitVec 8) : State :=
  { s with mem := cellSet s.mem a b, hostCopies := s.hostCopies.filter fun l => l ≠ lineOf a }.newVer a 1

/-- Bytes written at an HDM offset of a partition, by the device itself or a loader. -/
def State.writeHdm (s : State) (p h : Nat) : List (BitVec 8) → State
  | [] => s
  | b :: bs => (s.devWrite (hdmAddr (s.part p) h) b).writeHdm p (h + 1) bs

/-! ### Virtual addresses (R174, R358) -/

/-- The host's translation of a page under a PASID, for a read or a write. -/
def findPage (ps : List HostPage) (pasid page : Nat) (write : Bool) : Option HostPage :=
  ps.find? fun h => h.pasid = pasid && h.page = page && (h.write || !write)

/-- A virtual address translated by a stack's cache, or by the host's tables through ATS; none is a fault. -/
def translate (s : State) (stack pasid va : Nat) (write : Bool) : Option Nat :=
  match findPage (s.die stack).atc pasid (va / 4096) write with
  | some h => some (h.frame * 4096 + va % 4096)
  | none => (findPage s.hostPages pasid (va / 4096) write).map fun h => h.frame * 4096 + va % 4096

/-- The partition's PASID (R354). -/
def Partition.pasid (p : Partition) : Nat := bitsOf p.pasidr.toNat 19 0

/-- A byte that a partition may reach: of host memory, or of a slice that it holds. A slice that moves is its giver's no
more and not yet its taker's (R364). -/
def Partition.reaches (p : Partition) (a : Nat) : Bool := isHostAddr a || (a < hostBase && p.slices.getLsbD (sliceOf a))

/-- The byte behind a virtual address of a partition; none where it does not translate, or to a byte that the partition may
not reach. -/
def vaPlace (s : State) (stack part va : Nat) (write : Bool) : Option Nat :=
  (translate s stack (s.part part).pasid va write).filter (s.part part).reaches

/-- n bytes at a virtual address of a partition; none when a page does not translate. -/
def vaBytes (s : State) (stack part va : Nat) : Nat → Option (List (BitVec 8))
  | 0 => some []
  | n + 1 =>
    match vaPlace s stack part va false, vaBytes s stack part (va + 1) n with
    | some a, some bs => some (cellGet s.mem a :: bs)
    | _, _ => none

/-- The little-endian value of n bytes at a virtual address of a partition. -/
def vaNat? (s : State) (stack part va n : Nat) : Option Nat := (vaBytes s stack part va n).map natLE

/-- Bytes written at a virtual address of a partition by the device itself (event queues, head write-back words, fault
queues); pages that do not translate, or to bytes that the partition may not reach, drop theirs. -/
def vaWrite (s : State) (stack part va : Nat) : List (BitVec 8) → State
  | [] => s
  | b :: bs =>
    let s1 := match vaPlace s stack part va true with
      | some a => s.devWrite a b
      | none => s
    vaWrite s1 stack part (va + 1) bs

/-- A stack of a partition: that of its lowest core, or 0. -/
def Partition.homeStack (p : Partition) : Nat :=
  match p.coreList with
  | [] => 0
  | c :: _ => stackOf c

/-! ### Registers -/

/-- Scalar n: s60 to s63 are the words of the activity mask (R32). -/
def Regs.readS (r : Regs) (n : Nat) : Word := if n < 60 then getAt 0 r.s n else maskWord r.act (n - 60)

/-- Scalar n written; a write of s60 to s63 sets the activity mask less the exited lanes (R32). -/
def Regs.writeS (r : Regs) (n : Nat) (w : Word) : Regs :=
  if n < 60 then { r with s := setAt 0 r.s n w }
  else { r with act := maskSetWord r.act (n - 60) w &&& ~~~ r.xm }

/-- The lanes of a vector register. -/
def Regs.vreg (r : Regs) (n : Nat) : List Word := getAt [] r.v n

/-- Register n of lane l. -/
def Regs.readV (r : Regs) (n l : Nat) : Word := laneGet (r.vreg n) l

/-- Lanes of a vector register written. -/
def Regs.writeV (r : Regs) (n : Nat) (m : Mask) (f : Nat → Word) : Regs :=
  { r with v := setAt [] r.v n (laneMerge m (r.vreg n) f) }

/-- Predicate n. -/
def Regs.readP (r : Regs) (n : Nat) : Mask := getAt 0 r.p n

/-- Lanes of a predicate written. -/
def Regs.writeP (r : Regs) (n : Nat) (m bits : Mask) : Regs :=
  { r with p := setAt 0 r.p n ((r.readP n &&& ~~~ m) ||| (bits &&& m)) }

/-- A 64-bit lane value of a list. -/
def laneGet64 (vs : List DWord) (l : Nat) : DWord := getAt 0 vs l

/-- 64-bit lanes written. -/
def laneMerge64 (m : Mask) (old : List DWord) (f : Nat → DWord) : List DWord :=
  lanes.map fun l => if m.getLsbD l then f l else laneGet64 old l

/-- The code of a capability register for the scoreboard; R84 gives it none. -/
def codeC (n : Nat) : Nat := 300 + n

/-- Register codes (R84): 0 to 127 v, 128 to 191 s, 192 to 215 p; 216 is qm and qb, which R84 gives no code. -/
def codeS (n : Nat) : Nat := 128 + n
/-- The codes of n scalars from a on. -/
def codesS (a n : Nat) : List Nat := (List.range n).map fun i => codeS (a + i)
/-- The codes of s60 to s63, the activity mask (R32). -/
def codesAct : List Nat := codesS 60 4
/-- The code of a predicate. -/
def codeP (n : Nat) : Nat := 192 + n
/-- The model's code of qm and qb. -/
def codeQ : Nat := 216

/-- A value written to the register of a code. -/
def Regs.apply (r : Regs) (code : Nat) : RegVal → Regs
  | .vec m vs => if m = 0 then r else r.writeV code m (laneGet vs)
  | .scal w => r.writeS (code - 128) w
  | .pred m bits => r.writeP (code - 192) m bits
  | .modq m qm qb => { r with qm := laneMerge64 m r.qm (laneGet64 qm), qb := laneMerge64 m r.qb (laneGet64 qb) }

/-- What is left of an older value once a younger one of the same register is in place. -/
def RegVal.strip (older younger : RegVal) : RegVal :=
  match older, younger with
  | .vec m vs, .vec n _ => .vec (m &&& ~~~ n) vs
  | .scal _, .scal _ => .vec 0 []
  | .pred m bits, .pred n _ => .pred (m &&& ~~~ n) bits
  | .modq m a b, .modq n _ _ => .modq (m &&& ~~~ n) a b
  | o, _ => o

/-- Older results of a register lose what a younger one has written: writes take effect in issue order (R84). -/
def stripPending (ps : List Pending) (code : Nat) (v : RegVal) : List Pending :=
  ps.map fun p => if p.reg = code then { p with val := p.val.strip v } else p

/-- Results that are ready at an issue position take their place in issue order; the others stay (R83, R84). -/
def settleLoop (pos : Nat) : List Pending → List Pending → Regs → List Pending × Regs
  | [], kept, r => (kept, r)
  | p :: ps, kept, r =>
    if p.readyAt ≤ pos then settleLoop pos ps (stripPending kept p.reg p.val) (r.apply p.reg p.val)
    else settleLoop pos ps (kept ++ [p]) r

/-- The group with every result that is ready in place. -/
def Group.settle (g : Group) : Group :=
  let x := settleLoop g.pos g.pend [] g.regs
  { g with pend := x.1, regs := x.2 }

/-- The group with every fixed-latency result written, ready or not (R86). -/
def Group.drain (g : Group) : Group :=
  { g with pend := [], regs := g.pend.foldl (fun r p => r.apply p.reg p.val) g.regs }

/-- A result of an instruction with a minimum stall count `min`: in place at once for 0, else ready later (R83, R87). -/
def Group.result (g : Group) (min code : Nat) (v : RegVal) : Group :=
  if min = 0 then { g with pend := stripPending g.pend code v, regs := g.regs.apply code v }
  else { g with pend := g.pend ++ [{ reg := code, val := v, readyAt := g.pos + 1 + min }] }

/-- Several results of one instruction. -/
def Group.results (g : Group) (min : Nat) (vs : List (Nat × RegVal)) : Group :=
  vs.foldl (fun g p => g.result min p.1 p.2) g

/-- The activity mask set by a divergence instruction: as writes of s60 to s63 it supersedes older results of them that
are not ready (R32, R84). -/
def Group.setAct (g : Group) (m : Mask) : Group :=
  { g with
    pend := codesAct.foldl (fun ps c => stripPending ps c (.scal 0)) g.pend
    regs := { g.regs with act := m } }

/-- The lanes that zeroing clears: active, outside the effective mask, under a prefix with PZERO (R95). -/
def zeroLanes (s : State) (g : Group) (m : Mask) : Mask :=
  match s.pfx with
  | some p => if p.pzero then g.regs.act &&& ~~~ m else 0
  | none => 0

/-- A vector result of the lanes of a mask, with the zeroed lanes (R95, R143). -/
def vecVal (m z : Mask) (f : Nat → Word) : RegVal :=
  .vec (m ||| z) (lanes.map fun l => if m.getLsbD l then f l else 0)

/-- The effective element type (R95). -/
def effType (s : State) (g : Group) : Nat :=
  match s.pfx with
  | some p => if p.ptype = 0 then mwEtype g.regs.mw else p.ptype.toNat - 1
  | none => mwEtype g.regs.mw

/-- The effective rounding mode (R95). -/
def effRnd (s : State) (g : Group) : Nat :=
  match s.pfx with
  | some p => if p.prnd = 0 then mwRnd g.regs.mw else p.prnd - 1
  | none => mwRnd g.regs.mw

/-- The guard: the predicate, 31 for none, and whether it is inverted (R33, R95). -/
def effGuard (s : State) (g : Group) : Nat × Bool :=
  match s.pfx with
  | some p => if p.pmask = 31 then (mwGuard g.regs.mw, mwGneg g.regs.mw) else (p.pmask, p.pneg)
  | none => (mwGuard g.regs.mw, mwGneg g.regs.mw)

/-- The effective mask (R33). -/
def effMask (s : State) (g : Group) : Mask :=
  let (p, neg) := effGuard s g
  if p = 31 then g.regs.act
  else g.regs.act &&& (if neg then ~~~ (g.regs.readP p) else g.regs.readP p)

/-- The prefix's fourth operand VC; 0 without a prefix (R96). -/
def effVc (s : State) : Nat :=
  match s.pfx with
  | some p => p.vc
  | none => 0

/-! ### Roles and privilege -/

/-- The opcodes a role may issue (R48). -/
def roleAllows (r : Role) (op : Nat) : Bool :=
  match r with
  | .general => true
  | .copy => op < 0x40 || (0xB0 ≤ op && op ≤ 0xCC) || (0xE9 ≤ op && op ≤ 0xEE)
  | .matrix => op < 0x40 || (0xB0 ≤ op && op ≤ 0xBF) || (0xC6 ≤ op && op ≤ 0xCC) || (0xD0 ≤ op && op ≤ 0xD9)
      || (0xE9 ≤ op && op ≤ 0xEE)
  | .vector => op ≤ 0xBF || (0xC6 ≤ op && op ≤ 0xCC) || (0xE0 ≤ op && op ≤ 0xEE)

/-- The states an instruction is reserved to (R123): any, handler state, core handler state, or none, for the write of a
read-only system register (R136). -/
inductive Priv where
  | any | handler | core | never
  deriving DecidableEq, Repr

/-- Whether a group's state has a privilege. -/
def Priv.ok (p : Priv) (st : GState) : Bool :=
  match p with
  | .any => true
  | .handler => st != .normal
  | .core => st == .core
  | .never => false

/-! ### Taking a trap and returning (R243 to R250) -/

/-- Causes with core routing (R243). -/
def coreCause (c : Nat) : Bool :=
  c = 0x10 || c = 0x11 || c = 0x30 || c = 0x31 || c = 0x50 || c = 0x51

/-- Causes with debug routing (R243). -/
def debugCause (c : Nat) : Bool := c = 0x40 || c = 0x41

/-- The trap table entry of a cause: all ones for no handler, and where no table is named (R244). An entry whose page no longer
translates when the trap is taken counts as no handler (R244 does not say; DESIGN CHOICE log 24). -/
def trapEntry (s : State) (core : Nat) (l : Launch) (c : Nat) : Nat :=
  if l.block.trapTab = 0 then 0xFFFFFFFF
  else (vaNat? s (stackOf core) l.part (l.block.trapTab + 4 * c) 4).getD 0xFFFFFFFF

/-- A trap of the group is being taken: pending results are still on their way (R245 step 1). -/
def Wait.trapping : Wait → Bool
  | .trap _ _ _ => true
  | _ => false

/-- A group in handler state, or on its way into it (R245, R250). -/
def Group.handling (g : Group) : Bool := g.state != .normal || g.wait.trapping

/-- A group in normal state halts with its crew; a waiting group stops where it waits (R249). -/
def Group.crewHalt (g : Group) : Group :=
  if !g.handling && g.halt = .running then
    { g with halt := .halted 0 (g.wait != .none), tskid := 0 }
  else g

/-- The crew halt of R249: every other group of the crew. -/
def Crew.haltOthers (k : Crew) (me : Nat) : Crew :=
  { k with groups := (List.range 16).map fun i =>
      if i = me then getAt none k.groups i else (getAt none k.groups i).map Group.crewHalt }

/-- A halted group runs again at its resume point, with every result written (R86, R250). -/
def Group.resume (g : Group) : Group :=
  match g.halt with
  | .halted _ _ => { g.drain with halt := .running }
  | _ => g

/-- The crew resumes when none of its groups is in handler state (R250), or stopped by the debug node (R263). -/
def Crew.resumeIfFree (k : Crew) : Crew :=
  if k.members.any fun p => p.2.handling || p.2.halt == .debug then k
  else { k with groups := k.groups.map fun o => o.map Group.resume }

/-- An escalation queue entry (R252). -/
def escEntry (kind : Nat) (g : Gid) (code cause : Nat) (tpc tval : Word) : EscEntry :=
  ⟨tval ++ tpc ++ (0#11) ++ BitVec.ofNat 21 code ++ BitVec.ofNat 8 cause ++ (0#14) ++ BitVec.ofNat 2 kind
    ++ BitVec.ofNat 4 g.slot ++ BitVec.ofNat 4 g.grp⟩

/-- The group that an escalation entry names (R252). -/
def EscEntry.gid (e : EscEntry) (core : Nat) : Gid := ⟨core, bitsOf e.bits.toNat 7 4, bitsOf e.bits.toNat 3 0⟩

/-- An entry of a group whose crew has come to another slot. -/
def EscEntry.moved (e : EscEntry) (slot : Nat) : EscEntry := ⟨(e.bits &&& ~~~ 0xF0#128) ||| BitVec.ofNat 128 (16 * (slot % 16))⟩

/-- An entry appended to a core's escalation queue (R252). -/
def State.escalate (s : State) (c : Nat) (e : EscEntry) : State :=
  s.setCore c { s.core c with escQueue := (s.core c).escQueue ++ [e] }

/-- The wait of a group that has outstanding results to be written first (R86). -/
def Group.drainWait (g : Group) : Wait := if g.outst.isEmpty then .none else .drain

/-- The halt of a group that enters a handler: it ends its crew's halt (R249), but not a stop by the debug node, for a save
or by a cancel (R46, R259, R263). -/
def Halt.entered : Halt → Halt
  | .halted _ _ => .running
  | h => h

/-- A group whose results are all written enters handler state `st` at `pc`, in code at `base` of `size` bytes (R245,
R246). Pages that the host has granted for the instruction that trapped are none of the handler's (R257). -/
def Group.enter (g : Group) (st : GState) (pc : Word) (base size gt cause : Nat) (tpc tval : Word) : Group :=
  let g1 := g.drain
  { g1 with
    tcause := BitVec.ofNat 8 cause, tpc := tpc, tval := tval, tskid := 0
    ps := g.state, state := st, pc := pc, codeBase := base, codeSize := size
    userSince := if st = .user then gt else g.userSince
    regs := { g1.regs with cc := 0, wv := 0 }
    stepOwed := none, held := none, halt := g.halt.entered, wait := .none, starved := false, ready := 0, granted := [] }

/-- The launch's code of a crew: base and size. -/
def State.launchCode (s : State) (k : Crew) : Nat × Nat :=
  match s.launch? k.launch with
  | some l => (l.block.code, l.block.codeSize)
  | none => (0, 0)

/-- A double fault (R247): the group stops where it is, and its trap registers keep their values; so do CC and the WVs,
since no handler is entered, where R245 step 4 would clear them (DESIGN CHOICE log 63). -/
def Group.doubleFault (g : Group) (tpc : Word) : Group :=
  { g.drain with wait := .doubleFault none, held := none, pc := tpc, starved := false, ready := 0, granted := [] }

/-- The entry of a trap of a group whose results are all written (R245 steps 2 to 4 and 6, R246, R247). A trap in core
handler state is a double fault, with an entry of kind 2 for the supervisor core. -/
def enterTrap (s : State) (g : Gid) (cause : Nat) (tpc tval : Word) : State :=
  match s.crew? g.core g.slot, s.group? g with
  | some k, some x =>
    if x.state = .core then
      (s.setGroup g (some (x.doubleFault tpc))).escalate g.core (escEntry 2 g 0 cause tpc tval)
    else
      let e := match s.launch? k.launch with
        | some l => trapEntry s g.core l cause
        | none => 0xFFFFFFFF
      let code := s.launchCode k
      let toCore := coreCause cause || (debugCause cause && k.attached) || x.state = .user || e = 0xFFFFFFFF
      let p := s.part k.part
      let y := if toCore then x.enter .core 0 p.cthbase.toNat p.cthsize.toNat s.gt cause tpc tval
        else x.enter .user (BitVec.ofNat 32 e) code.1 code.2 s.gt cause tpc tval
      s.setGroup g (some y)
  | _, _ => s

/-- The trap that stands when another is raised: a machine check that is being taken stays, any other gives way to the one
that a result raises (DESIGN CHOICE log 62). -/
def Wait.standing (w : Wait) (cause : Nat) (tpc tval : Word) : Nat × Word × Word :=
  match w with
  | .trap 0x50 t v => (0x50, t, v)
  | .esc (some (0x50, t, v)) => (0x50, t, v)
  | .doubleFault (some (0x50, t, v)) => (0x50, t, v)
  | _ => (cause, tpc, tval)

/-- The writes of ACCOWN that wait for some groups are over: their instructions are not retired, and issue again (R245, R286). -/
def Core.dropOwn (c : Core) (p : Gid → Bool) : Core :=
  let gone (k : Nat) : Bool := match getAt none c.ownWriter k with | some g => p g | none => false
  { c with
    ownWrite := (List.range 4).map fun k => if gone k then none else getAt none c.ownWrite k
    ownWriter := (List.range 4).map fun k => if gone k then none else getAt none c.ownWriter k }

/-- Taking a trap (R245): group g traps with a cause at offset tpc with a value. Its crew's halt is broadcast at once, as
the 16 clocks of R249 count from the trapping instruction's issue (DEDUCED log 61); the trap is entered when every result
of the group is written. A trap that a result raises in a group that waits in `ESC` or in a double fault is taken after the
completion: a group has one escalation entry at most (R252, DEDUCED log 62). -/
def takeTrapAt (s : State) (g : Gid) (cause : Nat) (tpc tval : Word) : State :=
  let s := { s with pfx := none }
  match s.crew? g.core g.slot, s.group? g with
  | some k, some x =>
    let t := x.wait.standing cause tpc tval
    match x.wait with
    | .esc _ => s.setGroup g (some { x with wait := .esc (some t) })
    | .doubleFault _ => s.setGroup g (some { x with wait := .doubleFault (some t) })
    | _ =>
      let s1 := if x.state = .core then s.setCore g.core ((s.core g.core).dropOwn fun h => h = g)
        else s.setCrew g.core g.slot (some (k.haltOthers g.grp))
      if x.outst.isEmpty then enterTrap s1 g t.1 t.2.1 t.2.2
      else s1.setGroup g (some { x with wait := .trap t.1 t.2.1 t.2.2, held := none, starved := false, ready := 0 })
  | _, _ => s

/-- A trap whose group has no result outstanding any more is entered (R245). -/
def trapDue (s : State) (g : Gid) : State :=
  match s.group? g with
  | none => s
  | some x =>
    match x.wait with
    | .trap c t v => if x.outst.isEmpty then enterTrap s g c t v else s
    | _ => s

/-- The issuing group traps; TPC names its instruction, or its prefix (R97). -/
def takeTrap (s : State) (cause : Nat) (tval : Word) : State :=
  match s.group? s.cur with
  | some x => takeTrapAt s s.cur cause x.pc tval
  | none => s

/-- The word at a byte offset of a group's code: little-endian, from HDM (R79, R124); none at or beyond its size. -/
def codeWord? (s : State) (part base size : Nat) (off : Word) : Option Word :=
  if off.toNat < size then some (BitVec.ofNat 32 (hdmNat s (s.part part) (base + off.toNat) 4)) else none

/-- The lines of 128 bytes that an instruction cache holds: 256 KiB (R16). -/
def icacheLines : Nat := 2048

/-- A code line in the instruction cache, now the latest used; the line used longest ago makes room (R16; which line does,
DESIGN CHOICE log 58). -/
def Core.holdCode (c : Core) (line : Nat) : Core :=
  { c with icache := (line :: c.icache.filter fun l => l ≠ line).take icacheLines }

/-- A core has fetched the code line at an offset of a code range of a partition (R16, R138). -/
def State.fetchLine (s : State) (core part base off : Nat) : State :=
  s.setCore core ((s.core core).holdCode (lineOf (hdmAddr (s.part part) (base + off))))

/-- The offset after the instruction at an offset, past its base word when it has a prefix (R133). -/
def afterInstr (s : State) (part base size : Nat) (off : Word) : Word :=
  match codeWord? s part base size off with
  | some w => if opOf w = 0xFE then off + 8 else off + 4
  | none => off + 4

/-- A group that has left handler state while another of its crew has not stays halted with its crew (R250). -/
def Group.holdBack (held : Bool) (g : Group) : Group :=
  if held && g.state = .normal then { g with halt := .halted 0 true } else g

/-- Return from handler state (R248): the state becomes PS and PS normal; the crew resumes when no group is in handler
state, and until then the group is halted (R250). The watchdog's count starts anew on a return into user handler state
(R251). `next` is RFT.NEXT. -/
def returnFromTrap (s : State) (g : Gid) (next : Bool) : State :=
  match s.crew? g.core g.slot, s.group? g with
  | some k, some x =>
    let (base, size) := s.launchCode k
    let pc := if next then afterInstr s k.part base size x.tpc else x.tpc
    let y := { x with
      state := x.ps, ps := .normal, pc := pc, codeBase := base, codeSize := size
      userSince := if x.ps = GState.user then s.gt else x.userSince }
    let held := k.members.any fun p => p.1 ≠ g.grp && p.2.handling
    s.setCrew g.core g.slot (some ((k.setGroup g.grp (some (y.holdBack held))).resumeIfFree))
  | _, _ => s

/-! ### The gate (R104) and retirement -/

/-- What the words of an instruction decide before it runs: its word, opcode and stall field; one past the highest
vector register it names; the types it accepts; the privilege it needs; the registers it reads and writes, by code, and
those it writes even under an all-zero effective mask (R36); whether it acts on the effective mask; its class's minimum stall count (R87). -/
structure Desc where
  word : Word
  op : Nat
  st : Nat
  vtop : Nat := 0
  types : List Nat := setA
  priv : Priv := .any
  reads : List Nat := []
  writes : List Nat := []
  fixed : List Nat := []
  preds : List Nat := []
  masked : Bool := false
  min : Nat := 0

/-- What the gate answers: a trap, a wait for an outstanding result, with the registers that the instruction reads, or the group with its ready results in place and
the mask the instruction acts on. -/
inductive Gate where
  | trap (cause : Nat) (tval : Word)
  | wait (reads : List Nat)
  | go (g : Group) (m : Mask)

/-- The lowest code among registers that are read and not ready (R84). -/
def notReady (ps : List Pending) (reads : List Nat) : Option Nat :=
  (reads.filter fun r => ps.any fun p => p.reg = r).foldl
    (fun a r => match a with | none => some r | some b => some (min b r)) none

/-- A result that is already known, and comes back in time (R85). -/
def OutKind.known : OutKind → Bool
  | .value _ => true
  | .scratch _ => true
  | _ => false

/-- A result of a load, an atomic or `WAITM`: a group that waits for it is parked, and an acquire covers it (R85, R187,
R197). -/
def OutKind.parks : OutKind → Bool
  | .value _ => false
  | _ => true

/-- Whether a register has an outstanding variable-latency result (R85). -/
def outstanding (os : List Outst) (rs : List Nat) : Bool := os.any fun o => o.regs.any fun r => rs.contains r

/-- The TVAL code of a register (R84). -/
def codeTval (c : Nat) : Word := BitVec.ofNat 32 c

/-- The conditions 3 to 6 of R104, and the wait of R85, in the rule's order. The scalar operands of a uniform instruction are
checked whatever the activity mask: R36 does not apply to it (R33; DEDUCED log 63). -/
def gate (d : Desc) (s : State) (g0 : Group) : Gate :=
  let g := g0.settle
  let (gp, _) := effGuard s g
  let guard := (if d.masked && gp ≠ 31 then [codeP gp] else []) ++ d.preds
  let m := if d.masked then effMask s g else g.regs.act
  let live := !d.masked || m != 0
  if g.budget < d.vtop || !(d.types.contains (effType s g)) then .trap 0x01 d.word
  else if !(roleAllows g.role d.op) then .trap 0x03 d.word
  else if !(d.priv.ok g.state) then .trap 0x04 d.word
  else if outstanding g.outst (guard ++ d.fixed) || (live && outstanding g.outst (d.reads ++ d.writes)) then
    .wait (guard ++ d.reads)
  else
    let rs := (if g.regs.act = 0 then [] else guard) ++ (if live then d.reads else [])
    match (if mwChk g.regs.mw then notReady g.pend rs else none) with
    | some r => .trap 0x18 (codeTval r)
    | none => .go g m

/-- The group waits at issue, not parked: it is tried again when time has passed (R182, R187). It was chosen, so its clocks
of R53 begin anew. -/
def holdIssue (s : State) : State :=
  { s.modGroup s.cur (fun g => { g with held := some s.gt, starved := false, ready := 0 }) with pfx := none }

/-- The group waits for something; its instruction is issued again afterwards. -/
def waitIssue (s : State) (w : Wait) : State :=
  { s.modGroup s.cur (fun g => { g with wait := w, held := none, starved := false, ready := 0 }) with pfx := none }

/-- Everything before an instruction's own effect: the group, the gate; `k` is the effect. -/
def issue (d : Desc) (s : State) (k : Group → Mask → Out) : Out :=
  match s.group? s.cur with
  | none => .fault .noIssuingGroup
  | some g0 =>
    match gate d s g0 with
    | .trap c v => .next (takeTrap s c v)
    | .wait rs => .next (waitIssue s (.result rs (d.writes ++ d.fixed)))
    | .go g m => k g m

/-- The offset after the instruction being issued: its prefix and its base word (R97). -/
def nextPc (s : State) (g : Group) : Word := if s.pfx.isSome then g.pc + 8 else g.pc + 4

/-- The offset of the base word being issued. -/
def basePc (s : State) (g : Group) : Word := if s.pfx.isSome then g.pc + 4 else g.pc

/-- A non-member issued while a chain is open ends it (R117); with no chain open it leaves WV alone. -/
def Regs.endChain (r : Regs) : Regs := if r.cc = 0 then r else { r with cc := 0, wv := 0 }

/-- A non-member ends an open chain (R117). -/
def Group.endChain (g : Group) : Group := { g with regs := g.regs.endChain }

/-- A taken branch, a split or a path switch sets CC and every WV to 0 (R117). -/
def Group.dropChain (g : Group) : Group := { g with regs := { g.regs with cc := 0, wv := 0 } }

/-- Retirement of an instruction without a trap: the program counter, the issue position (R83), the single step it owes
(R265), the skid count of a halted group (R249). -/
def Group.retire (g : Group) (st : Nat) (pc : Word) : Group :=
  let skid := match g.halt with
    | .halted _ _ => g.tskid + 1
    | _ => g.tskid
  { g with
    pc := pc, pos := g.pos + st + 1, tskid := skid, held := none, wait := .none, starved := false, ready := 0, granted := []
    stepOwed := if g.sstep && g.state = .normal then some g.pc else none }

/-- The state after the issuing group has retired an instruction as g, going on at pc. -/
def finishAt (s : State) (d : Desc) (g : Group) (pc : Word) : State :=
  { s.setGroup s.cur (some { g.retire d.st pc with since := s.gt }) with pfx := none }

/-- A taken branch retires and goes on at its target (R117). -/
def finishTo (s : State) (d : Desc) (g : Group) (pc : Word) : State := finishAt s d g.dropChain pc

/-- A non-member retires and goes on at the next instruction. -/
def finish (s : State) (d : Desc) (g : Group) : State := finishAt s d g.endChain (nextPc s g)

/-- A member of a chain retires: the chain is its own affair (R117). -/
def finishMember (s : State) (d : Desc) (g : Group) : State := finishAt s d g (nextPc s g)

/-- A uniform instruction that only changes its group: its effect once per issue, then the next instruction (R122). -/
def uniform (d : Desc) (s : State) (f : Group → Group) : Out := issue d s fun g _ => .next (finish s d (f g))

/-- Flags joined to FLAGS (R118, R119). -/
def Group.raise (g : Group) (f : FlagBits) : Group := { g with regs := { g.regs with flags := g.regs.flags ||| f } }

end Sys2Proof.Machine
end

