-- ==== Sys2Proof/Machine/Access.lean ====
section
/-! DEFINITION. Capabilities (R169), the object table (R172 to R175), accumulator windows (R287), and the checks of an access before any lane performs it (R171, R174, R196, R198). -/

namespace Sys2Proof.Machine

open Sys2Proof

/-! ### Capabilities (R169) -/

/-- OBJID. -/
def capObj (c : BitVec 128) : Nat := bitsOf c.toNat 23 0
/-- BASE. -/
def capBase (c : BitVec 128) : Nat := bitsOf c.toNat 71 32
/-- LEN. -/
def capLen (c : BitVec 128) : Nat := bitsOf c.toNat 111 72
/-- READ. -/
def capRead (c : BitVec 128) : Bool := bitOf c.toNat 24 && capObj c ≠ 0
/-- WRITE. -/
def capWrite (c : BitVec 128) : Bool := bitOf c.toNat 25 && capObj c ≠ 0
/-- ATOMIC. -/
def capAtomic (c : BitVec 128) : Bool := bitOf c.toNat 26 && capObj c ≠ 0
/-- DERIVE. -/
def capDerive (c : BitVec 128) : Bool := bitOf c.toNat 27 && capObj c ≠ 0
/-- The reserved fields are zero. -/
def capClean (c : BitVec 128) : Bool := bitsOf c.toNat 127 112 = 0 && bitsOf c.toNat 31 28 = 0
/-- A capability of its fields; rights are bits [27:24] in order. -/
def capMake (obj base len rights : Nat) : BitVec 128 :=
  BitVec.ofNat 128 (obj + rights * 2 ^ 24 + base * 2 ^ 32 + len * 2 ^ 72)
/-- The rights field [27:24]. -/
def capRights (c : BitVec 128) : Nat := bitsOf c.toNat 27 24

/-! ### Object table entries (R172, R173) -/

/-- An extent: LBASE, first slice, log2 of the slices, length. -/
structure Extent where
  lbase : Nat
  slice : Nat
  log2n : Nat
  len : Nat
  ok : Bool
  deriving DecidableEq, Repr

/-- Extent k of an entry's bits (R173). -/
def entryExtent (e : Nat) (k : Nat) : Extent :=
  let x := bitsOf e (255 + 128 * k) (128 + 128 * k)
  { lbase := bitsOf x 31 0, slice := bitsOf x 39 32, log2n := bitsOf x 42 40, len := bitsOf x 103 64
    ok := bitsOf x 127 104 = 0 && bitsOf x 63 43 = 0 }

/-- SIZE. -/
def entrySize (e : Nat) : Nat := bitsOf e 63 24
/-- KIND. -/
def entryKind (e : Nat) : Nat := bitsOf e 2 1
/-- HOST. -/
def entryHost (e : Nat) : Bool := bitOf e 5
/-- RO. -/
def entryRo (e : Nat) : Bool := bitOf e 4
/-- CAPB. -/
def entryCapb (e : Nat) : Bool := bitOf e 3
/-- VBASE. -/
def entryVbase (e : Nat) : Nat := bitsOf e 120 64
/-- The effective lease (R175). -/
def entryLease (e : Nat) : Nat := if entryKind e = 1 || entryHost e then 0 else bitsOf e 23 8

/-- The extents of an entry. -/
def entryExtents (e : Nat) : List Extent := (List.range 4).map (entryExtent e)

/-- Unused extents follow all used ones. -/
def extentsOrdered : List Extent → Bool
  | [] => true
  | x :: xs => (x.len ≠ 0 || xs.all fun y => y.len = 0) && extentsOrdered xs

/-- An extent, used or not, has no reserved bit and no reserved LOG2N; a used one breaks no rule of R173 and R174 in a
partition. -/
def extentOk (p : Partition) (x : Extent) : Bool :=
  x.ok && x.log2n ≤ 5 && (x.len = 0 || (x.len % (128 * 2 ^ x.log2n) = 0 && x.lbase % 128 = 0
    && ((List.range (2 ^ x.log2n)).all fun j => x.slice + j < 192 && p.slices.getLsbD (x.slice + j))
    && x.lbase + x.len / 2 ^ x.log2n ≤ sliceBytes))

/-- A malformed entry (R174). -/
def entryMalformed (p : Partition) (e : Nat) : Bool :=
  !(bitOf e 0) || bitsOf e 1023 640 ≠ 0 || bitsOf e 127 121 ≠ 0 || bitsOf e 7 6 ≠ 0 || 2 ≤ entryKind e
    || (if entryKind e = 0 then
          entryVbase e ≠ 0 || !(extentsOrdered (entryExtents e)) || (entryExtents e).any (fun x => !(extentOk p x))
            || ((entryExtents e).map Extent.len).sum ≠ entrySize e
        else bitsOf e 23 8 ≠ 0)

/-- The entry of an object: the cached copy, or the table's bytes (R172, R356); 0, which is malformed, past its end. -/
def objEntry (s : State) (part id : Nat) : Nat :=
  let p := s.part part
  match p.entryCache.find? fun x => x.1 = id with
  | some x => x.2.toNat
  | none => if id < p.otsize.toNat then hdmNat s p (p.otbase.toNat + 128 * id) 128 else 0

/-- The core of an accumulator window's object id (R287). -/
def accWindow? (id : Nat) : Option Nat := if 0xFFFF00 ≤ id && id < 0xFFFF00 + 48 then some (id - 0xFFFF00) else none

/-- A copy of an entry that has been used is cached (R356). -/
def State.cacheEntry (s : State) (part id : Nat) : State :=
  let p := s.part part
  if (accWindow? id).isSome || p.entryCache.any (fun x => x.1 = id) then s
  else s.setPart part { p with entryCache := (id, BitVec.ofNat 1024 (objEntry s part id)) :: p.entryCache }

/-- Where an object's byte lies: its physical number and its line's effective lease and host visibility; or a page that
does not translate; or nowhere (trap 0x11). -/
inductive Place where
  | at (addr lease : Nat) (host shared : Bool)
  | miss (page : Nat)
  | bad
  deriving DecidableEq, Repr

/-- The byte of a kind-0 object at an offset (R173). -/
def extentByte (y : Nat) : List Extent → Option Nat
  | [] => none
  | x :: xs =>
    if y < x.len then
      let n := 2 ^ x.log2n
      let j := y / 128
      some (devAddr (x.slice + j % n) (x.lbase + j / n * 128 + y % 128))
    else extentByte (y - x.len) xs

/-- A line of one of some slices. -/
def inSlices (slices : BitVec 192) (line : Nat) : Bool := 128 * line < hostBase && slices.getLsbD (sliceOf (128 * line))

/-- A line of the accumulator window of one of some cores (R287). -/
def inWindows (cores : BitVec 48) (line : Nat) : Bool :=
  isAccAddr (128 * line) && cores.getLsbD ((128 * line - accBase) / 2 ^ 20)

/-- A line whose slice, or the core whose accumulator window it lies in, moves to another partition: it refuses every request
(R364). -/
def sliceMoving (s : State) (line : Nat) : Bool :=
  match s.pkg.rebind with
  | some r => inSlices r.slices line || inWindows r.cores line
  | none => false

/-- Byte y of an object, for a core of a partition, for a read or a write (R173 to R175, R287). A translation to a byte that
the partition may not reach is refused: a stale one to a slice that it has given away among them (R174, R364). -/
def objPlace (s : State) (core part id y : Nat) (write : Bool) : Place :=
  match accWindow? id with
  | some c =>
    if y < 0x80000 && (s.part part).cores.getLsbD c then .at (accBase + c * 2 ^ 20 + y) 0 false false else .bad
  | none =>
    let e := objEntry s part id
    let p := s.part part
    if entryMalformed p e || entrySize e ≤ y then .bad
    else if entryKind e = 0 then
      match extentByte y (entryExtents e) with
      | some a => .at a (entryLease e) (entryHost e) false
      | none => .bad
    else
      match translate s (stackOf core) p.pasid (entryVbase e + y) write with
      | some a => if p.reaches a then .at a 0 true (isHostAddr a) else .bad
      | none => .miss ((entryVbase e + y) / 4096)

/-- The right an access needs (R171). -/
inductive Right where
  | read | write | atomic
  deriving DecidableEq, Repr

/-- Whether a capability has a right. -/
def Right.of (r : Right) (c : BitVec 128) : Bool :=
  match r with
  | .read => capRead c
  | .write => capWrite c
  | .atomic => capAtomic c

/-- The causes that one access of z bytes at offset o raises (R170, R171, R172, R174, R287). The RO and CAPB of a malformed
entry are not looked at: it raises 0x11 alone (DESIGN CHOICE log 63). -/
def accessCauses (s : State) (part : Nat) (st : GState) (cap : BitVec 128) (o z : Nat) (r : Right) :
    List Nat :=
  let id := capObj cap
  let y := capBase cap + o
  let bounds := if capLen cap < o + z then [0x08] else []
  let align := if z ≠ 0 && y % z ≠ 0 then [0x0A] else []
  if id = 0 then 0x09 :: (bounds ++ align)
  else match accWindow? id with
    | some c =>
      (if !(r.of cap) || st ≠ .core || !((s.part part).cores.getLsbD c) then [0x09] else []) ++ bounds ++ align
        ++ (if 0x80000 < y + z then [0x11] else [])
    | none =>
      let e := objEntry s part id
      let bad := entryMalformed (s.part part) e
      let closed := r ≠ .read && !bad && (entryCapb e || entryRo e)
      (if !(r.of cap) || closed then [0x09] else []) ++ bounds ++ align
        ++ (if bad || entrySize e < y + z then [0x11] else [])

/-- The least of a list of causes. -/
def leastCause (cs : List Nat) : Option Nat :=
  cs.foldl (fun a c => match a with | none => some c | some b => some (min b c)) none

/-- The lowest-numbered cause over the lanes, and the lowest lane that raised it (R171, R198). -/
def laneCauses (xs : List (Nat × List Nat)) : Option (Nat × Nat) :=
  match leastCause (xs.flatMap Prod.snd) with
  | none => none
  | some c => some (c, ((xs.find? fun x => x.2.contains c).map Prod.fst).getD 0)

/-- The pages of the lanes that miss translation (R256). -/
def missPages (ps : List Place) : List Nat :=
  (ps.filterMap fun p => match p with | .miss q => some q | _ => none).dedup

/-- A byte of memory that an access touches: its number, its line's effective lease, whether hosts may hold the line. -/
abbrev ByteAt := Nat × Nat × Bool

/-- Byte y to y + z - 1 of an object. Bytes of one line lie side by side. -/
def objRange (s : State) (core part id y z : Nat) (write : Bool) : List Place :=
  match objPlace s core part id y write with
  | .at a l h sh =>
    if a % 128 + z ≤ 128 then (List.range z).map fun i => .at (a + i) l h sh
    else (List.range z).map fun i => objPlace s core part id (y + i) write
  | p => [p]

/-- An access of z bytes at offset o names a byte whose translation leads where the partition may not reach (R174, R364). -/
def accessRefused (s : State) (core part : Nat) (cap : BitVec 128) (o z : Nat) (r : Right) : Bool :=
  (objRange s core part (capObj cap) (capBase cap + o) z (r ≠ .read)).contains .bad

/-- The causes that one access of a core raises before any lane performs its access: those of its capability and its entry,
and trap 0x11 for a translation that is refused (R171, R174, R364). -/
def laneAccessCauses (s : State) (core part : Nat) (st : GState) (cap : BitVec 128) (o z : Nat) (r : Right) : List Nat :=
  accessCauses s part st cap o z r ++ (if accessRefused s core part cap o z r then [0x11] else [])

/-- The bytes of places that all exist. -/
def placeBytes (ps : List Place) : List ByteAt :=
  ps.filterMap fun p => match p with | .at a l h _ => some (a, l, h) | _ => none

/-! ### Scratchpad (R69, R198, R322) -/

/-- The crew's scratchpad bytes. -/
def scratchBytes (granules : List Nat) : Nat := 128 * granules.length

/-- The SRAM byte behind a scratchpad offset: granule of 128 bytes, byte in it (R322). -/
def sramAddr (granules : List Nat) (o : Nat) : Nat := getAt 0 granules (o / 128) * 128 + o % 128

/-- The number of a scratchpad granule among the poisoned lines: above every line of memory (R230, R370). -/
def sramLine (core granule : Nat) : Nat := 2 ^ 50 + core * 2 ^ 16 + granule

/-- n bytes of a crew's scratchpad. -/
def scratchRead (c : Core) (granules : List Nat) (o : Nat) : Nat → List (BitVec 8)
  | 0 => []
  | n + 1 => cellGet c.sram (sramAddr granules o) :: scratchRead c granules (o + 1) n

/-- The little-endian word at a scratchpad offset. -/
def scratchWord (c : Core) (granules : List Nat) (o : Nat) : Word := BitVec.ofNat 32 (natLE (scratchRead c granules o 4))

/-- Bytes written to a crew's scratchpad. -/
def scratchWrite (c : Core) (granules : List Nat) (o : Nat) : List (BitVec 8) → Core
  | [] => c
  | b :: bs => scratchWrite { c with sram := cellSet c.sram (sramAddr granules o) b } granules (o + 1) bs

/-- A word written to a crew's scratchpad. -/
def scratchWriteWord (c : Core) (granules : List Nat) (o : Nat) (w : Word) : Core :=
  scratchWrite c granules o (bytesLE 4 w.toNat)

/-- The causes a scratchpad access of z bytes at o raises (R198). -/
def scratchCauses (granules : List Nat) (o z : Nat) : List Nat :=
  (if z ≠ 0 && o % z ≠ 0 then [0x0A] else []) ++ (if scratchBytes granules < o + z then [0x0B] else [])

end Sys2Proof.Machine
end

