-- ==== Sys2Proof/Machine/Dormer.lean ====
section
/-! DEFINITION. The Dormer (R289 to R303): records, slates and window kinds, acceptance, closes, spilling, and how a wake lane ends its slate. -/

namespace Sys2Proof.Machine

open Sys2Proof

/-! ### Records (R289) -/

/-- STREAM. -/
def recStream (r : BitVec 512) : Nat := bitsOf r.toNat 15 0
/-- WM. -/
def recWm (r : BitVec 512) : Bool := bitOf r.toNat 16
/-- EOS. -/
def recEos (r : BitVec 512) : Bool := bitOf r.toNat 17
/-- The reserved flag bits. -/
def recReserved (r : BitVec 512) : Nat := bitsOf r.toNat 31 19
/-- KEY. -/
def recKey (r : BitVec 512) : Word := r.extractLsb' 32 32
/-- TS. -/
def recTs (r : BitVec 512) : Int := (r.extractLsb' 64 64).toInt
/-- The stream and the key of a record: slates of one stream stand apart from those of another (R290, R291, R293). -/
def recId (r : BitVec 512) : BitVec 16 × Word := (r.extractLsb' 0 16, recKey r)
/-- A control record. -/
def recControl (r : BitVec 512) : Bool := recWm r || recEos r

/-- Bits of a record replaced by an n-bit value at a place. -/
def recPut (r : BitVec 512) (place n v : Nat) : BitVec 512 :=
  (r &&& ~~~ (BitVec.ofNat 512 ((2 ^ n - 1) * 2 ^ place))) ||| BitVec.ofNat 512 (v % 2 ^ n * 2 ^ place)

/-- The partition core of a key among n (R290). -/
def recHash (k : Word) (n : Nat) : Nat := k.toNat * 0x8F1BC4D3 % 2 ^ 32 / 2 ^ 16 % n

/-! ### Window kinds (R294) -/

/-- The number of panes of a kind-2 window. -/
def WinDesc.panes (w : WinDesc) : Nat := w.size / w.slide

/-- The close threshold of a slate. -/
def closeAt (w : WinDesc) (x : Slate) : Int := x.stop + (if w.kind = 3 then (w.gap : Int) else 0) + w.lateness

/-- What a Dormer keeps of a stream: W starts at −2⁶³ (R291). -/
def Dormer.mark (d : Dormer) (stream : BitVec 16) : StreamMark :=
  (d.marks.find? fun m => m.stream = stream).getD ⟨stream, -(2 ^ 63), false⟩

/-- What a Dormer keeps of a stream, replaced. -/
def Dormer.setMark (d : Dormer) (m : StreamMark) : Dormer :=
  { d with marks := m :: d.marks.filter fun x => x.stream ≠ m.stream }

/-- The close condition of a slate against its stream's W; an ended stream closes every slate of it. -/
def closeHolds (w : WinDesc) (d : Dormer) (x : Slate) : Bool :=
  (d.mark x.stream).ended || decide (closeAt w x ≤ (d.mark x.stream).wmark)

/-- The close threshold of window j. -/
def windowAt (w : WinDesc) (j : Int) : Int := j * w.slide + w.size + w.lateness

/-- The windows that a time belongs to: of kinds 0 and 2 one (for kind 2 the pane), of kind 1 those that hold it. -/
def windowsOf (w : WinDesc) (t : Int) : List Int :=
  match w.kind with
  | 0 => [t / w.size]
  | 1 =>
    let last := t / w.slide
    let first := (t - w.size) / w.slide + 1
    (List.range (last - first + 1).toNat).map fun i => first + i
  | _ => [t / w.slide]

/-- START and END of the slate of window or pane j. -/
def windowBounds (w : WinDesc) (j : Int) : Int × Int :=
  match w.kind with
  | 0 => (j * w.size, j * w.size + w.size)
  | 1 => (j * w.slide, j * w.slide + w.size)
  | _ => (j * w.slide, j * w.slide + w.slide)

/-- CLOSING of a slate. -/
def Slate.closed (x : Slate) : Bool := x.flags.getLsbD 1

/-- The stream and the key of a slate. -/
def Slate.sk (x : Slate) : BitVec 16 × Word := (x.stream, x.key)

/-- A slate that new records may belong to. -/
def Slate.of (x : Slate) (k : BitVec 16 × Word) : Bool := x.sk = k && !x.gone

/-- The slate of window j of a key. -/
def slateAt (w : WinDesc) (d : Dormer) (k : BitVec 16 × Word) (j : Int) : Option Slate :=
  d.slates.find? fun x => x.of k && x.start = (windowBounds w j).1

/-- The sessions of a key that a time belongs to, by ascending START. -/
def insertSession (x : Slate) : List Slate → List Slate
  | [] => [x]
  | y :: ys => if x.start < y.start then x :: y :: ys else y :: insertSession x ys

/-- The sessions of a key that a time belongs to (R294). -/
def sessionsOf (w : WinDesc) (d : Dormer) (k : BitVec 16 × Word) (t : Int) : List Slate :=
  (d.slates.filter fun x =>
    x.of k && x.start - w.gap ≤ t && t ≤ x.stop + w.gap).foldl (fun l x => insertSession x l) []

/-- The open slate of a key of kinds 4 and 5. -/
def liveSlate (d : Dormer) (k : BitVec 16 × Word) : Option Slate := d.slates.find? fun x => x.of k && !x.closed

/-- Window j of a key is closed against W: by its slate's END where there is one. -/
def windowMet (w : WinDesc) (d : Dormer) (k : BitVec 16 × Word) (j : Int) : Bool :=
  match w.kind with
  | 2 => decide (windowAt w j ≤ (d.mark k.1).wmark)
  | _ =>
    match slateAt w d k j with
    | some x => closeHolds w d x
    | none => decide ((windowBounds w j).2 + w.lateness ≤ (d.mark k.1).wmark)

/-- A data record is late (R297). -/
def recLate (w : WinDesc) (d : Dormer) (r : BitVec 512) : Bool :=
  let t := recTs r
  let k := recId r
  let m := d.mark k.1
  m.ended || (match w.kind with
    | 0 => (windowsOf w t).all (windowMet w d k)
    | 1 => (windowsOf w t).all (windowMet w d k)
    | 2 => (windowsOf w t).all (windowMet w d k)
    | 3 => decide (t + w.gap + w.lateness ≤ m.wmark) || (sessionsOf w d k t).any Slate.closed
    | _ => false)

/-! ### Slots and the spill object (R301, R302) -/

/-- A slate of the Dormer changed. -/
def Dormer.modSlate (d : Dormer) (id : Nat) (f : Slate → Slate) : Dormer :=
  { d with slates := d.slates.map fun x => if x.id = id then f x else x }

/-- A slate by its id. -/
def Dormer.slate? (d : Dormer) (id : Nat) : Option Slate := d.slates.find? fun x => x.id = id

/-- The slates that a bank holds (R19). -/
def slatesPerBank : Nat := 2048

/-- The slates in a bank. -/
def Dormer.inBank (d : Dormer) (b : Nat) : List Slate := d.slates.filter fun x => x.bank = some b

/-- The bank that takes a new slate: the lowest of those that serve the launch and have a free slot (R301; which one is the
device's own, DESIGN CHOICE log 54). -/
def Dormer.freeBank (d : Dormer) : Option Nat := d.banks.find? fun b => (d.inBank b).length < slatesPerBank

/-- A dormant slate: in its slot, checked in, with nothing pending. -/
def Slate.dormant (x : Slate) : Bool := x.backed && !x.spilled && !x.out && !x.gone && x.items.isEmpty

/-- The dormant slate, of a bank that takes new slates, that was checked in longest ago, but for those of some keys. -/
def Dormer.oldest (d : Dormer) (keep : List (BitVec 16 × Word)) : Option Slate :=
  (d.slates.filter fun x => x.dormant && !(keep.contains x.sk) && d.banks.any fun b => x.bank = some b).foldl (fun b x => match b with
    | none => some x
    | some y => if x.stamp < y.stamp then some x else some y) none

/-- A slate that leaves its slot for the spill object; its place there is not chosen yet. -/
def Slate.spill (x : Slate) : Slate := { x with spilled := true, fetching := false, bank := none, place := none }

/-- A slot for a slate: in a bank, with the Dormer and the room of the spill object after it; or it must wait until a slate
is dormant; or there is neither a slot nor a spill slot. -/
inductive Slot where
  | at (d : Dormer) (room bank : Nat)
  | wait
  | full

/-- A slot made free: there is one, or the oldest dormant slate is spilled where the spill object has room; `room` is
that room, and the slates of the keys in `keep` stay where they are. With room there and no slate dormant, the record waits
for one (R301, DEDUCED log 54). -/
def Dormer.makeSlot (w : WinDesc) (room : Nat) (keep : List (BitVec 16 × Word)) (d : Dormer) : Slot :=
  match d.freeBank with
  | some b => .at d room b
  | none =>
    if w.spill = 0 || room = 0 then .full
    else match d.oldest keep with
      | none => .wait
      | some x => .at (d.modSlate x.id Slate.spill) (room - 1) (x.bank.getD 0)

/-- A count raised by one, stopping at its largest value (R293). -/
def countUp (c : Word) : Word := if c = BitVec.allOnes 32 then c else c + 1

/-- What the acceptance of a data record has come to: the Dormer, the room left in the spill object, whether a slate could
not open, whether the record must wait for a slot. -/
structure Accepted where
  d : Dormer
  room : Nat
  bad : Bool
  waits : Bool

/-- The slate that a record opens, checked out, in a bank or unbacked (R293, R302). -/
def Dormer.newSlate (w : WinDesc) (d : Dormer) (r : BitVec 512) (start stop : Int) (bank : Option Nat) : Slate where
  id := d.nextId
  stream := (recId r).1
  program := BitVec.ofNat 16 d.launch
  key := recKey r
  start := start
  stop := stop
  count := 1
  flags := if w.kind = 2 then 4 else 0
  frame := []
  out := true
  shut := false
  items := []
  stamp := 0
  spilled := false
  fetching := false
  gone := false
  backed := bank.isSome
  bank := bank
  place := none

/-- A slate opened for a record: checked out, its wake in the gatherer; unbacked where no slot is free and there is no
spill object (R301, R302). -/
def Dormer.openSlate (w : WinDesc) (r : BitVec 512) (start stop : Int) (a : Accepted) : Accepted :=
  let put (d : Dormer) (bank : Option Nat) : Dormer :=
    { d with slates := d.slates ++ [d.newSlate w r start stop bank], nextId := d.nextId + 1
             ready := d.ready ++ [⟨.open, some d.nextId, r⟩] }
  match a.d.makeSlot w a.room [] with
  | .at d1 room1 b => { a with d := put d1 (some b), room := room1 }
  | .wait => { a with waits := true }
  | .full => if w.spill = 0 then { a with d := put a.d none } else { a with bad := true }

/-! ### Acceptance of a data record (R294, R295, R299) -/

/-- A close raised on a slate: its item, and CLOSING. A spilled slate is fetched back (R301). -/
def Slate.raiseClose (x : Slate) (j : Option Int) : Slate :=
  { x with items := x.items ++ [.close j], flags := x.flags ||| 2, fetching := x.fetching || x.spilled }

/-- A kind-4 slate whose COUNT has come to SIZE has its close raised (R294). -/
def Dormer.countClose (w : WinDesc) (d : Dormer) (id : Nat) : Dormer :=
  if w.kind = 4 then d.modSlate id fun x => if x.count.toNat = w.size then x.raiseClose none else x else d

/-- A record applied to a slate: COUNT, a session's bounds, and a resume in its list. -/
def Slate.applyRec (w : WinDesc) (x : Slate) (r : BitVec 512) : Slate :=
  let t := recTs r
  let y := if w.kind = 3 then
      { x with start := min x.start t, stop := max x.stop t }
    else x
  { y with count := countUp y.count, items := y.items ++ [.resume r] }

/-- Two sessions merge: the survivor takes the bounds and the counts, the merge, and then the partner's items (R295). -/
def Dormer.merge (d : Dormer) (a b : Nat) : Dormer :=
  match d.slate? b with
  | none => d
  | some y =>
    let d1 := d.modSlate a fun x =>
      { x with
        start := min x.start y.start
        stop := max x.stop y.stop
        count := BitVec.ofNat 32 (min 0xFFFFFFFF (x.count.toNat + y.count.toNat))
        items := x.items ++ .merge b :: y.items }
    d1.modSlate b fun y => { y with gone := true, items := [] }

/-- A record applied to the slate of a window, which opens where there is none. -/
def Dormer.toWindow (w : WinDesc) (r : BitVec 512) (a : Accepted) (j : Int) : Accepted :=
  match slateAt w a.d (recId r) j with
  | some x => { a with d := a.d.modSlate x.id fun x => x.applyRec w r }
  | none => Dormer.openSlate w r (windowBounds w j).1 (windowBounds w j).2 a

/-- What a data record that is not late does at once (R299). -/
def Dormer.acceptData (w : WinDesc) (room : Nat) (d : Dormer) (r : BitVec 512) : Accepted :=
  let t := recTs r
  let k := recId r
  let a : Accepted := ⟨d, room, false, false⟩
  let applied (d : Dormer) (id : Nat) : Dormer := d.modSlate id fun x => x.applyRec w r
  match w.kind with
  | 1 => ((windowsOf w t).filter fun j => !(windowMet w d k j)).foldl (Dormer.toWindow w r) a
  | 3 =>
    match sessionsOf w d k t with
    | [] => Dormer.openSlate w r t t a
    | x :: xs => { a with d := applied (xs.foldl (fun d y => d.merge x.id y.id) d) x.id }
  | 4 =>
    match liveSlate d k with
    | none => let b := Dormer.openSlate w r t (2 ^ 63 - 1) a; { b with d := b.d.countClose w d.nextId }
    | some x => { a with d := (applied d x.id).countClose w x.id }
  | 5 =>
    match liveSlate d k with
    | none => Dormer.openSlate w r t (2 ^ 63 - 1) a
    | some x => { a with d := applied d x.id }
  | _ => (windowsOf w t).foldl (Dormer.toWindow w r) a

/-! ### Closes (R294, R296, R300) -/

/-- Whether a slate has a close pending. -/
def Slate.closePending (x : Slate) : Bool := x.items.any fun i => match i with | .close _ => true | _ => false

/-- Ascending END, then KEY, then START (R300). -/
def closeBefore (x y : Slate) : Bool :=
  x.stop < y.stop || (x.stop = y.stop && (x.key.toNat < y.key.toNat || (x.key = y.key && x.start < y.start)))

/-- A slate put into the order of closes. -/
def insertClose (x : Slate) : List Slate → List Slate
  | [] => [x]
  | y :: ys => if closeBefore x y then x :: y :: ys else y :: insertClose x ys

/-- Slates in the order of closes. -/
def closeOrder (xs : List Slate) : List Slate := xs.foldr insertClose []

/-- The closes that W raises now, but for kind 2. -/
def Dormer.raiseCloses (w : WinDesc) (d : Dormer) : Dormer :=
  let xs := closeOrder (d.slates.filter fun x => !x.gone && !x.shut && !x.closePending && closeHolds w d x)
  xs.foldl (fun d x => d.modSlate x.id fun x => x.raiseClose none) d

/-- The windows of kind 2 that a pane lies in. -/
def paneWindows (w : WinDesc) (x : Slate) : List Int :=
  let p := x.start / w.slide
  (List.range w.panes).map fun i => p - (w.panes - 1 : Nat) + i

/-- A window put into the order of closes. -/
def insertDue (a : (BitVec 16 × Word) × Int) : List ((BitVec 16 × Word) × Int) → List ((BitVec 16 × Word) × Int)
  | [] => [a]
  | b :: bs =>
    if a.2 < b.2 || (a.2 = b.2 && a.1.2.toNat < b.1.2.toNat) then a :: b :: bs
    else if a = b then b :: bs else b :: insertDue a bs

/-- The windows of kind 2 of a stream that become due as its W rises from `old`, or as it ends. -/
def Dormer.makeDue (w : WinDesc) (stream : BitVec 16) (old : Int) (d : Dormer) : Dormer :=
  let m := d.mark stream
  let ws := (d.slates.filter fun x => x.stream = stream).flatMap fun x => (paneWindows w x).map fun j => (x.sk, j)
  let now := ws.filter fun a => old < windowAt w a.2 && (m.ended || windowAt w a.2 ≤ m.wmark)
    && !(d.closing.any fun c => c.1 = a.1 && c.2.1 = a.2)
  { d with due := now.foldl (fun l a => insertDue a l) d.due }

/-- Whether a pane waits for the close of window j. -/
def Slate.waitsFor (x : Slate) (k : BitVec 16 × Word) (j : Int) : Bool := x.sk = k && x.items.contains (.close (some j))

/-- The due windows whose key has no close outstanding are raised: each enters the lists of its panes (R296). -/
def Dormer.raiseDue (w : WinDesc) (d : Dormer) : Dormer :=
  d.due.foldl (fun d a =>
    if d.closing.any fun c => c.1 = a.1 then d
    else
      let mine (x : Slate) : Bool := x.sk = a.1 && (paneWindows w x).contains a.2
      let d1 := { d with due := d.due.filter fun b => b ≠ a }
      if d.slates.any mine then
        { d1 with
          slates := d1.slates.map fun x => if mine x then x.raiseClose (some a.2) else x
          closing := d1.closing ++ [(a.1, a.2, none)] }
      else d1) d

/-- A raised close of kind 2 that no pane waits for any more is over, and the next due one of its key is raised. -/
def Dormer.tidy (w : WinDesc) (d : Dormer) : Dormer :=
  if w.kind = 2 then
    { d with closing := d.closing.filter fun c =>
        c.2.2.isSome || d.slates.any fun x => x.waitsFor c.1 c.2.1 }.raiseDue w
  else d

/-- The close of a kind-2 window is over when its group has retired: the pane whose last window it was is freed, and the
next due close of the key is raised (R296). -/
def Dormer.windowOver (w : WinDesc) (d : Dormer) (grp : Nat) : Dormer :=
  let gone := d.closing.filter fun c => c.2.2 = some grp
  let last (x : Slate) : Bool := gone.any fun c => x.sk = c.1 && x.start = c.2.1 * w.slide
  { d with
    closing := d.closing.filter fun c => c.2.2 ≠ some grp
    slates := d.slates.filter fun x => !(last x) }.tidy w

/-- A control record accepted (R291, R294, R299). -/
def Dormer.acceptControl (w : WinDesc) (d : Dormer) (r : BitVec 512) : Dormer :=
  let m := d.mark (recId r).1
  let m1 := if recWm r && m.wmark < recTs r then { m with wmark := recTs r } else m
  let m2 := if recEos r then { m1 with wmark := 2 ^ 63 - 1, ended := true } else m1
  let d1 := d.setMark m2
  if w.kind = 2 then
    (if m.ended then d1 else (d1.makeDue w m.stream m.wmark).raiseDue w)
  else d1.raiseCloses w

/-- The items that a pending list holds at most (R300). -/
def pendingLimit : Nat := 64

/-- Some pending list is longer than it may be. -/
def Dormer.overfull (d : Dormer) : Bool := d.slates.any fun x => pendingLimit < x.items.length

/-! ### The end of a wake lane (R306) -/

/-- How a lane ends: WYIELD, WCLOSE, WMERGE or EXIT. -/
inductive LaneEnd where
  | yields | closes | merges | exits
  deriving DecidableEq, Repr

/-- A slate freed: its pending list is dropped. -/
def Dormer.free (d : Dormer) (id : Nat) : Dormer := { d with slates := d.slates.filter fun x => x.id ≠ id }

/-- A slate checked in: its close is raised again where END was moved and its close condition holds (R300). -/
def Dormer.checkIn (w : WinDesc) (d : Dormer) (id : Nat) (moved : Bool) : Dormer :=
  let d1 := { d with stamp := d.stamp + 1 }
  d1.modSlate id fun x =>
    let y := { x with out := false, shut := false, stamp := d.stamp }
    if moved && w.kind ≠ 2 && closeHolds w d y && !y.closePending then y.raiseClose none else y

/-- The frame of a slate saved. -/
def Dormer.saveFrame (d : Dormer) (id : Nat) (frame : List Word) : Dormer :=
  d.modSlate id fun x => { x with frame := frame }

/-- The partner of a merge freed. -/
def Dormer.freePartner (d : Dormer) (p : Option Nat) : Dormer := match p with | some i => d.free i | none => d

/-- A wake lane with a slate ends (R306): the kind of its wake, how it ends, its frame words. -/
def Dormer.endLane (w : WinDesc) (d : Dormer) (kind : WakeKind) (how : LaneEnd) (x : WakeLane) (frame : List Word) : Dormer :=
  match x.slate with
  | none => d
  | some id =>
    let how := match how with
      | .yields => if kind = WakeKind.merge then LaneEnd.merges else .yields
      | .merges => if kind = WakeKind.merge then LaneEnd.merges else .yields
      | h => h
    match how with
    | .yields =>
      let pane := match d.slate? id with | some y => y.flags.getLsbD 2 | none => false
      if kind = WakeKind.close && !pane && !x.moved then d.free id
      else (d.saveFrame id frame).checkIn w id x.moved
    | .merges => ((d.saveFrame id frame).freePartner x.partner).checkIn w id x.moved
    | .closes => (d.free id).freePartner x.partner
    | .exits => (d.freePartner x.partner).checkIn w id x.moved

end Sys2Proof.Machine
end

