-- ==== Sys2Proof/Machine/Crews.lean ====
section
/-! DEFINITION. Crews: banks and scratchpad pools (R212, R322), accumulator tiles (R284 to R286), placement (R41, R321 to R323), retirement and the freeing of slots (R42, R45, R50, R250), wakes of parked groups. -/

namespace Sys2Proof.Machine

open Sys2Proof

/-! ### Banks (R19, R20, R212, R322) -/

/-- Bank b of a core. -/
def Core.bank (c : Core) (b : Nat) : Bank := getAt Bank.reset c.banks b

/-- A bank replaced. -/
def Core.setBank (c : Core) (b : Nat) (x : Bank) : Core := { c with banks := setAt Bank.reset c.banks b x }

/-- The banks in a mode. -/
def Core.banksIn (c : Core) (m : BankMode) : List Nat := (List.range 32).filter fun b => (c.bank b).mode = m

/-- The granules of 128 bytes of a bank. -/
def bankGranules (b : Nat) : List Nat := (List.range 2048).map fun i => b * 2048 + i

/-- Whether a granule lies in a bank. -/
def granuleIn (b g : Nat) : Bool := g / 2048 = b

/-- The granules that crews of the core hold. -/
def Core.usedGranules (c : Core) : List Nat :=
  c.crews.flatMap fun o => match o with | some k => k.granules | none => []

/-- The FIFO banks that crews of the core hold. -/
def Core.usedFifos (c : Core) : List Nat := c.crews.flatMap fun o => match o with | some k => k.fifos | none => []

/-- A bank changes its mode (R212 steps 2 and 3): a cache bank's lines are dropped, and no fill in flight is installed; a bank is zeroed before it serves in
another mode; its free granules join or leave the pool. Which lines a cache bank holds is the device's own: the model drops
all lines of the core cache, and installs none of its fills in flight (DESIGN CHOICE log 8). -/
def Core.changeBank (c : Core) (b : Nat) (m : BankMode) : Core :=
  let old := c.bank b
  if old.mode = m then c
  else
    let c1 := { c with
      cache := if old.mode = BankMode.cache then [] else c.cache
      leftCache := if old.mode = BankMode.cache then c.leftCache + 1 else c.leftCache
      freeGranules := if old.mode = BankMode.scratch then c.freeGranules.filter (fun g => !(granuleIn b g)) else c.freeGranules }
    let c2 := if m = BankMode.cache then c1 else { c1 with sram := cellsClear c1.sram (b * 262144) 262144 }
    let c3 := if m = BankMode.scratch then { c2 with freeGranules := c2.freeGranules ++ bankGranules b } else c2
    c3.setBank b { old with mode := m, fifo := [], dormerOf := none }

/-- The unpinned cache-mode banks, from bank 31 downward (R322). -/
def Core.spareBanks (c : Core) : List Nat :=
  (List.range 32).reverse.filter fun b => (c.bank b).mode = .cache && !(c.bank b).pinned

/-- The scheduler moves n spare banks into a mode while at least one bank stays in cache mode; none when it cannot, which
with no cache-mode bank left is so of any crew (R322). -/
def Core.takeBanks (c : Core) (n : Nat) (m : BankMode) : Option Core :=
  let spare := c.spareBanks
  if spare.length < n || (c.banksIn .cache).length ≤ n then none
  else some ((spare.take n).foldl (fun c b => c.changeBank b m) c)

/-- The granules of a scratchpad allocation, from the free pool, after banks have been moved as needed (R322). -/
def Core.takeScratch (c : Core) (bytes : Nat) : Option (List Nat × Core) :=
  let n := (bytes + 127) / 128
  let short := n - c.freeGranules.length
  match c.takeBanks ((short + 2047) / 2048) .scratch with
  | none => none
  | some c1 => some (c1.freeGranules.take n, { c1 with freeGranules := c1.freeGranules.drop n })

/-- FIFO banks for a crew, each empty: free FIFO-mode banks first, then cache-mode banks (R213, R322). -/
def Core.takeFifos (c : Core) (n : Nat) : Option (List Nat × Core) :=
  let used := c.usedFifos
  let free := (c.banksIn .fifo).filter fun b => !(used.contains b)
  let c0 := (free.take n).foldl (fun c b => c.setBank b { c.bank b with fifo := [] }) c
  let spare := c.spareBanks.take (n - free.length)
  match c0.takeBanks (n - free.length) .fifo with
  | none => none
  | some c1 => some (free.take n ++ spare, c1)

/-- Dormer banks for a window launch: free Dormer-mode banks first, then cache-mode banks, within 24 (R20, R322). -/
def Core.takeDormer (c : Core) (launch n : Nat) : Option Core :=
  let dorm := c.banksIn .dormer
  let free := dorm.filter fun b => (c.bank b).dormerOf.isNone
  let more := n - free.length
  if 24 < dorm.length + more then none
  else
    let spare := c.spareBanks.take more
    match c.takeBanks more .dormer with
    | none => none
    | some c1 => some ((free.take n ++ spare).foldl (fun c b => c.setBank b { c.bank b with dormerOf := some launch }) c1)

/-- An unpinned bank that serves nothing: of scratchpad without an allocation, a FIFO bank bound to no crew, a Dormer bank that
no launch holds (R322). -/
def Core.idleBank (c : Core) (b : Nat) : Bool :=
  let x := c.bank b
  !x.pinned && match x.mode with
    | .cache => false
    | .scratch => !(c.usedGranules.any (granuleIn b))
    | .fifo => !(c.usedFifos.contains b)
    | .dormer => x.dormerOf.isNone

/-- The banks that serve nothing return to cache mode (R322). -/
def Core.returnIdle (c : Core) : Core :=
  ((List.range 32).filter c.idleBank).foldl (fun c b => c.changeBank b .cache) c

/-- The FIFO banks of a freed slot are empty (R213). -/
def Core.emptyFifos (c : Core) (fs : List Nat) : Core := fs.foldl (fun c b => c.setBank b { c.bank b with fifo := [] }) c

/-- The Dormer banks of a completed window launch are released (R322). -/
def Core.releaseDormer (c : Core) (launch : Nat) : Core :=
  (c.banksIn .dormer).foldl (fun c b =>
    if (c.bank b).dormerOf = some launch then c.setBank b { c.bank b with dormerOf := none } else c) c

/-! ### Accumulator tiles (R284 to R286) -/

/-- ACCOWN of region k. -/
def Core.owner (c : Core) (k : Nat) : Word := getAt 0 c.accown k
/-- The live mask of region k. -/
def Core.liveMask (c : Core) (k : Nat) : BitVec 16 := getAt 0 c.live k

/-- The tiles first to first + n - 1 as a mask of 64. -/
def tileMask (first n : Nat) : BitVec 64 := BitVec.ofNat 64 ((2 ^ n - 1) * 2 ^ first)

/-- Whether tile t is set in a live mask. -/
def Core.tileLive (c : Core) (t : Nat) : Bool := (c.liveMask (t / 16)).getLsbD (t % 16)

/-- Whether a crew of a context on the core holds tile t. -/
def Core.tileHeld (c : Core) (ctx : Word) (t : Nat) : Bool :=
  c.crews.any fun o => match o with | some k => k.ctx = ctx && k.held.getLsbD t | none => false

/-- A block of n tiles at base b that a context may take: in a region it owns or that is empty, every tile free (neither
live nor held by a crew of the context) and, unless allowed, not set aside (R284, R285). -/
def Core.blockFree (c : Core) (ctx : Word) (useAside : Bool) (b n : Nat) : Bool :=
  (c.owner (b / 16) = ctx || c.liveMask (b / 16) = 0)
    && (List.range n).all fun i => !(c.tileLive (b + i)) && !(c.tileHeld ctx (b + i))
      && (useAside || !(c.setAside.getLsbD (b + i)))

/-- The lowest free block of n tiles, aligned on n, in one region (R284). -/
def Core.findBlock (c : Core) (ctx : Word) (useAside : Bool) (n : Nat) : Option Nat :=
  ((List.range (64 / n)).map fun i => i * n).find? fun b => c.blockFree ctx useAside b n

/-- A block joins the region's live mask; an empty region passes to the context (R284), and that write of ACCOWN ends its lock
(R286). -/
def Core.claimBlock (c : Core) (ctx : Word) (b n : Nat) : Core :=
  let k := b / 16
  { c with
    accown := if c.liveMask k = 0 then setAt 0 c.accown k ctx else c.accown
    locked := if c.liveMask k = 0 then setAt none c.locked k none else c.locked
    live := setAt 0 c.live k (c.liveMask k ||| BitVec.ofNat 16 ((2 ^ n - 1) * 2 ^ (b % 16)))
    setAside := c.setAside &&& ~~~ (tileMask b n) }

/-- Single tiles allocated at placement (R284). -/
def Core.takeTiles (c : Core) (ctx : Word) : Nat → Option (BitVec 64 × Core)
  | 0 => some (0, c)
  | n + 1 =>
    match c.findBlock ctx false 1 with
    | none => none
    | some b =>
      match (c.claimBlock ctx b 1).takeTiles ctx n with
      | none => none
      | some (m, c1) => some (m ||| tileMask b 1, c1)

/-- The age of a crew's reservation (R43, R285): launch sequence number and crew index. -/
def olderCrew (a b : Crew) : Bool := a.launch < b.launch || (a.launch = b.launch && a.index < b.index)

/-- The crew of the core with the oldest reservation (R285). -/
def Core.oldestReserve (c : Core) : Option Nat :=
  (List.range 16).foldl (fun best i =>
    match getAt none c.crews i with
    | some k =>
      if k.reserve.isNone then best
      else match best with
        | none => some i
        | some j => match getAt none c.crews j with
          | some k' => if olderCrew k k' then some i else some j
          | none => some i
    | none => best) none

/-- Tiles leave the live masks of the regions whose owner is the context; while a reservation stands they are set aside
(R42, R285). -/
def Core.freeTiles (c : Core) (ctx : Word) (m : BitVec 64) : Core :=
  let live := (List.range 4).map fun k =>
    if c.owner k = ctx then c.liveMask k &&& ~~~ (m.extractLsb' (16 * k) 16) else c.liveMask k
  { c with
    live := live
    setAside := if c.oldestReserve.isNone then 0 else c.setAside ||| m }

/-- A live mask written by the driver (R287): tiles that it clears free, and are set aside while a reservation stands (R285). -/
def Core.setLive (c : Core) (k : Nat) (m : BitVec 16) : Core :=
  let freed : BitVec 64 := (c.liveMask k &&& ~~~ m).zeroExtend 64 <<< (16 * k)
  { c with
    live := setAt 0 c.live k m
    setAside := if c.oldestReserve.isNone then 0 else c.setAside ||| freed }

/-! ### Placement (R17, R41, R321 to R323) -/

/-- A `BMODE` of a group of the core is at work: no placement is decided meanwhile (R212, R322). -/
def Core.changing (c : Core) : Bool :=
  match c.bankChange with
  | none => false
  | some (x, _) =>
    match (getAt none c.crews x.slot).bind fun k => getAt none k.groups x.grp with
    | some g => g.halt ≠ .cancelled
    | none => false

/-- Registers in use and groups resident on laneset n of a core (R17). -/
def Core.laneUse (c : Core) (n : Nat) : Nat × Nat :=
  c.crews.foldl (fun a o => match o with
    | none => a
    | some k => k.groups.foldl (fun a o => match o with
      | some g => if g.laneset = n then (a.1 + g.budget, a.2 + 1) else a
      | none => a) a) (0, 0)

/-- The laneset a group of budget b goes to: the one with the most free room among those that have room, the lowest on a
tie (R41). -/
def pickLaneset (use : List (Nat × Nat)) (b : Nat) : Option Nat :=
  (List.range 8).foldl (fun best n =>
    let u := getAt (0, 0) use n
    if 512 < u.1 + b || 8 ≤ u.2 then best
    else match best with
      | none => some n
      | some m => if u.1 < (getAt (0, 0) use m).1 then some n else some m) none

/-- Lanesets for budgets, one at a time (R41). -/
def pickLanesets (use : List (Nat × Nat)) : List Nat → Option (List Nat)
  | [] => some []
  | b :: bs =>
    match pickLaneset use b with
    | none => none
    | some n =>
      let u := getAt (0, 0) use n
      match pickLanesets (setAt (0, 0) use n (u.1 + b, u.2 + 1)) bs with
      | none => none
      | some ns => some (n :: ns)

/-- The lanesets' use on a core. -/
def Core.use (c : Core) : List (Nat × Nat) := (List.range 8).map c.laneUse

/-- The free crew slots of a core. -/
def Core.freeSlots (c : Core) : List Nat := (List.range 16).filter fun i => (getAt none c.crews i).isNone

/-- The groups of a crew before placement: role, entry offset, budget, in the order of the roles (R39). -/
def roleGroups : List RoleEntry → List RoleEntry
  | [] => []
  | r :: rs => List.replicate r.count r ++ roleGroups rs

/-- Whether a launch keeps standing crews: window and node launches (R323). -/
def Launch.standing (l : Launch) : Bool := 2 ≤ l.block.kind

/-- The capabilities of a launch's list as its groups start with them: one of an accumulator window reaches a group only
through the supervisor core's check, so that a list's is zero (R30, R287, DEDUCED log 65). -/
def startCaps (l : Launch) : List (BitVec 128) :=
  (l.block.capList.take 16).map fun c => if (accWindow? (capObj c)).isSome then 0 else c

/-- Banks return to cache mode as they fall idle: at once, or, while a `BMODE` is at work, after it (R212, R322). -/
def Core.returnBanks (c : Core) : Core := if c.changing then c else c.returnIdle

/-- A group at its start in a launch (R30). -/
def startGroup (l : Launch) (crew i lane : Nat) (r : RoleEntry) (n : Nat) : Group :=
  { Group.start with
    gid := crew * n + i, role := r.role, budget := r.budget, laneset := lane
    pc := BitVec.ofNat 32 r.offset, codeBase := l.block.code, codeSize := l.block.codeSize
    regs := { Regs.start with c := startCaps l } }

/-- A crew at its start (R40, R129, R49, R241). -/
def startCrew (l : Launch) (index : Nat) (lanesets granules fifos : List Nat) (held : BitVec 64) : Crew :=
  let rs := roleGroups l.block.roles
  let groups := if l.standing then [] else
    (rs.zip lanesets).zipIdx.map fun x => some (startGroup l index x.2 x.1.2 x.1.1 rs.length)
  { Crew.start with
    launch := l.seq, index := index, part := l.part, ctx := l.ctx, total := groups.length, groups := groups, granules := granules
    barriers := List.replicate 16 (Barrier.start (if l.standing then 1 else rs.length))
    rings := (List.range 4).map fun r => ⟨getAt 1 l.block.ringArr r, []⟩
    held := held, objs := List.replicate 8 BarObj.start, fifos := fifos }

/-- The Dormer banks of a core that serve a launch. -/
def Core.dormerBanks (c : Core) (launch : Nat) : List Nat :=
  (c.banksIn .dormer).filter fun b => (c.bank b).dormerOf = some launch

/-- The Dormer of a partition core at the launch's placement (R290, R291). -/
def Dormer.start (launch : Nat) (banks : List Nat) : Dormer := ⟨launch, banks, [], [], 0, 0, [], [], []⟩

/-- Crew `index` of a launch placed on a core, when the core can hold it (R41, R322, R323). -/
def Core.place (c : Core) (l : Launch) (index : Nat) : Option (Nat × Core) :=
  if c.fenced || c.changing then none
  else match c.freeSlots with
  | [] => none
  | slot :: _ =>
    let budgets := if l.standing then [] else (roleGroups l.block.roles).map RoleEntry.budget
    match pickLanesets c.use budgets with
    | none => none
    | some lanesets =>
      match c.takeScratch l.block.scratch with
      | none => none
      | some (granules, c1) =>
        match c1.takeFifos l.block.fifos with
        | none => none
        | some (fifos, c2) =>
          match (match l.block.win with | some w => c2.takeDormer l.seq w.dbanks | none => some c2) with
          | none => none
          | some c3 =>
            match c3.takeTiles l.ctx l.block.accTiles with
            | none => none
            | some (held, c4) =>
              some (slot, { c4 with
                crews := setAt none c4.crews slot (some (startCrew l index lanesets granules fifos held))
                dormers := if l.block.win.isSome then c4.dormers ++ [Dormer.start l.seq (c4.dormerBanks l.seq)] else c4.dormers })

/-- The core a crew goes to: the one with the most free crew slots among those of the partition that can hold it, lowest
number first (R321); a standing crew goes to a core without another of its launch (R323). -/
def pickCore (s : State) (l : Launch) (index : Nat) : Option (Nat × Nat × Core) :=
  (s.part l.part).coreList.foldl (fun best c =>
    if l.standing && l.cores.contains c then best
    else match (s.core c).place l index with
      | none => best
      | some (slot, x) =>
        match best with
        | none => some (c, slot, x)
        | some (b, bs, bx) =>
          if (s.core b).freeSlots.length < (s.core c).freeSlots.length then some (c, slot, x) else some (b, bs, bx)) none

/-- The banks of a core that differ in mode from those of its next state have new contents: the poison of their granules is
gone (R212, R230). -/
def State.bankPoison (s : State) (core : Nat) (c : Core) : State :=
  let moved := (List.range 32).filter fun b => (c.bank b).mode ≠ ((s.core core).bank b).mode
  { s with poison := s.poison.filter fun l =>
      !(moved.any fun b => sramLine core (b * 2048) ≤ l && l < sramLine core ((b + 1) * 2048)) }

/-- One crew placed; none when no core can hold it. -/
def placeCrew (s : State) (seq index : Nat) : Option State :=
  match s.launch? seq with
  | none => none
  | some l =>
    match pickCore s l index with
    | none => none
    | some (c, slot, x) =>
      some (((s.bankPoison c x).setCore c x).modLaunch seq fun l =>
        { l with placed := l.placed ++ [index], places := l.places ++ [(index, c, slot)]
                 cores := if l.standing then l.cores ++ [c] else l.cores })

/-- A core that can hold a saved crew, with it in its lowest free slot (R41, R262, R322). -/
def Core.replace (c : Core) (l : Launch) (v : Saved) : Option (Nat × Core) :=
  if c.fenced || c.changing then none
  else match c.freeSlots with
  | [] => none
  | slot :: _ =>
    match pickLanesets c.use (v.crew.members.map fun x => x.2.budget) with
    | none => none
    | some ls =>
      match c.takeScratch (scratchBytes v.crew.granules) with
      | none => none
      | some (granules, c1) =>
        match c1.takeFifos v.fifos.length with
        | none => none
        | some (fifos, c2) =>
          let lanes := (v.crew.members.map Prod.fst).zip ls
          let groups := v.crew.groups.zipIdx.map fun x => x.1.map fun g =>
            { g with laneset := ((lanes.find? fun y => y.1 = x.2).map Prod.snd).getD 0 }
          let k : Crew := { v.crew with launch := l.seq, groups := groups, granules := granules, fifos := fifos }
          let sram := (List.range (scratchBytes granules)).foldl (fun m o =>
            cellSet m (sramAddr granules o) (cellGet v.scratch o)) c2.sram
          let c3 := (fifos.zip v.fifos).foldl (fun c x => c.setBank x.1 { c.bank x.1 with fifo := x.2 }) { c2 with sram := sram }
          some (slot, { c3 with crews := setAt none c3.crews slot (some k) })

/-- The core a saved crew goes to: the one with the most free crew slots among those that can hold it, lowest number first
(R262, R321); a crew of a window or node launch returns to its own core (R290, R323). -/
def pickReplace (s : State) (l : Launch) (index : Nat) (v : Saved) : Option (Nat × Nat × Core) :=
  (s.part l.part).coreList.foldl (fun best c =>
    if l.standing && getAt 48 l.cores index ≠ c then best
    else match (s.core c).replace l v with
      | none => best
      | some (slot, x) =>
        match best with
        | none => some (c, slot, x)
        | some (b, bs, bx) =>
          if (s.core b).freeSlots.length < (s.core c).freeSlots.length then some (c, slot, x) else some (b, bs, bx)) none

/-- Crews from an index on, in ascending order, while a core can hold them (R321). -/
def placeFrom (s : State) (seq index : Nat) : Nat → State
  | 0 => s
  | n + 1 =>
    match placeCrew s seq index with
    | none => s
    | some s1 => placeFrom s1 seq (index + 1) n

/-- Every crew of a launch, or none (R321: PEERS > 0). -/
def placeAll (s : State) (seq index : Nat) : Nat → Option State
  | 0 => some s
  | n + 1 =>
    match placeCrew s seq index with
    | none => none
    | some s1 => placeAll s1 seq (index + 1) n

/-- The effective priority of a launch (R55). -/
def Launch.prio (l : Launch) : Nat := min 255 (l.block.prio + l.raised)

/-- Crews of a launch not yet placed. -/
def Launch.unplaced (l : Launch) : Nat := l.block.crews - l.placed.length

/-- The most crews one pass tries to place for one launch: the crew slots of the package. -/
def passBound : Nat := 768

/-- One launch's part of a placement pass (R321). -/
def placeLaunch (s : State) (l : Launch) : State :=
  if l.block.peers > 0 then (placeAll s l.seq l.placed.length l.unplaced).getD s
  else placeFrom s l.seq l.placed.length (min l.unplaced passBound)

/-- The order of a placement pass: descending effective priority, then ascending sequence number. -/
def insertLaunch (l : Launch) : List Launch → List Launch
  | [] => [l]
  | x :: xs => if x.prio < l.prio || (x.prio = l.prio && l.seq < x.seq) then l :: x :: xs else x :: insertLaunch l xs

/-- A launch with a crew that waits for a place. -/
def Launch.wants (l : Launch) : Bool := l.state = .eligible && (0 < l.unplaced || !l.saved.isEmpty)

/-- The saved crew of a launch with the lowest index: it comes before the crews not yet placed (R55, R321). -/
def Launch.nextSaved (l : Launch) : Option (Nat × Saved) :=
  l.saved.foldl (fun b x => match b with
    | none => some x
    | some y => if x.1 < y.1 then some x else some y) none

/-- The launches of a pass in order. A saved crew that a core can hold is restored before any crew of a later launch is
placed, so the pass ends at it, with its launch; after a launch at level 255 with a crew that no core can hold, no other is
placed (R55, R321). -/
def passLoop (s : State) : List Launch → State × Option Nat
  | [] => (s, none)
  | l :: ls =>
    match l.nextSaved with
    | some (i, v) =>
      if (pickReplace s l i v).isSome then (s, some l.seq)
      else if l.prio = 255 then (s, none) else passLoop s ls
    | none =>
      let s1 := placeLaunch s l
      let left := match s1.launch? l.seq with | some x => x.unplaced | none => 0
      if l.prio = 255 && left ≠ 0 then (s1, none) else passLoop s1 ls

/-- A placement pass of a partition (R321, R355: only while its queues are served), and the launch whose saved crew comes
next. -/
def passRun (s : State) (part : Nat) : State × Option Nat :=
  if !(bitOf (s.part part).pctl.toNat 6) then (s, none)
  else passLoop s ((s.launches.filter fun l => l.part = part && l.wants).foldr insertLaunch [])

/-- A placement pass of a partition. -/
def placementPass (s : State) (part : Nat) : State := (passRun s part).1

/-! ### Retirement and freed slots (R42, R45, R50, R250) -/

/-- The name of a resident group. -/
def State.groupName (s : State) (g : Gid) : Option GroupName :=
  (s.crew? g.core g.slot).map fun k => ⟨k.launch, k.index, g.grp⟩

/-- The locks of a group, on whatever core they are, become another's, or end. -/
def State.passLocks (s : State) (n : GroupName) (next : Option GroupName) : State :=
  { s with cores := s.cores.map fun c => { c with locked := c.locked.map fun o => if o = some n then next else o } }

/-- The regions that a resident group's first-use trap locked, on whatever core that was, are unlocked: its handler has
returned (R286). -/
def State.unlock (s : State) (g : Gid) : State :=
  match s.groupName g with
  | some n => s.passLocks n none
  | none => s

/-- The regions that a retiring group's first-use trap locked stay locked until ACCOWN is written: its handler returns no more
(R286, log 9). -/
def State.leaveLocks (s : State) (g : Gid) : State :=
  match s.groupName g with
  | some n => s.passLocks n (some { n with grp := 16 })
  | none => s

/-- With no reservation standing, no tile is set aside (R285). -/
def Core.endAside (c : Core) : Core := if c.oldestReserve.isNone then { c with setAside := 0 } else c

/-- The writes of ACCOWN and the `BMODE` that wait for the groups of a slot are over with them: a restored group issues its
instruction again (R212, R260, R286). -/
def Core.dropWaits (c : Core) (slot : Nat) : Core :=
  { c.dropOwn (fun g => g.slot = slot) with
    bankChange := match c.bankChange with
      | some (g, b) => if g.slot = slot then none else some (g, b)
      | none => none }

/-- The escalation entries of a slot's groups, the oldest first: those that the supervisor core has read, then those in the
queue. -/
def Core.slotEntries (c : Core) (slot : Nat) : List EscEntry :=
  (c.escTaken ++ c.escQueue).filter fun e => (e.gid 0).slot = slot

/-- The escalation entries of a slot's groups are gone with them (R252). -/
def Core.dropEntries (c : Core) (slot : Nat) : Core :=
  let others (es : List EscEntry) : List EscEntry := es.filter fun e => (e.gid 0).slot ≠ slot
  { c with escQueue := others c.escQueue, escTaken := others c.escTaken }

/-- A slot emptied: its granules and banks return (R322), its crew's reservation leaves the core (R285), and so do its groups'
escalation entries (R252). Its tiles, their
owners and the live masks stay as they are: switching a context out saves no tile, and a crew restored on the core finds
ACCOWN unchanged (R288). -/
def emptySlot (s : State) (core slot : Nat) : State :=
  match s.crew? core slot with
  | none => s
  | some k =>
    let c := s.core core
    let c1 := { c with crews := setAt none c.crews slot none, freeGranules := c.freeGranules ++ k.granules }
    s.setCore core (((c1.dropWaits slot).dropEntries slot).emptyFifos k.fifos).returnBanks.endAside

/-- A slot freed: it is emptied, and its tiles leave the live masks (R42). -/
def freeCrewSlot (s : State) (core slot : Nat) : State :=
  match s.crew? core slot with
  | none => s
  | some k =>
    let s1 := emptySlot s core slot
    s1.setCore core ((s1.core core).freeTiles k.ctx k.held)

/-- A crew of a launch has finished: its slot frees and placement runs again (R42, R321). -/
def finishCrew (s : State) (core slot : Nat) : State :=
  match s.crew? core slot with
  | none => s
  | some k =>
    let s1 := (freeCrewSlot s core slot).modLaunch k.launch fun l =>
      { l with finished := l.finished ++ [k.index], places := l.places.filter fun p => p.1 ≠ k.index }
    placementPass s1 k.part

/-- The ids of a group's line writes and atomics in flight. -/
def groupWrites (s : State) (g : Gid) : List Nat :=
  (s.writes.filter fun w => w.issuer = .group g).map WriteMsg.id
    ++ (s.atoms.filter fun a => a.issuer = .group g).map AtomMsg.id

/-- The bytes of line writes in flight that a group has read from its core, each with its line write (R184). -/
def groupReads (s : State) (g : Gid) : List (Nat × Nat) :=
  s.writes.flatMap fun w => (w.seenBy.filter fun x => x.1 = g).map fun x => (w.id, x.2)

/-- What stays of a retiring group's stores (R42, R45). -/
def ghostOf (s : State) (launch : Nat) (g : Gid) (x : Group) : List Ghost :=
  let ids := groupWrites s g
  if ids.isEmpty && x.buf.isEmpty && x.lgwct.toNat ≤ s.gt then [] else [⟨launch, ids, x.buf, x.lgwct.toNat, groupReads s g⟩]

/-- Who issued a message of a group that leaves its place. -/
def Issuer.leave (g : Gid) (i : Issuer) : Issuer := if i = .group g then .past g else i

/-- A group leaves its place: its line writes and atomics in flight are those of a group that has retired (R42), and what it
has read orders nothing of the group that comes next (R194). -/
def leaveGhost (s : State) (launch : Nat) (g : Gid) (x : Group) : State :=
  { s with
    ghosts := s.ghosts ++ ghostOf s launch g x
    writes := s.writes.map fun w => { w with issuer := w.issuer.leave g, seenBy := w.seenBy.filter fun y => y.1 ≠ g }
    atoms := s.atoms.map fun a => { a with issuer := a.issuer.leave g } }

/-- A listed group that retires before issuing empties its crew's gang latch; the groups that had issued trap (R50). -/
def abandonGang (s : State) (core slot grp : Nat) : State :=
  match s.crew? core slot with
  | none => s
  | some k =>
    match k.gang with
    | none => s
    | some q =>
      if q.list.contains grp && !(q.issued.any fun p => p.1 = grp) then
        let s1 := s.setCrew core slot (some { k with gang := none })
        let s2 := q.issued.foldl (fun s p =>
          match s.group? ⟨core, slot, p.1⟩ with
          | some x => takeTrapAt s ⟨core, slot, p.1⟩ 0x01 x.pc (BitVec.ofNat 32 grp)
          | none => s) s1
        match s2.crew? core slot with
        | some k2 => s2.setCrew core slot (some { k2 with groups := k2.groups.map fun o => o.map fun x =>
            if x.wait = .gangBusy then { x with wait := .none } else x })
        | none => s2
      else s

/-- The window descriptor of a launch. -/
def State.win? (s : State) (launch : Nat) : Option WinDesc :=
  match s.launch? launch with
  | some l => l.block.win
  | none => none

/-- The Dormer of a core for a launch. -/
def State.dormer? (s : State) (core launch : Nat) : Option Dormer :=
  (s.core core).dormers.find? fun d => d.launch = launch

/-- The Dormer of a core for a launch changed by f. -/
def State.modDormer (s : State) (core launch : Nat) (f : WinDesc → Dormer → Dormer) : State :=
  match s.win? launch with
  | none => s
  | some w =>
    let c := s.core core
    s.setCore core { c with dormers := c.dormers.map fun d => if d.launch = launch then f w d else d }

/-- The groups that wait for a slot of their Dormer try again while one is free (R302). -/
def wakeSlots (s : State) (core slot : Nat) : State :=
  match s.crew? core slot with
  | none => s
  | some k =>
    match s.win? k.launch, s.dormer? core k.launch with
    | some w, some d =>
      if w.spill = 0 && d.freeBank.isSome then
        s.setCrew core slot (some { k with groups := k.groups.map fun o => o.map fun g =>
          if g.wait = .slot then { g with wait := .none } else g })
      else s
    | _, _ => s

/-! ### The spill object (R301) -/

/-- The slates that the spill object can still take (R301). -/
def spillRoom (s : State) (l : Launch) (w : WinDesc) : Nat :=
  if w.spill = 0 then 0
  else
    let all := min (2 ^ 32) (entrySize (objEntry s l.part w.spill) / 128)
    let used := (l.cores.map fun c => match s.dormer? c l.seq with
      | some d => (d.slates.filter fun x => x.spilled).length
      | none => 0).sum
    all - used

/-- A free number of 64 bits from the n-th free byte on. -/
def freeNat (n : Nat) : Nat := natLE ((List.range 8).map fun i => freeByte (n + i))

/-- A slot of the spill object that none of some use: the layout is the device's own, so which one is free (R301, log 54). -/
def spillPlace (used : List Nat) (slots start : Nat) : Nat :=
  (((List.range (used.length + 1)).map fun i => (start + i) % slots).find? fun n => !(used.contains n)).getD 0

/-- A spilled slate put into the spill object: its slot, and the 128 bytes that the device writes there, are free values
(R301). -/
def State.spillSlate (s : State) (core : Nat) (l : Launch) (w : WinDesc) (id : Nat) : State :=
  let e := objEntry s l.part w.spill
  let used := l.cores.flatMap fun c => match s.dormer? c l.seq with
    | some d => d.slates.filterMap Slate.place
    | none => []
  let n := spillPlace used (min (2 ^ 32) (entrySize e / 128)) (freeNat s.free)
  let s1 := (List.range 128).foldl (fun s' i =>
    match (extentByte (128 * n + i) (entryExtents e)).filter (s.part l.part).reaches with
    | some a => s'.devWrite a (freeByte (s.free + 8 + i))
    | none => s') { s with free := s.free + 136 }
  s1.modDormer core l.seq fun _ d => d.modSlate id fun x => { x with place := some n }

/-- The slates that have just left their slots are put into the spill object (R301). -/
def State.settleSpills (s : State) (core launch : Nat) : State :=
  match s.launch? launch, s.win? launch, s.dormer? core launch with
  | some l, some w, some d =>
    (d.slates.filter fun x => x.spilled && x.place.isNone).foldl (fun s x => s.spillSlate core l w x.id) s
  | _, _, _ => s

/-- A wake group has retired: the close of its kind-2 window is over (R296). -/
def wakeOver (s : State) (g : Gid) (launch : Nat) (x : Group) : State :=
  match x.wake with
  | some (.close, _) => wakeSlots (s.modDormer g.core launch fun w d => d.windowOver w g.grp) g.core g.slot
  | _ => s

/-- A group retires (R42, R50, R127, R250): its register room frees, the gang latch that lists it empties, the crew resumes
when no handler is left, and the crew's slot frees with its last group. -/
def retireGroup (s : State) (g : Gid) : State :=
  match s.crew? g.core g.slot, s.group? g with
  | some k, some x =>
    let s1 := { leaveGhost (s.leaveLocks g) k.launch g x with pfx := none }
    let s2 := abandonGang (s1.setGroup g none) g.core g.slot g.grp
    match s2.crew? g.core g.slot with
    | none => s2
    | some k2 =>
      let s3 := wakeOver (s2.setCrew g.core g.slot (some { k2.resumeIfFree with left := some s.gt })) g k.launch x
      let standing := match s.launch? k.launch with | some l => l.standing | none => false
      if k2.members.isEmpty && !standing then finishCrew s3 g.core g.slot else s3
  | _, _ => s

/-! ### Barriers, stage rings and barrier objects (R49, R129, R241) -/

/-- Barrier b of a crew. -/
def Crew.barrier (k : Crew) (b : Nat) : Barrier := getAt (Barrier.start 1) k.barriers b

/-- A seen-phase bit written. -/
def Group.see (g : Group) (b : Nat) (ph : Bool) : Group :=
  { g with seenPhase := if ph then g.seenPhase ||| BitVec.ofNat 16 (2 ^ b)
                        else g.seenPhase &&& ~~~ (BitVec.ofNat 16 (2 ^ b)) }

/-- acquire: later accesses wait for the loads and atomics now outstanding (R187). -/
def Group.acquire (g : Group) : Group :=
  { g with acqs := g.acqs + 1, acq := (g.outst.filter fun o => o.kind.parks).map Outst.id }

/-- A met wait: the group goes on, having acquired (R129, R49). -/
def Group.wakeUp (g : Group) : Group := { g.acquire with wait := .none }

/-- The waiters on a barrier whose completion their seen phase has not recorded go on (R129). -/
def Crew.wakeBarrier (k : Crew) (b : Nat) : Crew :=
  let ph := (k.barrier b).phase
  { k with groups := k.groups.map fun o => o.map fun g =>
      if g.wait = .barrier b && ph != g.seenPhase.getLsbD b then (g.see b ph).wakeUp else g }

/-- One arrival counted: the arrival that reaches the expected count flips the phase and wakes the waiters (R129). -/
def Crew.arrive (k : Crew) (b : Nat) : Crew :=
  let x := k.barrier b
  if x.arrived + 1 = x.expected then
    { k with barriers := setAt (Barrier.start 1) k.barriers b { x with arrived := 0, phase := !x.phase } }.wakeBarrier b
  else { k with barriers := setAt (Barrier.start 1) k.barriers b { x with arrived := x.arrived + 1 } }

/-- Slot s of ring r: phase and signal count. -/
def Crew.ringSlot (k : Crew) (r sl : Nat) : Bool × Nat := getAt (false, 0) (getAt Ring.start k.rings r).slots sl

/-- The waiters on a ring slot whose phase is the one they expect go on (R49). -/
def Crew.wakeRing (k : Crew) (r sl : Nat) : Crew :=
  { k with groups := k.groups.map fun o => o.map fun g =>
      if g.wait = .ring r sl (k.ringSlot r sl).1 then g.wakeUp else g }

/-- One signal counted: a slot that reaches its ring's arrival count flips its phase (R49, R332). -/
def Crew.signal (k : Crew) (r sl : Nat) : Crew :=
  let ring := getAt Ring.start k.rings r
  let (ph, n) := k.ringSlot r sl
  let put (x : Bool × Nat) : Crew :=
    { k with rings := setAt Ring.start k.rings r { ring with slots := setAt (false, 0) ring.slots sl x } }
  if n + 1 = ring.arrival then (put (!ph, 0)).wakeRing r sl else put (ph, n + 1)

/-- Barrier object o of a crew. -/
def Crew.obj (k : Crew) (o : Nat) : BarObj := getAt BarObj.start k.objs o

/-- A barrier object is complete: armed, and its pending count at most 0 (R241). -/
def BarObj.done (b : BarObj) : Bool := b.armed && b.count.toInt ≤ 0

/-- A group that waits on a complete barrier object goes on, and disarms it (R241): of several, the one with the lowest
crew-local index (R241 does not say; DESIGN CHOICE log 11). -/
def Crew.wakeObj (k : Crew) (o : Nat) : Crew :=
  if (k.obj o).done then
    match k.members.find? fun p => p.2.wait = .bowait o with
    | some (i, g) =>
      { k with
        objs := setAt BarObj.start k.objs o { k.obj o with armed := false }
        groups := setAt none k.groups i (some g.wakeUp) }
    | none => k
  else k

end Sys2Proof.Machine
end

