-- ==== Sys2Proof/Machine/Control.lean ====
section
/-! DEFINITION. Control, divergence, barriers, modes, traps, system registers and time: opcodes 0x00 to 0x1B (R37, R125 to R138, R248). -/

namespace Sys2Proof.Machine

open Sys2Proof

/-- The target of a branch word: its own offset plus 4 times the signed displacement (R100). -/
def target (s : State) (g : Group) (w disp : Nat) : Word := basePc s g + BitVec.ofInt 32 (4 * signedOf w disp)

/-- A jump to a target read from a scalar: a target that is not a multiple of 4 traps (R80). -/
def jumpTo (s : State) (d : Desc) (g : Group) (t : Word) : Out :=
  if t.toNat % 4 ≠ 0 then .next (takeTrap s 0x0A t) else .next (finishTo s d g t)

/-- NOP (R126). -/
def execNop (st : BitVec 3) (s : State) : Out :=
  uniform { word := encode (.nop st), op := 0x00, st := st.toNat } s id

/-- BRA (R126). -/
def execBra (st : BitVec 3) (d : BitVec 21) (s : State) : Out :=
  let q : Desc := { word := encode (.bra st d), op := 0x01, st := st.toNat }
  issue q s fun g _ => .next (finishTo s q g (target s g 21 d.toNat))

/-- CALL (R126): s56 is the link register. -/
def execCall (st : BitVec 3) (d : BitVec 21) (s : State) : Out :=
  let q : Desc := { word := encode (.call st d), op := 0x02, st := st.toNat, writes := [codeS 56] }
  issue q s fun g _ =>
    .next (finishTo s q (g.result 0 (codeS 56) (.scal (nextPc s g))) (target s g 21 d.toNat))

/-- RET (R80, R126). -/
def execRet (st : BitVec 3) (s : State) : Out :=
  let q : Desc := { word := encode (.ret st), op := 0x03, st := st.toNat, reads := [codeS 56] }
  issue q s fun g _ => jumpTo s q g (g.regs.readS 56)

/-- JMPI and JMPI.L: the target is read before the link is written (R126). -/
def execJmpi (st : BitVec 3) (d a : BitVec 6) (f : BitVec 3) (s : State) : Out :=
  let q : Desc := { word := encode (.jmpi st d a f), op := 0x04, st := st.toNat, reads := [codeS a.toNat]
                    writes := if f = 1 then [codeS d.toNat] else [] }
  issue q s fun g _ =>
    jumpTo s q (if f = 1 then g.result 0 (codeS d.toNat) (.scal (nextPc s g)) else g) (g.regs.readS a.toNat)

/-- BRNZ (R126). -/
def execBrnz (st : BitVec 3) (a : BitVec 6) (d : BitVec 15) (s : State) : Out :=
  let q : Desc := { word := encode (.brnz st a d), op := 0x05, st := st.toNat, reads := [codeS a.toNat] }
  issue q s fun g _ =>
    .next (if g.regs.readS a.toNat ≠ 0 then finishTo s q g (target s g 15 d.toNat) else finish s q g)

/-- BRZ (R126). -/
def execBrz (st : BitVec 3) (a : BitVec 6) (d : BitVec 15) (s : State) : Out :=
  let q : Desc := { word := encode (.brz st a d), op := 0x06, st := st.toNat, reads := [codeS a.toNat] }
  issue q s fun g _ =>
    .next (if g.regs.readS a.toNat = 0 then finishTo s q g (target s g 15 d.toNat) else finish s q g)

/-- LOOP (R126): the register is tested as it stands after the write, which s60 to s63 take without the exited lanes
(R32). -/
def execLoop (st : BitVec 3) (a : BitVec 6) (d : BitVec 15) (s : State) : Out :=
  let q : Desc := { word := encode (.loop st a d), op := 0x0B, st := st.toNat, reads := [codeS a.toNat]
                    writes := [codeS a.toNat] }
  issue q s fun g _ =>
    let g1 := g.result 0 (codeS a.toNat) (.scal (g.regs.readS a.toNat - 1))
    .next (if g1.regs.readS a.toNat ≠ 0 then finishTo s q g1 (target s g 15 d.toNat) else finish s q g1)

/-! ### Divergence (R37) -/

/-- SSY: a JOIN entry (R37). -/
def execSsy (st : BitVec 3) (d : BitVec 21) (s : State) : Out :=
  let q : Desc := { word := encode (.ssy st d), op := 0x07, st := st.toNat }
  issue q s fun g _ =>
    if 32 ≤ g.stack.length then .next (takeTrap s 0x19 0)
    else .next (finish s q { g with stack := ⟨false, target s g 21 d.toNat, g.regs.act, g.regs.mw⟩ :: g.stack })

/-- `brp` of R37 with the lanes that take the branch. -/
def branchLanes (s : State) (q : Desc) (g : Group) (taken : Mask) (t : Word) : Out :=
  let rest := g.regs.act &&& ~~~ taken
  if taken = 0 then .next (finish s q g)
  else if rest = 0 then .next (finishTo s q g t)
  else if 32 ≤ g.stack.length then .next (takeTrap s 0x19 0)
  else .next (finish s q
    (Group.dropChain { g.setAct rest with stack := ⟨true, t, taken, g.regs.mw⟩ :: g.stack }))

/-- BRP (R37). -/
def execBrp (st : BitVec 3) (p : BitVec 5) (d : BitVec 16) (s : State) : Out :=
  let q : Desc := { word := encode (.brp st p d), op := 0x08, st := st.toNat, writes := codesAct
                    preds := [codeP p.toNat] }
  issue q s fun g _ => branchLanes s q g (g.regs.act &&& g.regs.readP p.toNat) (target s g 16 d.toNat)

/-- BRPN: BRP with the predicate inverted (R37). -/
def execBrpn (st : BitVec 3) (p : BitVec 5) (d : BitVec 16) (s : State) : Out :=
  let q : Desc := { word := encode (.brpn st p d), op := 0x09, st := st.toNat, writes := codesAct
                    preds := [codeP p.toNat] }
  issue q s fun g _ => branchLanes s q g (g.regs.act &&& ~~~ (g.regs.readP p.toNat)) (target s g 16 d.toNat)

/-- The first entry from the top that still holds a lane, with the entries below it (R37: resume). -/
def popLive (xm : Mask) : List StackEntry → Option (StackEntry × List StackEntry)
  | [] => none
  | e :: r => if e.mask &&& ~~~ xm ≠ 0 then some (e, r) else popLive xm r

/-- The group after `resume` of R37 has found an entry. -/
def Group.pop (g : Group) (e : StackEntry) (r : List StackEntry) : Group :=
  let y := g.setAct (e.mask &&& ~~~ g.regs.xm)
  { y with stack := r, regs := { y.regs with mw := e.mw } }

/-- `resume` of R37 at the end of an instruction whose lanes have all left: the next entry with lanes, or retirement. A
path switch at SYNC drops the chain (R117). -/
def resumeOrRetire (s : State) (q : Desc) (g : Group) (sync : Bool) : Out :=
  match popLive g.regs.xm g.stack with
  | some (e, r) =>
    let y := g.pop e r
    .next (finishAt s q (if sync && e.path then y.dropChain else y.endChain) e.pc)
  | none =>
    if g.outst.isEmpty then .next (retireGroup (finish s q g) s.cur) else .next (waitIssue s .drain)

/-- SYNC (R37). -/
def execSync (st : BitVec 3) (s : State) : Out :=
  let q : Desc := { word := encode (.sync st), op := 0x0A, st := st.toNat, writes := codesAct }
  issue q s fun g _ => if g.stack.isEmpty then .next (takeTrap s 0x19 1) else resumeOrRetire s q g true

/-! ### Barriers (R129, R130) -/

/-- release at crew or core scope (R187): no store waits in the group's buffer or for its bank, no memory atomic is
outstanding. -/
def releasedCore (g : Group) : Bool :=
  g.buf.isEmpty && g.bankBuf.isEmpty && !(g.outst.any fun o => match o.kind with | .atom _ _ _ _ => true | _ => false)

/-- release at dev or sys scope (R187). -/
def releasedDev (s : State) (g : Group) : Bool :=
  g.usc = 0 && g.buf.isEmpty && g.bankBuf.isEmpty && g.lgwct.toNat ≤ s.gt

/-- A barrier instruction of the crew: `f` changes the crew once the group stands retired in it. -/
def crewOp (s : State) (q : Desc) (g : Group) (f : Crew → Group → Crew) : Out :=
  let s1 := finish s q g
  match s1.crew? s.cur.core s.cur.slot, s1.group? s.cur with
  | some k, some x => .next (s1.setCrew s.cur.core s.cur.slot (some (f k x)))
  | _, _ => .next s1

/-- BAR: arrive and wait (R129). -/
def execBar (st : BitVec 3) (b : BitVec 4) (s : State) : Out :=
  let q : Desc := { word := encode (.bar st b), op := 0x0D, st := st.toNat }
  issue q s fun g _ =>
    if !(releasedCore g) then .next (holdIssue s)
    else crewOp s q g fun k x =>
      (k.setGroup s.cur.grp (some { x.see b.toNat (k.barrier b.toNat).phase with wait := .barrier b.toNat })).arrive b.toNat

/-- BAR.ARV: arrive (R129). -/
def execBarArv (st : BitVec 3) (b : BitVec 4) (s : State) : Out :=
  let q : Desc := { word := encode (.barArv st b), op := 0x0D, st := st.toNat }
  issue q s fun g _ =>
    if !(releasedCore g) then .next (holdIssue s)
    else crewOp s q g fun k x =>
      (k.setGroup s.cur.grp (some (x.see b.toNat (k.barrier b.toNat).phase))).arrive b.toNat

/-- BAR.WAIT: wait (R129). -/
def execBarWait (st : BitVec 3) (b : BitVec 4) (s : State) : Out :=
  let q : Desc := { word := encode (.barWait st b), op := 0x0D, st := st.toNat }
  issue q s fun g _ =>
    crewOp s q g fun k x =>
      let ph := (k.barrier b.toNat).phase
      if ph != x.seenPhase.getLsbD b.toNat then k.setGroup s.cur.grp (some (x.see b.toNat ph).acquire)
      else k.setGroup s.cur.grp (some { x with wait := .barrier b.toNat })

/-- BARINIT (R129): n = 0 gives the group count that the crew was placed with (R39); with n = 0 in a window or node crew it traps (R323). -/
def execBarinit (st : BitVec 3) (b : BitVec 4) (n : BitVec 15) (s : State) : Out :=
  let q : Desc := { word := encode (.barinit st b n), op := 0x0E, st := st.toNat }
  issue q s fun g _ =>
    let standing := match s.crew? s.cur.core s.cur.slot with
      | some k => (match s.launch? k.launch with | some l => l.standing | none => false)
      | none => false
    if n = 0 && standing then .next (takeTrap s 0x02 q.word)
    else crewOp s q g fun k _ =>
      let x := k.barrier b.toNat
      let e := if n = 0 then k.total else n.toNat
      { k with barriers := setAt (Barrier.start 1) k.barriers b.toNat { x with expected := e, arrived := 0 } }

/-! ### Pre-emption hint (R131) -/

/-- The live vectors PHINT names. -/
def hintMask (g : Group) (a : Nat) : Mask :=
  g.regs.readS (a + 3) ++ g.regs.readS (a + 2) ++ g.regs.readS (a + 1) ++ g.regs.readS a

/-- The live scratchpad ranges PHINT names; a range beyond the allocation makes all of it live. -/
def hintRanges (g : Group) (b bytes : Nat) : List (Nat × Nat) :=
  let r := [((g.regs.readS b).toNat, (g.regs.readS (b + 1)).toNat),
            ((g.regs.readS (b + 2)).toNat, (g.regs.readS (b + 3)).toNat)].filter fun x => x.2 ≠ 0
  if r.any fun x => bytes < x.1 + x.2 then [(0, bytes)] else r

/-- PHINT: with a request pending, in normal state, the group stops after it (R56, R131). -/
def execPhint (st : BitVec 3) (a b : BitVec 6) (s : State) : Out :=
  let q : Desc := { word := encode (.phint st a b), op := 0x0F, st := st.toNat
                    reads := [codeS a.toNat, codeS (a.toNat + 1), codeS (a.toNat + 2), codeS (a.toNat + 3),
                              codeS b.toNat, codeS (b.toNat + 1), codeS (b.toNat + 2), codeS (b.toNat + 3)] }
  issue q s fun g _ =>
    let pending := match s.crew? s.cur.core s.cur.slot with | some k => k.preemptAt.isSome | none => false
    if !pending || g.state ≠ .normal then .next (finish s q g)
    else crewOp s q g fun k x =>
      let hint := (s.cur.grp, hintMask g a.toNat, hintRanges g b.toNat (scratchBytes k.granules))
      { k.setGroup s.cur.grp (some { x with halt := .saving }) with hints := k.hints ++ [hint] }

/-! ### Mode word and chains (R132) -/

/-- SETMW: a reserved value traps and MW keeps its value (R92). -/
def execSetmw (st : BitVec 3) (i : BitVec 21) (s : State) : Out :=
  let q : Desc := { word := encode (.setmw st i), op := 0x10, st := st.toNat }
  issue q s fun g _ =>
    if mwReserved (i.zeroExtend 32) then .next (takeTrap s 0x02 q.word)
    else .next (finish s q { g with regs := { g.regs with mw := i.zeroExtend 32 } })

/-- GETMW. -/
def execGetmw (st : BitVec 3) (d : BitVec 6) (s : State) : Out :=
  uniform { word := encode (.getmw st d), op := 0x11, st := st.toNat, writes := [codeS d.toNat] } s
    fun g => g.result 0 (codeS d.toNat) (.scal g.regs.mw)

/-- CHAIN: an open chain ends, and its own opens (R117, R132). -/
def execChain (st : BitVec 3) (n : BitVec 21) (s : State) : Out :=
  let q : Desc := { word := encode (.chain st n), op := 0x12, st := st.toNat }
  issue q s fun g _ => .next (finishMember s q { g with regs := { g.regs with cc := n.toNat, wv := 0 } })

/-! ### Traps, returns and escalation (R133, R134) -/

/-- TRAP (R133). -/
def execTrap (st : BitVec 3) (i : BitVec 21) (s : State) : Out :=
  issue { word := encode (.trap st i), op := 0x13, st := st.toNat } s fun _ _ =>
    .next (takeTrap s 0x42 (i.zeroExtend 32))

/-- BRKPT (R133). -/
def execBrkpt (st : BitVec 3) (i : BitVec 21) (s : State) : Out :=
  issue { word := encode (.brkpt st i), op := 0x16, st := st.toNat } s fun _ _ =>
    .next (takeTrap s 0x40 (i.zeroExtend 32))

/-- RFT (R133, R248). -/
def execRft (st : BitVec 3) (s : State) : Out :=
  let q : Desc := { word := encode (.rft st), op := 0x14, st := st.toNat, priv := .handler }
  issue q s fun g _ => .next (returnFromTrap ((finish s q g).unlock s.cur) s.cur false)

/-- RFT.NEXT (R133, R248). -/
def execRftNext (st : BitVec 3) (s : State) : Out :=
  let q : Desc := { word := encode (.rftNext st), op := 0x14, st := st.toNat, priv := .handler }
  issue q s fun g _ => .next (returnFromTrap ((finish s q g).unlock s.cur) s.cur true)

/-- ESC: an entry of kind 1, and the group issues nothing until it is completed (R134, R252). -/
def execEsc (st : BitVec 3) (i : BitVec 21) (s : State) : Out :=
  let q : Desc := { word := encode (.esc st i), op := 0x15, st := st.toNat, priv := .handler }
  issue q s fun g _ =>
    .next (((finish s q g).modGroup s.cur fun x => { x with wait := .esc none }).escalate s.cur.core
      (escEntry 1 s.cur i.toNat g.tcause.toNat (basePc s g) g.tval))

/-! ### System registers (R135 to R137) -/

/-- The version under which a `TBLEV` issued now evaluates: exchanges not yet in effect count (R137, R163). -/
def Table.nextVersion (t : Table) : BitVec 16 := t.version + BitVec.ofNat 16 t.swaps

/-- The value of a system register at issue (R136). -/
def sysRead (s : State) (core : Nat) (k : Crew) (g : Group) (n : Nat) : Word :=
  let c := s.core core
  match n with
  | 0x000 => g.regs.mw
  | 0x001 => g.regs.flags.zeroExtend 32
  | 0x002 => BitVec.ofNat 32 g.gid
  | 0x003 => BitVec.ofNat 32 k.index
  | 0x004 => BitVec.ofNat 32 k.launch
  | 0x005 => BitVec.ofNat 32 core
  | 0x006 => BitVec.ofNat 32 g.laneset
  | 0x007 => match g.role with | .general => 0 | .copy => 1 | .matrix => 2 | .vector => 3
  | 0x008 => BitVec.ofNat 32 s.gt
  | 0x009 => BitVec.ofNat 32 (s.gt / 2 ^ 32)
  | 0x00A => g.usc
  | 0x00B => g.lgwct.extractLsb' 0 32
  | 0x00C => g.lgwct.extractLsb' 32 32
  | 0x00D => g.regs.bcc
  | 0x00E => g.batch
  | 0x00F => if k.preemptAt.isSome then 1 else 0
  | 0x010 => g.regs.rngKey.extractLsb' 0 32
  | 0x011 => g.regs.rngKey.extractLsb' 32 32
  | 0x012 => g.regs.rngCtr.extractLsb' 0 32
  | 0x013 => g.regs.rngCtr.extractLsb' 32 32
  | 0x014 => (getAt Table.reset c.tables 1).nextVersion ++ (getAt Table.reset c.tables 0).nextVersion
  | 0x020 => g.tcause.zeroExtend 32
  | 0x021 => g.tpc
  | 0x022 => g.tval
  | 0x023 => g.tskid.zeroExtend 32
  | 0x024 => if g.sstep then 1 else 0
  | 0x028 => k.ctx
  | _ => c.owner (n - 0x030)

/-- The state a write of a system register is reserved to; none for a read-only one (R136). -/
def sysAccess (n : Nat) : Option Priv :=
  if n = 0x000 || n = 0x001 || n = 0x00D || (0x010 ≤ n && n ≤ 0x013) || n = 0x024 then some .any
  else if 0x020 ≤ n && n ≤ 0x022 then some .handler
  else if 0x030 ≤ n && n ≤ 0x033 then some .core
  else none

/-- The privilege a write of a system register needs (R123, R136). -/
def sysPriv (n : Nat) : Priv := (sysAccess n).getD .never

/-- A value with a reserved bit set (R136, R92, R118). -/
def sysReserved (n : Nat) (v : Word) : Bool :=
  match n with
  | 0x000 => mwReserved v
  | 0x001 => bitsOf v.toNat 31 7 ≠ 0
  | 0x020 => bitsOf v.toNat 31 8 ≠ 0
  | 0x021 => bitsOf v.toNat 1 0 ≠ 0
  | 0x024 => bitsOf v.toNat 31 1 ≠ 0
  | _ => false

/-- Word j of a 64-bit register replaced. -/
def setHalf (x : DWord) (j : Nat) (v : Word) : DWord :=
  if j = 0 then x.extractLsb' 32 32 ++ v else v ++ x.extractLsb' 0 32

/-- A system register of the group written. -/
def sysWrite (g : Group) (n : Nat) (v : Word) : Group :=
  match n with
  | 0x000 => { g with regs := { g.regs with mw := v } }
  | 0x001 => { g with regs := { g.regs with flags := v.truncate 7 } }
  | 0x00D => { g with regs := { g.regs with bcc := v } }
  | 0x010 => { g with regs := { g.regs with rngKey := setHalf g.regs.rngKey 0 v } }
  | 0x011 => { g with regs := { g.regs with rngKey := setHalf g.regs.rngKey 1 v } }
  | 0x012 => { g with regs := { g.regs with rngCtr := setHalf g.regs.rngCtr 0 v } }
  | 0x013 => { g with regs := { g.regs with rngCtr := setHalf g.regs.rngCtr 1 v } }
  | 0x020 => { g with tcause := v.truncate 8 }
  | 0x021 => { g with tpc := v }
  | 0x022 => { g with tval := v }
  | 0x024 => { g with sstep := v.getLsbD 0 }
  | _ => g

/-- The registers of the flag-setting results of the group that are still outstanding (R88, R137). -/
def flagsPending (g : Group) : List Nat :=
  g.outst.flatMap fun o => match o.kind with | .value _ => o.regs | _ => []

/-- SYSRD (R135, R136); FLAGS waits for earlier flag-setting instructions (R88). -/
def execSysrd (st : BitVec 3) (d : BitVec 6) (r : BitVec 12) (s : State) : Out :=
  let q : Desc := { word := encode (.sysrd st d r), op := 0x17, st := st.toNat, writes := [codeS d.toNat] }
  issue q s fun g _ =>
    if r = 1 && !(flagsPending g).isEmpty then .next (waitIssue s (.result (flagsPending g) q.writes))
    else match s.crew? s.cur.core s.cur.slot with
      | none => .next s
      | some k => .next (finish s q (g.result 0 (codeS d.toNat) (.scal (sysRead s s.cur.core k g r.toNat))))

/-- The matrix jobs of a core that touch an accumulator region (R286). -/
def regionBusy (c : Core) (k : Nat) : Bool :=
  c.mats.any fun j => (j.reads ++ j.writes).any fun x => match x with
    | .tiles a b => a < 16 * (k + 1) && 16 * k < b
    | _ => false

/-- ACCOWNk written: it takes effect and unlocks the region (R286). -/
def setOwner (c : Core) (k : Nat) (v : Word) : Core :=
  { c with accown := setAt 0 c.accown k v, locked := setAt none c.locked k none
           ownWrite := setAt none c.ownWrite k none, ownWriter := setAt none c.ownWriter k none }

/-- A write of a system register that the state allows, with the value it would produce (R135 to R137, R286). -/
def sysStore (s : State) (q : Desc) (g : Group) (n : Nat) (v : Word) : Out :=
  if sysReserved n v then .next (takeTrap s 0x02 q.word)
  else if n = 0x001 && !(flagsPending g).isEmpty then .next (waitIssue s (.result (flagsPending g) []))
  else if 0x030 ≤ n then
    let k := n - 0x030
    let c := s.core s.cur.core
    if regionBusy c k || (getAt none c.ownWrite k).isSome then
      if (getAt none c.ownWrite k).isSome then .next (holdIssue s)
      else .next (holdIssue (s.setCore s.cur.core
        { c with ownWrite := setAt none c.ownWrite k (some (v, q.st))
                 ownWriter := setAt none c.ownWriter k (some s.cur) }))
    else .next (finish (s.setCore s.cur.core (setOwner c k v)) q g)
  else
    let y := (sysWrite g n v).endChain.retire q.st (nextPc s g)
    .next { s.setGroup s.cur (some { y with
      since := s.gt, stepOwed := if g.sstep && g.state = .normal then some g.pc else none }) with pfx := none }

/-- A SYSWR form: the value from the old value and s[sa]. -/
def sysUpdate (s : State) (q : Desc) (a n : Nat) (f : Word → Word → Word) : Out :=
  issue q s fun g _ =>
    match s.crew? s.cur.core s.cur.slot with
    | none => .next s
    | some k => sysStore s q g n (f (sysRead s s.cur.core k g n) (g.regs.readS a))

/-- SYSWR. -/
def execSyswr (st : BitVec 3) (a : BitVec 6) (r : BitVec 12) (s : State) : Out :=
  sysUpdate s { word := encode (.syswr st a r), op := 0x18, st := st.toNat, priv := sysPriv r.toNat
                reads := [codeS a.toNat] } a.toNat r.toNat fun _ x => x

/-- SYSWR.SET. -/
def execSyswrSet (st : BitVec 3) (a : BitVec 6) (r : BitVec 12) (s : State) : Out :=
  sysUpdate s { word := encode (.syswrSet st a r), op := 0x18, st := st.toNat, priv := sysPriv r.toNat
                reads := [codeS a.toNat] } a.toNat r.toNat fun o x => o ||| x

/-- SYSWR.CLR. -/
def execSyswrClr (st : BitVec 3) (a : BitVec 6) (r : BitVec 12) (s : State) : Out :=
  sysUpdate s { word := encode (.syswrClr st a r), op := 0x18, st := st.toNat, priv := sysPriv r.toNat
                reads := [codeS a.toNat] } a.toNat r.toNat fun o x => o &&& ~~~ x

/-! ### Time and code prefetch (R138) -/

/-- WAITGT and WAITGT.REL (R138). -/
def execWaitgt (st : BitVec 3) (a : BitVec 6) (f : BitVec 3) (s : State) : Out :=
  let q : Desc := { word := encode (.waitgt st a f), op := 0x19, st := st.toNat
                    reads := [codeS a.toNat, codeS (a.toNat + 1)] }
  issue q s fun g _ =>
    let t := (pairOf (g.regs.readS a.toNat) (g.regs.readS (a.toNat + 1))).toNat + (if f = 1 then s.gt else 0)
    if t ≤ s.gt then .next (finish s q g)
    else .next ((finish s q g).modGroup s.cur fun x => { x with wait := .gt t })

/-- GTIME: both words from one reading (R138). The package has one GT, so that readings on different cores do not differ,
where R25 lets them differ by 2 ticks (DESIGN CHOICE log 47). -/
def execGtime (st : BitVec 3) (d : BitVec 6) (s : State) : Out :=
  uniform { word := encode (.gtime st d), op := 0x1A, st := st.toNat
            writes := [codeS d.toNat, codeS (d.toNat + 1)] } s
    fun g => (g.result 0 (codeS d.toNat) (.scal (BitVec.ofNat 32 s.gt))).result 0 (codeS (d.toNat + 1))
      (.scal (BitVec.ofNat 32 (s.gt / 2 ^ 32)))

/-- IPREF: the four code lines from the target's on, those within the code (R138). -/
def execIpref (st : BitVec 3) (d : BitVec 21) (s : State) : Out :=
  let q : Desc := { word := encode (.ipref st d), op := 0x1B, st := st.toNat }
  issue q s fun g _ =>
    let part := match s.crew? s.cur.core s.cur.slot with | some k => k.part | none => 0
    let first := (target s g 21 d.toNat).toNat / 128
    let ls := ((List.range 4).map fun i => first + i).filter fun i => i * 128 < g.codeSize
    .next (finish (ls.foldl (fun s i => s.fetchLine s.cur.core part g.codeBase (i * 128)) s) q g)

/-! ### Words that are not instructions, and fetches beyond the code (R103, R124) -/

/-- UNDEFINED_OPCODE: trap 0x01 with the word (R103). -/
def execUndefinedOpcode (w : BitVec 32) (s : State) : Out :=
  match s.group? s.cur with
  | none => .fault .noIssuingGroup
  | some _ => .next (takeTrap s 0x01 w)

/-- INSTRUCTION_FETCH_FAULT: trap 0x08 with the offset (R124). -/
def execInstructionFetchFault (off : BitVec 32) (s : State) : Out :=
  match s.group? s.cur with
  | none => .fault .noIssuingGroup
  | some _ => .next (takeTrap s 0x08 off)

end Sys2Proof.Machine
end

