-- ==== Sys2Proof/Machine/Events.lean ====
section
/-! DEFINITION. The event queue (R359, R360), the machine check and the fence of a core (R266), debugger stops of a group (R263). -/

namespace Sys2Proof.Machine

open Sys2Proof

/-- An event's fields (R359). -/
structure Event where
  kind : Nat
  core : Nat := 0xFF
  slot : Nat := 0
  grp : Nat := 0
  cause : Nat := 0
  ctx : Nat := 0
  seq : Nat := 0
  tpc : Nat := 0
  tval : Nat := 0
  info : Nat := 0
  deriving DecidableEq, Repr

/-- The 512 bits of an entry (R359). -/
def Event.bits (e : Event) (gt : Nat) : Nat :=
  e.kind + e.core * 2 ^ 8 + (e.grp + e.slot * 16) * 2 ^ 16 + e.cause * 2 ^ 24 + e.ctx * 2 ^ 256 + e.seq * 2 ^ 288
    + e.tval * 2 ^ 320 + e.tpc * 2 ^ 352 + gt % 2 ^ 64 * 2 ^ 384 + e.info % 2 ^ 64 * 2 ^ 448

/-- An event of a partition: the entry, EQTAIL and an MSI-X message, or one more event lost (R359). -/
def State.postEvent (s : State) (part : Nat) (e : Event) : State :=
  let p := s.part part
  let n := 2 ^ (6 + min 10 (p.eqbase.toNat % 16))
  if n ≤ (p.eqtail - p.eqhead).toNat then s.setPart part { p with eqlost := p.eqlost + 1 }
  else
    let s1 := vaWrite s p.homeStack part (p.eqbase.toNat / 4096 * 4096 + 64 * (p.eqtail.toNat % n))
      (bytesLE 64 (e.bits s.gt))
    s1.setPart part { s1.part part with eqtail := p.eqtail + 1, msix := p.msix + 1 }

/-- An event of the package controller (R360: kinds 8, 9 and 10; link failures). -/
def State.packageEvent (s : State) (e : Event) : State :=
  { s with pkg := { s.pkg with events := s.pkg.events ++ [BitVec.ofNat 512 (e.bits s.gt)] } }

/-- An event about a group. -/
def State.groupEvent (s : State) (g : Gid) (kind cause : Nat) (tpc tval : Word) (info : Nat) : State :=
  match s.crew? g.core g.slot with
  | none => s
  | some k => s.postEvent k.part
      { kind := kind, core := g.core, slot := g.slot, grp := g.grp, cause := cause, ctx := k.ctx.toNat
        tpc := tpc.toNat, tval := tval.toNat, info := info }

/-- A `WAITM` whose page request is rolled back reads again (R207, R264). -/
def Outst.repage (o : Outst) : Outst :=
  match o.kind with
  | .waitm w => { o with kind := .waitm { w with page := none, granted := false } }
  | _ => o

/-- A group stopped by the debug node at its next instruction boundary; a group that waits for pages is rolled back to
the instruction that faulted (R263, R264). -/
def Group.debugStop (g : Group) : Group :=
  if g.halt = .cancelled || g.halt = .saving then g
  else
    { g with
      halt := .debug
      outst := g.outst.map Outst.repage
      wait := match g.wait with
        | .page _ => .none
        | .pageIndex _ _ _ => .none
        | w => w }

/-- A crew whose every group is stopped by the debug node. -/
def Crew.debugStop (k : Crew) : Crew := { k with groups := k.groups.map fun o => o.map Group.debugStop }

/-- The page request groups of a group are bound to it no more (R258, R264). -/
def State.losePages (s : State) (part : Nat) (gid : Gid) (fate : PageFate) : State :=
  let p := s.part part
  s.setPart part { p with pages := p.pages.map fun g =>
    if g.owner = gid && g.job.isNone && g.fate = .live then { g with fate := fate } else g }

/-- The page request groups of a crew are bound to it no more (R264). -/
def State.loseCrewPages (s : State) (core slot : Nat) (k : Crew) : State :=
  k.members.foldl (fun s x => s.losePages k.part ⟨core, slot, x.1⟩ .saved) s

/-- The page requests of every crew of a core but one are rolled back (R264, R266). -/
def State.loseCorePages (s : State) (core : Nat) (but : Option Nat) : State :=
  (List.range 16).foldl (fun s i =>
    match (if but = some i then none else s.crew? core i) with
    | some k => s.loseCrewPages core i k
    | none => s) s

/-- A core is fenced: every crew but one halts as by a stop of the debug node, and its waits for pages are rolled back
(R264, R266). -/
def State.fence (s0 : State) (core : Nat) (but : Option Nat) : State :=
  let s := s0.loseCorePages core but
  let c := s.core core
  s.setCore core { c with
    fenced := true
    crews := (List.range 16).map fun i =>
      if but = some i then getAt none c.crews i else (getAt none c.crews i).map Crew.debugStop }

/-- A machine check of a group for the instruction at an offset (R266): the trap, the fence, the events. -/
def machineCheck (s : State) (g : Gid) (pc : Word) (lane line : Nat) : State :=
  match s.crew? g.core g.slot with
  | none => s
  | some k =>
    let e : Event := { kind := 8, core := g.core, slot := g.slot, grp := g.grp, cause := 0x50, ctx := k.ctx.toNat
                       tpc := pc.toNat, tval := lane, info := 128 * line }
    let s1 := takeTrapAt s g 0x50 pc (BitVec.ofNat 32 lane)
    ((s1.fence g.core (some g.slot)).postEvent k.part e).packageEvent e

end Sys2Proof.Machine
end

