-- ==== Sys2Proof/Machine/Float.lean ====
section
/-! DEFINITION. Number formats and exact arithmetic: float formats (R105, R106), rounding (R110, R111), conversions (R112), special results (R113), requantisation (R114), exact sums (R115, R116). Every finite float is a sign and m·2^e, so every sum and product is exact. -/

namespace Sys2Proof.Machine

/-- The float formats of R105, and the binary64 of the chain register (R117). -/
inductive Fmt where
  | f32 | f16 | bf16 | f8a | f8b | f4 | b64
  deriving DecidableEq, Repr

/-- Exponent field width (R105). -/
def Fmt.expBits : Fmt → Nat
  | .f32 => 8 | .f16 => 5 | .bf16 => 8 | .f8a => 4 | .f8b => 5 | .f4 => 2 | .b64 => 11

/-- Fraction field width (R105). -/
def Fmt.fracBits : Fmt → Nat
  | .f32 => 23 | .f16 => 10 | .bf16 => 7 | .f8a => 3 | .f8b => 2 | .f4 => 1 | .b64 => 52

/-- Exponent bias (R105). -/
def Fmt.bias : Fmt → Nat
  | .f32 => 127 | .f16 => 15 | .bf16 => 127 | .f8a => 7 | .f8b => 15 | .f4 => 1 | .b64 => 1023

/-- Total width. -/
def Fmt.width (f : Fmt) : Nat := 1 + f.expBits + f.fracBits

/-- Whether the format has infinities (R105). -/
def Fmt.hasInf : Fmt → Bool
  | .f8a | .f4 => false
  | _ => true

/-- p(F) of R110. -/
def Fmt.prec (f : Fmt) : Nat := f.fracBits + 1

/-- emin(F) of R110. -/
def Fmt.emin (f : Fmt) : Int := 1 - (f.bias : Int)

/-- The exponent of the largest finite value (R105). -/
def Fmt.emax (f : Fmt) : Int :=
  if f.hasInf then (f.bias : Int) else (2 ^ f.expBits : Nat) - 1 - (f.bias : Int)

/-- The significand of the largest finite value, as an integer of p bits (R105). -/
def Fmt.maxMant (f : Fmt) : Nat := if f = .f8a then 14 else 2 ^ f.prec - 1

/-- The bits of the largest finite value, without its sign (R105). -/
def Fmt.largest (f : Fmt) : Nat :=
  ((f.emax + f.bias).toNat) * 2 ^ f.fracBits + (f.maxMant - 2 ^ f.fracBits)

/-- The bits of +infinity; a format without infinities never uses them. -/
def Fmt.infinity (f : Fmt) : Nat := (2 ^ f.expBits - 1) * 2 ^ f.fracBits

/-- The canonical NaN (R106); F4 has none and takes +0 (R112). -/
def Fmt.qnan : Fmt → Nat
  | .f32 => 0x7FC00000 | .f16 => 0x7E00 | .bf16 => 0x7FC0 | .f8a => 0x7F | .f8b => 0x7E | .f4 => 0
  | .b64 => 0x7FF8000000000000

/-- ftz_applies of R111, apart from MW.FTZ. -/
def Fmt.flushes : Fmt → Bool
  | .f32 | .f16 | .bf16 => true
  | _ => false

/-- The format of a float type code (R90). -/
def etFmt : ETypeCode → Option Fmt
  | 2 => some .f32 | 5 => some .f16 | 6 => some .bf16 | 9 => some .f8a | 10 => some .f8b | 13 => some .f4
  | _ => none

/-- What a float's bits stand for: a NaN (signalling or quiet), an infinity, or the exact value (-1)^neg·m·2^e. -/
inductive FVal where
  | nan (signalling : Bool)
  | inf (neg : Bool)
  | fin (neg : Bool) (m : Nat) (e : Int)
  deriving DecidableEq, Repr

/-- The value of a format's bits (R105, R106). -/
def decodeFloat (f : Fmt) (bits : Nat) : FVal :=
  let neg := bits.testBit (f.width - 1)
  let ex := bitsOf bits (f.width - 2) f.fracBits
  let fr := bits % 2 ^ f.fracBits
  let top := 2 ^ f.expBits - 1
  if ex = top && f.hasInf then
    if fr = 0 then .inf neg else .nan (!fr.testBit (f.fracBits - 1))
  else if f = .f8a && ex = top && fr = 7 then .nan false
  else if ex = 0 then .fin neg fr (f.emin - f.fracBits)
  else .fin neg (fr + 2 ^ f.fracBits) ((ex : Int) - f.bias - f.fracBits)

/-- The value of an input after R111: a subnormal of a flushing format is a zero of its sign under MW.FTZ. -/
def readFloat (f : Fmt) (ftz : Bool) (bits : Nat) : FVal :=
  match decodeFloat f bits with
  | .fin neg m e => if ftz && f.flushes && m < 2 ^ f.fracBits then .fin neg 0 e else .fin neg m e
  | v => v

/-- The bits of an input after R111. -/
def flushBits (f : Fmt) (ftz : Bool) (bits : Nat) : Nat :=
  match decodeFloat f bits with
  | .fin neg m _ =>
    if ftz && f.flushes && m < 2 ^ f.fracBits then (if neg then 2 ^ (f.width - 1) else 0) else bits
  | _ => bits

/-- The sign bit of a format. -/
def signBits (f : Fmt) (neg : Bool) : Nat := if neg then 2 ^ (f.width - 1) else 0

/-- A result: its bits and the flags it raises. -/
abbrev FRes := Nat × FlagBits

/-- Rounding codes of R91: 0 nearest-even, 1 toward zero, 2 up, 3 down, 4 to odd. -/
abbrev RndMode := Nat

/-- Whether the magnitude, in units of a quantum with remainder rem of 2^sh, rounds up, by R110. -/
def roundsUp (mode : RndMode) (neg : Bool) (lo rem sh : Nat) : Bool :=
  if rem = 0 then false
  else match mode with
    | 0 => let half := if sh = 0 then 0 else 2 ^ (sh - 1)
           if rem = half then lo % 2 = 1 else half < rem
    | 1 => false
    | 2 => !neg
    | 3 => neg
    | _ => lo % 2 = 0

/-- m shifted right by sh places: the quotient and the remainder, without forming 2^sh when it exceeds m;
a remainder is then shown by a value below half of a small quantum. -/
def splitShift (m sh : Nat) : Nat × Nat × Nat :=
  if m.log2 + 2 < sh then (0, if m = 0 then 0 else 1, 2)
  else (m / 2 ^ sh, m % 2 ^ sh, sh)

/-- `round` of R110 for an exact nonzero magnitude m·2^e; `mode` is a rounding code and `ftz` is MW.FTZ. -/
def roundFin (f : Fmt) (mode : RndMode) (ftz neg : Bool) (m : Nat) (e : Int) : FRes :=
  let lx : Int := (m.log2 : Int) + e
  let qe : Int := max lx f.emin - f.prec + 1
  let sh : Int := qe - e
  let (y, inexact) : Nat × Bool :=
    if sh ≤ 0 then (m * 2 ^ (-sh).toNat, false)
    else
      let (lo, rem, s') := splitShift m sh.toNat
      (lo + (if roundsUp mode neg lo rem s' then 1 else 0), rem ≠ 0)
  let fl0 := flagIf inexact flagNX ||| flagIf (inexact && lx < f.emin) flagUF
  let ly : Int := (y.log2 : Int) + qe
  let ovf : Bool := y ≠ 0 && (f.emax < ly || (ly = f.emax && f.maxMant * 2 ^ (y.log2 + 1 - f.prec) < y))
  if ovf then
    let fl := fl0 ||| flagOF ||| flagNX
    if !f.hasInf || mode = 1 || mode = 4 || (mode = 2 && neg) || (mode = 3 && !neg) then
      (signBits f neg + f.largest, fl)
    else (signBits f neg + f.infinity, fl)
  else if ftz && f.flushes && y ≠ 0 && y < 2 ^ f.fracBits then
    (signBits f neg, fl0 ||| flagUF ||| flagNX)
  else
    (signBits f neg + ((qe - (f.emin - f.prec + 1)).toNat * 2 ^ f.fracBits + y), fl0)

/-- An exact value rounded into a format; an exact zero keeps the sign given with it. -/
def roundVal (f : Fmt) (mode : RndMode) (ftz neg : Bool) (m : Nat) (e : Int) : FRes :=
  if m = 0 then (signBits f neg, 0) else roundFin f mode ftz neg m e

/-- The canonical NaN, with IV when it is raised by a signalling NaN or by the operation (R113). -/
def nanRes (f : Fmt) (iv : Bool) : FRes := (f.qnan, flagIf iv flagIV)

/-- An infinity of a sign. -/
def infRes (f : Fmt) (neg : Bool) : FRes := (signBits f neg + f.infinity, 0)

/-- Whether a value is a signalling NaN. -/
def FVal.snan : FVal → Bool
  | .nan s => s
  | _ => false

/-- Whether a value is a NaN. -/
def FVal.isNan : FVal → Bool
  | .nan _ => true
  | _ => false

/-- The sign of a value (of no meaning for a NaN). -/
def FVal.neg : FVal → Bool
  | .nan _ => false
  | .inf n => n
  | .fin n _ _ => n

/-- The value with its sign inverted. -/
def FVal.negate : FVal → FVal
  | .nan s => .nan s
  | .inf n => .inf !n
  | .fin n m e => .fin (!n) m e

/-- The exact product; `none` where it is 0 × infinity (R113). -/
def FVal.mul : FVal → FVal → Option FVal
  | .nan s, .nan t => some (.nan (s || t))
  | .nan s, _ => some (.nan s)
  | _, .nan s => some (.nan s)
  | .inf a, .inf b => some (.inf (a != b))
  | .inf a, .fin b m _ => if m = 0 then none else some (.inf (a != b))
  | .fin a m _, .inf b => if m = 0 then none else some (.inf (a != b))
  | .fin a m e, .fin b n g => some (.fin (a != b) (m * n) (e + g))

/-- The least exponent among finite terms, or 0. -/
def minExp : List FVal → Option Int
  | [] => none
  | .fin _ m e :: vs =>
    if m = 0 then minExp vs
    else match minExp vs with
      | none => some e
      | some g => some (min e g)
  | _ :: vs => minExp vs

/-- A finite term as an integer multiple of 2^g. -/
def scaledTo (g : Int) : FVal → Int
  | .fin neg m e => let x : Int := m * 2 ^ (e - g).toNat; if neg then -x else x
  | _ => 0

/-- The exact sum of terms, rounded once (R113, R115). A NaN among the terms, or infinities of both signs, give the
canonical NaN; an exact zero sum keeps the common sign of zero terms, and is otherwise +0, or -0 under RDN. `bad` says
that a term was 0 × infinity. -/
def sumRound (f : Fmt) (mode : RndMode) (ftz bad : Bool) (ts : List FVal) : FRes :=
  let sn := ts.any FVal.snan
  let posInf := ts.any fun t => t == .inf false
  let negInf := ts.any fun t => t == .inf true
  if ts.any FVal.isNan then nanRes f (sn || bad || (posInf && negInf))
  else if bad || (posInf && negInf) then nanRes f true
  else if posInf then infRes f false
  else if negInf then infRes f true
  else
    let g := (minExp ts).getD 0
    let x := ts.foldl (fun a t => a + scaledTo g t) 0
    if x = 0 then
      let allZero := ts.all fun t => match t with | .fin _ m _ => m = 0 | _ => false
      let allNeg := ts.all FVal.neg
      let allPos := ts.all fun t => !t.neg
      (signBits f (if allZero && allNeg then true else if allZero && allPos then false else mode = 3), 0)
    else roundFin f mode ftz (x < 0) x.natAbs g

/-- The terms of a sum of products, and whether one of them is 0 × infinity. -/
def productTerms (ps : List (FVal × FVal)) : List FVal × Bool :=
  ps.foldr (fun p acc => match FVal.mul p.1 p.2 with
    | some v => (v :: acc.1, acc.2)
    | none => (acc.1, true)) ([], false)

/-- An addition (R155). -/
def fAdd (f : Fmt) (mode : RndMode) (ftz : Bool) (a b : FVal) : FRes := sumRound f mode ftz false [a, b]

/-- A product rounded once (R155); the sign of a zero product is the exclusive-or of the signs (R113). -/
def fMul (f : Fmt) (mode : RndMode) (ftz : Bool) (a b : FVal) : FRes :=
  match FVal.mul a b with
  | none => nanRes f true
  | some (.nan s) => nanRes f s
  | some (.inf n) => infRes f n
  | some (.fin n m e) => roundVal f mode ftz n m e

/-- A fused multiply-add, one rounding (R155). -/
def fFma (f : Fmt) (mode : RndMode) (ftz : Bool) (a b c : FVal) : FRes :=
  let (ts, bad) := productTerms [(a, b)]
  sumRound f mode ftz bad (ts ++ [c])

/-- An exact positive quotient or root known to many bits: `sticky` says that a nonzero tail follows below m. -/
def roundSticky (f : Fmt) (mode : RndMode) (ftz neg : Bool) (m : Nat) (e : Int) (sticky : Bool) : FRes :=
  roundVal f mode ftz neg (2 * m + (if sticky then 1 else 0)) (e - 1)

/-- A quotient rounded once (R113, R155). An exact zero quotient has the exclusive-or of the operands' signs, as a product
has; R113 lists only products and sums (DESIGN CHOICE log 60). -/
def fDiv (f : Fmt) (mode : RndMode) (ftz : Bool) (a b : FVal) : FRes :=
  match a, b with
  | .nan s, .nan t => nanRes f (s || t)
  | .nan s, _ => nanRes f s
  | _, .nan s => nanRes f s
  | .inf _, .inf _ => nanRes f true
  | .inf x, .fin y _ _ => infRes f (x != y)
  | .fin x _ _, .inf y => (signBits f (x != y), 0)
  | .fin x m e, .fin y n g =>
    if n = 0 then
      if m = 0 then nanRes f true else ((infRes f (x != y)).1, flagDZ)
    else if m = 0 then (signBits f (x != y), 0)
    else
      let k := f.prec + 4 + n.log2
      let q := m * 2 ^ k / n
      roundSticky f mode ftz (x != y) q (e - g - k) (m * 2 ^ k % n ≠ 0)

/-- Bits n - 1 to 0 of the integer square root of x below the part r that is known. -/
def rootBits (x : Nat) : Nat → Nat → Nat
  | 0, r => r
  | n + 1, r => rootBits x n (if (r + 2 ^ n) * (r + 2 ^ n) ≤ x then r + 2 ^ n else r)

/-- The integer square root. -/
def natRoot (x : Nat) : Nat := rootBits x (x.log2 / 2 + 1) 0

/-- A square root rounded once (R113, R155). -/
def fSqrt (f : Fmt) (mode : RndMode) (ftz : Bool) : FVal → FRes
  | .nan s => nanRes f s
  | .inf true => nanRes f true
  | .inf false => infRes f false
  | .fin neg m e =>
    if m = 0 then (signBits f neg, 0)
    else if neg then nanRes f true
    else
      let k : Nat := 2 * (f.prec + 4) + (if e % 2 = 0 then 0 else 1)
      let x := m * 2 ^ k
      let r := natRoot x
      roundSticky f mode ftz false r ((e - k) / 2) (r * r ≠ x)

/-- The exact order of two values that are not NaNs: a is less than b. -/
def FVal.lt (a b : FVal) : Bool :=
  match a, b with
  | .inf true, .inf true => false
  | .inf true, _ => true
  | _, .inf true => false
  | .inf false, _ => false
  | _, .inf false => true
  | .fin x m e, .fin y n g =>
    let k := min e g
    scaledTo k (.fin x m e) < scaledTo k (.fin y n g)
  | _, _ => false

/-- The exact equality of two values that are not NaNs; -0 equals +0 (R157). -/
def FVal.eqv (a b : FVal) : Bool := !a.isNan && !b.isNan && !FVal.lt a b && !FVal.lt b a

/-- `fmin` of R155 (`less` true) and `fmax` (`less` false), on inputs after R111; the bits of an input are returned. -/
def fMinMax (f : Fmt) (ftz less : Bool) (x y : Nat) : FRes :=
  let xb := flushBits f ftz x
  let yb := flushBits f ftz y
  let a := decodeFloat f xb
  let b := decodeFloat f yb
  let fl := flagIf (a.snan || b.snan) flagIV
  if a.isNan && b.isNan then (f.qnan, fl)
  else if a.isNan then (yb, fl)
  else if b.isNan then (xb, fl)
  else if FVal.eqv a b then (if a.neg != b.neg then signBits f less else xb, fl)
  else if FVal.lt a b == less then (xb, fl)
  else (yb, fl)

/-- An exact value rounded to an integer by the steps of R110 with q = 1: the integer and whether it differs. -/
def roundInt (mode : RndMode) (neg : Bool) (m : Nat) (e : Int) : Int × Bool :=
  if 0 ≤ e then
    let x : Int := m * 2 ^ e.toNat
    (if neg then -x else x, false)
  else
    let (lo, rem, s') := splitShift m (-e).toNat
    let y := lo + (if roundsUp mode neg lo rem s' then 1 else 0)
    (if neg then -(y : Int) else (y : Int), rem ≠ 0)

/-- FRND: a value rounded to an integer in its own format; a result of 0 keeps the sign of the value. -/
def fRnd (f : Fmt) (mode : RndMode) (ftz : Bool) (bits : Nat) : FRes :=
  match readFloat f ftz bits with
  | .nan s => nanRes f s
  | .inf n => infRes f n
  | .fin neg m e =>
    if m = 0 then (signBits f neg, 0)
    else if 0 ≤ e then (bits, 0)
    else
      let (y, inexact) := roundInt mode neg m e
      let r := roundVal f 0 false neg y.natAbs 0
      (r.1, flagIf inexact flagNX)

/-- FCLASS of an F32: one bit of ten (R158). -/
def fClass (bits : Nat) : Nat :=
  let ex := bitsOf bits 30 23
  match decodeFloat .f32 bits with
  | .nan s => if s then 256 else 512
  | .inf neg => if neg then 1 else 128
  | .fin neg m _ =>
    if m = 0 then (if neg then 8 else 16)
    else if ex = 0 then (if neg then 4 else 32)
    else (if neg then 2 else 64)

/-- The integer range of a type code (R107). -/
def etRange (t : ETypeCode) : Int × Int :=
  let w := etWidth t
  if etSigned t then (-(2 ^ (w - 1) : Nat), (2 ^ (w - 1) : Nat) - 1) else (0, (2 ^ w : Nat) - 1)

/-- An integer element's value from its bits (R107, R108). -/
def etInt? (t : ETypeCode) (bits : Nat) : Int :=
  if etSigned t then signedOf (etWidth t) bits else ((bits % 2 ^ etWidth t : Nat) : Int)

/-- `fit` of R143. -/
def fit (sat : Bool) (t : ETypeCode) (x : Int) : Nat :=
  if sat then wrapTo (etWidth t) (clampTo (etRange t).1 (etRange t).2 x) else wrapTo (etWidth t) x

/-- Whether every value of the source format is a value of the target format (R112). -/
def exactWidening (s d : Fmt) : Bool :=
  match s, d with
  | .f16, .f32 | .bf16, .f32 | .f8a, .f32 | .f8b, .f32 | .f4, .f32 => true
  | .f8a, .f16 | .f8b, .f16 | .f4, .f16 => true
  | .f4, .bf16 | .f4, .f8a | .f4, .f8b | .f4, .f4 => true
  | _, _ => false

/-- A float result into a target format from a value that may be a NaN or an infinity (R112). -/
def convFloat (d : Fmt) (mode : RndMode) (ftz : Bool) : FVal → FRes
  | .nan s => if d = .f4 then (0, flagIV) else nanRes d s
  | .inf n => if d.hasInf then infRes d n else (signBits d n + d.largest, flagIV)
  | .fin neg m e => roundVal d mode ftz neg m e

/-- A float to an integer type (R112). -/
def convToInt (d : ETypeCode) (mode : RndMode) : FVal → FRes
  | .nan _ => (0, flagIV)
  | .inf n => (wrapTo (etWidth d) (if n then (etRange d).1 else (etRange d).2), flagIV)
  | .fin neg m e =>
    if m = 0 then (0, 0)
    else if 128 ≤ (m.log2 : Int) + e then
      (wrapTo (etWidth d) (if neg then (etRange d).1 else (etRange d).2), flagIV)
    else
      let (y, inexact) := roundInt mode neg m e
      if y < (etRange d).1 then (wrapTo (etWidth d) (etRange d).1, flagIV)
      else if (etRange d).2 < y then (wrapTo (etWidth d) (etRange d).2, flagIV)
      else (wrapTo (etWidth d) y, flagIf inexact flagNX)

/-- `convert` of R164 by the rules of R112. The exact conversions of R112 are taken before MW.FTZ: an F8B subnormal converted to F16
keeps its value and raises no flag, also where the F16 result is subnormal (R110 and R111 against R112: DEDUCED, log 63). -/
def convert (s d : ETypeCode) (mode : RndMode) (sat ftz : Bool) (bits : Nat) : FRes :=
  match etFmt s, etFmt d with
  | some sf, some df =>
    if exactWidening sf df then convFloat df 0 false (readFloat sf ftz bits)
    else convFloat df mode ftz (readFloat sf ftz bits)
  | some sf, none => convToInt d mode (readFloat sf ftz bits)
  | none, some df =>
    let x := etInt? s bits
    roundVal df mode ftz (x < 0) x.natAbs 0
  | none, none => (fit sat d (etInt? s bits), 0)

/-- One element of RQNT (R114): scaled by 2^d and rounded once. -/
def requant (t : ETypeCode) (mode : RndMode) (ftz : Bool) (d : Int) (bits : Nat) : FRes :=
  match etFmt t with
  | some f =>
    match readFloat f ftz bits with
    | .nan s => convFloat f mode ftz (.nan s)
    | .inf n => convFloat f mode ftz (.inf n)
    | .fin neg m e => roundVal f mode ftz neg m (e + d)
  | none =>
    let x := etInt? t bits
    if x = 0 then (0, 0)
    else if 64 < d then
      (wrapTo (etWidth t) (if x < 0 then (etRange t).1 else (etRange t).2), 0)
    else
      let (y, inexact) := roundInt mode (x < 0) x.natAbs d
      (wrapTo (etWidth t) (clampTo (etRange t).1 (etRange t).2 y), flagIf inexact flagNX)

end Sys2Proof.Machine
end

