-- ==== Sys2Proof/Machine/Scalar.lean ====
section
/-! DEFINITION. Scalar instructions: opcodes 0x20 to 0x34 (R139 to R141). -/

namespace Sys2Proof.Machine

open Sys2Proof

/-- A scalar read as signed, or as unsigned with fn[0] (R140). -/
def scalarInt (uns : Bool) (w : Word) : Int := if uns then (w.toNat : Int) else sWord w

/-- A result clamped under MW.SAT to the range of I32, or of N32 with fn[0], else modulo 2^32 (R109, R140). -/
def scalarFit (mw : Word) (uns : Bool) (r : Int) : Word := BitVec.ofNat 32 (fit (mwSat mw) (if uns then 1 else 0) r)

/-- A scalar instruction of two operands with one result (R139): reads before the write. -/
def scalarOp (q : Desc) (d a b : Nat) (f : Word → Word → Word → Word) (s : State) : Out :=
  uniform { q with reads := [codeS a, codeS b], writes := [codeS d] } s
    fun g => g.result q.min (codeS d) (.scal (f g.regs.mw (g.regs.readS a) (g.regs.readS b)))

/-- A scalar instruction of one operand with one result. -/
def scalarOp1 (q : Desc) (d a : Nat) (f : Word → Word → Word) (s : State) : Out :=
  uniform { q with reads := [codeS a], writes := [codeS d] } s
    fun g => g.result q.min (codeS d) (.scal (f g.regs.mw (g.regs.readS a)))

/-- SADD, SSUB, SMUL: the exact result, then SAT or wrap (R140). -/
def scalarArith (uns : Bool) (f : Int → Int → Int) (mw a b : Word) : Word :=
  scalarFit mw uns (f (scalarInt uns a) (scalarInt uns b))

/-- SSHL (R140). -/
def scalarShl (a b : Word) : Word := if 32 ≤ b.toNat then 0 else BitVec.ofNat 32 (a.toNat * 2 ^ b.toNat)

/-- SSHR (R140). -/
def scalarShr (a b : Word) : Word := if 32 ≤ b.toNat then 0 else BitVec.ofNat 32 (a.toNat / 2 ^ b.toNat)

/-- SSRA (R140). -/
def scalarSra (a b : Word) : Word := BitVec.ofInt 32 (sWord a / (2 ^ min b.toNat 31 : Nat))

/-- The conditions of SCMP (R139). -/
def scalarCmp (f : Nat) (a b : Word) : Bool :=
  match f with
  | 0 => a = b
  | 1 => a ≠ b
  | 2 => sWord a < sWord b
  | 3 => sWord a ≤ sWord b
  | 4 => a.toNat < b.toNat
  | _ => a.toNat ≤ b.toNat

/-- The number of 1 bits among the low w bits. -/
def popCount (w x : Nat) : Nat := ((List.range w).filter fun i => x.testBit i).length

/-- Leading zeros of a w-bit value; w for 0. -/
def leadZeros (w x : Nat) : Nat := ((List.range w).find? fun i => x.testBit (w - 1 - i)).getD w

/-- Trailing zeros of a w-bit value; w for 0. -/
def trailZeros (w x : Nat) : Nat := ((List.range w).find? fun i => x.testBit i).getD w

/-- Bit i to bit w - 1 - i. -/
def bitRev (w x : Nat) : Nat := (List.range w).foldl (fun a i => if x.testBit i then a + 2 ^ (w - 1 - i) else a) 0

/-- SBITS and VBITS by their function code (R141, R146). -/
def bitCount (f w x : Nat) : Nat :=
  match f with
  | 0 => popCount w x
  | 1 => leadZeros w x
  | 2 => trailZeros w x
  | _ => bitRev w x

/-- SDIV's quotient or remainder, with the flag it sets (R141). -/
def scalarDiv (f : Nat) (sat : Bool) (a b : Word) : Word × FlagBits :=
  if b = 0 then (if f < 2 then 0xFFFFFFFF else a, flagDZ)
  else match f with
    | 0 => if a = 0x80000000 && b = 0xFFFFFFFF then (if sat then 0x7FFFFFFF else 0x80000000, 0)
           else (BitVec.ofInt 32 (Int.tdiv (sWord a) (sWord b)), 0)
    | 1 => (BitVec.ofNat 32 (a.toNat / b.toNat), 0)
    | 2 => (BitVec.ofInt 32 (Int.tmod (sWord a) (sWord b)), 0)
    | _ => (BitVec.ofNat 32 (a.toNat % b.toNat), 0)

/-- A variable-latency result that is known at issue joins the group's outstanding results (R85). -/
def Group.outValue (g : Group) (id : Nat) (ws : List (Nat × RegVal)) (pc : Word) : Group :=
  { g with outst := g.outst ++ [⟨id, ws.map Prod.fst, .value ws, [], pc⟩] }

/-- SADD (R140). -/
def execSadd (st : BitVec 3) (d : BitVec 6) (a : BitVec 6) (b : BitVec 6) (f : BitVec 3) (s : State) : Out :=
  scalarOp { word := encode (.sadd st d a b f), op := 0x20, st := st.toNat } d.toNat a.toNat b.toNat
    (scalarArith (f = 1) (fun x y => x + y)) s

/-- SSUB (R140). -/
def execSsub (st : BitVec 3) (d : BitVec 6) (a : BitVec 6) (b : BitVec 6) (f : BitVec 3) (s : State) : Out :=
  scalarOp { word := encode (.ssub st d a b f), op := 0x21, st := st.toNat } d.toNat a.toNat b.toNat
    (scalarArith (f = 1) (fun x y => x - y)) s

/-- SMUL (R140). -/
def execSmul (st : BitVec 3) (d : BitVec 6) (a : BitVec 6) (b : BitVec 6) (f : BitVec 3) (s : State) : Out :=
  scalarOp { word := encode (.smul st d a b f), op := 0x22, st := st.toNat, min := 1 } d.toNat a.toNat b.toNat
    (scalarArith (f = 1) (fun x y => x * y)) s

/-- SMULH ignores MW.SAT (R140). -/
def execSmulh (st : BitVec 3) (d : BitVec 6) (a : BitVec 6) (b : BitVec 6) (f : BitVec 3) (s : State) : Out :=
  scalarOp { word := encode (.smulh st d a b f), op := 0x23, st := st.toNat, min := 1 } d.toNat a.toNat b.toNat
    (fun _ x y => BitVec.ofInt 32 (scalarInt (f = 1) x * scalarInt (f = 1) y / (2 ^ 32 : Nat))) s

/-- SAND (R140). -/
def execSand (st : BitVec 3) (d : BitVec 6) (a : BitVec 6) (b : BitVec 6) (s : State) : Out :=
  scalarOp { word := encode (.sand st d a b), op := 0x24, st := st.toNat } d.toNat a.toNat b.toNat (fun _ x y => x &&& y) s

/-- SOR (R140). -/
def execSor (st : BitVec 3) (d : BitVec 6) (a : BitVec 6) (b : BitVec 6) (s : State) : Out :=
  scalarOp { word := encode (.sor st d a b), op := 0x25, st := st.toNat } d.toNat a.toNat b.toNat (fun _ x y => x ||| y) s

/-- SXOR (R140). -/
def execSxor (st : BitVec 3) (d : BitVec 6) (a : BitVec 6) (b : BitVec 6) (s : State) : Out :=
  scalarOp { word := encode (.sxor st d a b), op := 0x26, st := st.toNat } d.toNat a.toNat b.toNat (fun _ x y => x ^^^ y) s

/-- SSHL (R140). -/
def execSshl (st : BitVec 3) (d : BitVec 6) (a : BitVec 6) (b : BitVec 6) (s : State) : Out :=
  scalarOp { word := encode (.sshl st d a b), op := 0x27, st := st.toNat } d.toNat a.toNat b.toNat (fun _ => scalarShl) s

/-- SSHR (R140). -/
def execSshr (st : BitVec 3) (d : BitVec 6) (a : BitVec 6) (b : BitVec 6) (s : State) : Out :=
  scalarOp { word := encode (.sshr st d a b), op := 0x28, st := st.toNat } d.toNat a.toNat b.toNat (fun _ => scalarShr) s

/-- SSRA (R140). -/
def execSsra (st : BitVec 3) (d : BitVec 6) (a : BitVec 6) (b : BitVec 6) (s : State) : Out :=
  scalarOp { word := encode (.ssra st d a b), op := 0x29, st := st.toNat } d.toNat a.toNat b.toNat (fun _ => scalarSra) s

/-- SMIN (R140). -/
def execSmin (st : BitVec 3) (d : BitVec 6) (a : BitVec 6) (b : BitVec 6) (f : BitVec 3) (s : State) : Out :=
  scalarOp { word := encode (.smin st d a b f), op := 0x2A, st := st.toNat } d.toNat a.toNat b.toNat
    (fun _ x y => if scalarInt (f = 1) y < scalarInt (f = 1) x then y else x) s

/-- SMAX (R140). -/
def execSmax (st : BitVec 3) (d : BitVec 6) (a : BitVec 6) (b : BitVec 6) (f : BitVec 3) (s : State) : Out :=
  scalarOp { word := encode (.smax st d a b f), op := 0x2B, st := st.toNat } d.toNat a.toNat b.toNat
    (fun _ x y => if scalarInt (f = 1) x < scalarInt (f = 1) y then y else x) s

/-- SCMP (R140). -/
def execScmp (st : BitVec 3) (d : BitVec 6) (a : BitVec 6) (b : BitVec 6) (f : BitVec 3) (s : State) : Out :=
  scalarOp { word := encode (.scmp st d a b f), op := 0x2C, st := st.toNat } d.toNat a.toNat b.toNat
    (fun _ x y => if scalarCmp f.toNat x y then 1 else 0) s

/-- SSEL selects by s[sd] (R140). -/
def execSsel (st : BitVec 3) (d a b : BitVec 6) (s : State) : Out :=
  uniform { word := encode (.ssel st d a b), op := 0x2D, st := st.toNat
            reads := [codeS d.toNat, codeS a.toNat, codeS b.toNat], writes := [codeS d.toNat] } s
    fun g => g.result 0 (codeS d.toNat)
      (.scal (if g.regs.readS d.toNat ≠ 0 then g.regs.readS a.toNat else g.regs.readS b.toNat))

/-- SADDI: as SADD, signed, with the immediate (R141). -/
def execSaddi (st : BitVec 3) (d a : BitVec 6) (i : BitVec 9) (s : State) : Out :=
  scalarOp1 { word := encode (.saddi st d a i), op := 0x2E, st := st.toNat } d.toNat a.toNat
    (fun mw x => scalarFit mw false (sWord x + signedOf 9 i.toNat)) s

/-- SMOVI (R141). -/
def execSmovi (st : BitVec 3) (d : BitVec 6) (i : BitVec 15) (s : State) : Out :=
  uniform { word := encode (.smovi st d i), op := 0x2F, st := st.toNat, writes := [codeS d.toNat] } s
    fun g => g.result 0 (codeS d.toNat) (.scal (sext 15 i.toNat))

/-- SMOVH shifts in 15 bits (R141). -/
def execSmovh (st : BitVec 3) (d : BitVec 6) (i : BitVec 15) (s : State) : Out :=
  scalarOp1 { word := encode (.smovh st d i), op := 0x30, st := st.toNat } d.toNat d.toNat
    (fun _ x => BitVec.ofNat 32 (x.toNat * 2 ^ 15) ||| i.zeroExtend 32) s

/-- SBITS (R141). -/
def execSbits (st : BitVec 3) (d a : BitVec 6) (f : BitVec 3) (s : State) : Out :=
  scalarOp1 { word := encode (.sbits st d a f), op := 0x31, st := st.toNat } d.toNat a.toNat
    (fun _ x => BitVec.ofNat 32 (bitCount f.toNat 32 x.toNat)) s

/-- SDIV: a result of variable latency; a divisor of 0 sets DZ, or traps before any effect under MW.TEDZ (R141, R120). -/
def execSdiv (st : BitVec 3) (d a b : BitVec 6) (f : BitVec 3) (s : State) : Out :=
  let q : Desc := { word := encode (.sdiv st d a b f), op := 0x32, st := st.toNat
                    reads := [codeS a.toNat, codeS b.toNat], writes := [codeS d.toNat] }
  issue q s fun g _ =>
    let (v, fl) := scalarDiv f.toNat (mwSat g.regs.mw) (g.regs.readS a.toNat) (g.regs.readS b.toNat)
    match enabledCause g.regs.mw fl with
    | some c => .next (takeTrap s c 0)
    | none =>
      let (id, s1) := s.fresh
      .next (finish s1 q ((g.raise fl).outValue id [(codeS d.toNat, .scal v)] g.pc))

/-- S2V: every lane of the activity mask (R122, R141). -/
def execS2v (st : BitVec 3) (v : BitVec 7) (a : BitVec 6) (s : State) : Out :=
  let q : Desc := { word := encode (.s2v st v a), op := 0x33, st := st.toNat, vtop := v.toNat + 1
                    reads := [codeS a.toNat], writes := [v.toNat], min := 1 }
  issue q s fun g _ =>
    .next (finish s q (if g.regs.act = 0 then g else
      g.result 1 v.toNat (vecVal g.regs.act 0 fun _ => g.regs.readS a.toNat)))

/-- V2S: lane n, whatever the masks (R141). -/
def execV2s (st : BitVec 3) (v : BitVec 7) (d : BitVec 6) (n : BitVec 7) (s : State) : Out :=
  uniform { word := encode (.v2s st v d n), op := 0x34, st := st.toNat, vtop := v.toNat + 1
            reads := [v.toNat], writes := [codeS d.toNat], min := 1 } s
    fun g => g.result 1 (codeS d.toNat) (.scal (g.regs.readV v.toNat n.toNat))

end Sys2Proof.Machine
end

