-- ==== Sys2Proof/Machine/Memory.lean ====
section
/-! DEFINITION. Memory as the device's parties see it (R176 to R185): physical bytes with the accumulator windows (R287), leases and homes (R177 to R180), line writes and the store buffer (R181, R182), forwarding (R183, R185), the delivery of results (R85, R266). -/

namespace Sys2Proof.Machine

open Sys2Proof

/-! ### Accumulator memory and its windows (R287) -/

/-- Element k of accumulator memory: tile t, row r, column n at 1024·t + 32·r + n; an unlisted one is +0. -/
def accGet : List (Nat × Word) → Nat → Word
  | [], _ => 0
  | (j, w) :: r, k => if k = j then w else if k < j then 0 else accGet r k

/-- An element written; indices rise strictly and no entry is +0. -/
def accSet : List (Nat × Word) → Nat → Word → List (Nat × Word)
  | [], k, w => if w = 0 then [] else [(k, w)]
  | (j, v) :: r, k, w =>
    if k < j then (if w = 0 then (j, v) :: r else (k, w) :: (j, v) :: r)
    else if k = j then (if w = 0 then r else (k, w) :: r)
    else (j, v) :: accSet r k w

/-- Byte i of a natural number. -/
def byteOf (x i : Nat) : BitVec 8 := BitVec.ofNat 8 (x / 256 ^ i)

/-- A natural number with byte i replaced. -/
def setByte (x i : Nat) (b : BitVec 8) : Nat := x - x / 256 ^ i % 256 * 256 ^ i + b.toNat * 256 ^ i

/-- The core and the offset of an accumulator window byte. -/
def accPlace (a : Nat) : Nat × Nat := ((a - accBase) / 2 ^ 20, (a - accBase) % 2 ^ 20)

/-- A byte of an accumulator window (R287). -/
def accByte (s : State) (a : Nat) : BitVec 8 :=
  let (c, o) := accPlace a
  let x := s.core c
  if o < 0x40000 then byteOf (accGet x.acc (o / 4)).toNat (o % 4)
  else if o < 0x40020 then
    let k := (o - 0x40000) / 8
    byteOf ((x.owner k).toNat + (x.liveMask k).toNat * 2 ^ 32) (o % 8)
  else if 0x40100 ≤ o && o < 0x40180 then
    match s.crew? c ((o - 0x40100) / 8) with
    | some k => byteOf k.held.toNat (o % 8)
    | none => 0
  else 0

/-- A byte written to an accumulator window: elements and live masks take it, other bytes ignore it (R287). -/
def accPut (s : State) (a : Nat) (b : BitVec 8) : State :=
  let (c, o) := accPlace a
  let x := s.core c
  if o < 0x40000 then
    s.setCore c { x with
      acc := accSet x.acc (o / 4) (BitVec.ofNat 32 (setByte (accGet x.acc (o / 4)).toNat (o % 4) b)) }
  else if o < 0x40020 && (o % 8 = 4 || o % 8 = 5) then
    let k := (o - 0x40000) / 8
    s.setCore c (x.setLive k (BitVec.ofNat 16 (setByte (x.liveMask k).toNat (o % 8 - 4) b)))
  else s

/-! ### Physical bytes and lines -/

/-- A byte by its number. -/
def physByte (s : State) (a : Nat) : BitVec 8 := if isAccAddr a then accByte s a else cellGet s.mem a

/-- A byte written by its number. -/
def physPut (s : State) (a : Nat) (b : BitVec 8) : State :=
  if isAccAddr a then accPut s a b else { s with mem := cellSet s.mem a b }

/-- Bytes of a line, by offset, written. -/
def linePut (s : State) (line : Nat) (bs : List (Nat × BitVec 8)) : State :=
  bs.foldl (fun s p => physPut s (128 * line + p.1) p.2) s

/-- The poisoned granules among the scratchpad bytes o to o + n - 1 of a crew: the first one's number. -/
def scratchPoison (s : State) (core : Nat) (granules : List Nat) (o n : Nat) : Option Nat :=
  if n = 0 then none
  else ((List.range ((o + n - 1) / 128 - o / 128 + 1)).map fun i =>
      sramLine core (getAt 0 granules (o / 128 + i))).find? fun l => s.poison.contains l

/-- The first lane whose scratchpad word is poisoned, with the line. -/
def scratchPoisonLane (s : State) (core : Nat) (granules : List Nat) (xs : List (Nat × Nat)) : Option (Nat × Nat) :=
  xs.findSome? fun x => (scratchPoison s core granules x.2 4).map fun l => (x.1, l)

/-- The 128 bytes of a line. -/
def lineBytes (s : State) (line : Nat) : List (BitVec 8) := (List.range 128).map fun i => physByte s (128 * line + i)

/-- The lines that some bytes lie in, each once. -/
def linesOf (as : List Nat) : List Nat := (as.map lineOf).dedup

/-- Whether an accumulator window line belongs to a tile that a matrix job of its core touches (R287). -/
def tileBusy (s : State) (line : Nat) : Bool :=
  isAccAddr (128 * line) &&
    let (c, o) := accPlace (128 * line)
    o < 0x40000 && (s.core c).mats.any fun j => (j.reads ++ j.writes).any fun x => match x with
      | .tiles a b => a ≤ o / 4096 && o / 4096 < b
      | _ => false

/-! ### Leases (R177, R178) -/

/-- The lines that a slice holds at most: 16 MiB (R13). -/
def sliceLines : Nat := 131072

/-- E(line), or its slice's horizon (R178). -/
def State.expiry (s : State) (line : Nat) : Nat :=
  match s.leases.find? fun x => x.1 = line with
  | some x => x.2
  | none => getAt 0 s.horizon (sliceOf (128 * line))

/-- A slice evicts a line: where the line's expiry lies ahead, the slice's horizon rises to it (R178). -/
def State.evict (s : State) (line : Nat) : State :=
  match s.leases.find? fun x => x.1 = line with
  | none => s
  | some x =>
    let k := sliceOf (128 * line)
    { s with
      leases := s.leases.filter fun y => y.1 ≠ line
      horizon := if s.gt < x.2 then setAt 0 s.horizon k (max (getAt 0 s.horizon k) x.2) else s.horizon }

/-- Room for a line in its slice: a full slice evicts the line that it took longest ago (R13, R178; which line goes is
DESIGN CHOICE log 8). -/
def State.sliceRoom (s : State) (line : Nat) : State :=
  let held := s.leases.filter fun x => sliceOf (128 * x.1) = sliceOf (128 * line)
  if held.any (fun x => x.1 = line) || held.length < sliceLines then s
  else match held.getLast? with
    | some x => s.evict x.1
    | none => s

/-- E(line) raised to an expiry; the slice holds the line (R177). The lines that a slice holds are those that it has granted a
lease: a write or a load with lease 0 brings none in, and every other line reads E as H and takes no room (R178 does not say
how a slice comes to hold a line; DESIGN CHOICE log 8). -/
def State.raiseExpiry (s : State) (line x : Nat) : State :=
  let s1 := s.sliceRoom line
  { s1 with leases := (line, max (s1.expiry line) x) :: s1.leases.filter fun y => y.1 ≠ line }

/-- The global write completion time of a write performed now (R180). -/
def State.gwct (s : State) (line : Nat) : Nat :=
  if isHostAddr (128 * line) then s.gt + 4 else max s.gt (s.expiry line) + 4

/-! ### Versions of bytes: the model's account of the coherence order (R180, R184; DESIGN CHOICE log 8) -/

/-- The latest version of a byte in a list. -/
def verIn (vs : List (Nat × Nat)) (a : Nat) : Nat := ((vs.find? fun x => x.1 = a).map Prod.snd).getD 0

/-- A version of a byte joined to a list. -/
def joinVer (vs : List (Nat × Nat)) (a ver : Nat) : List (Nat × Nat) :=
  (a, max (verIn vs a) ver) :: vs.filter fun x => x.1 ≠ a

/-- The latest version of a byte that a store or an atomic of the core's groups has made (R185, R188). -/
def Core.seenVer (c : Core) (a : Nat) : Nat := verIn c.seen a

/-- A store or an atomic of the core's groups has made a version of some bytes. -/
def Core.see (c : Core) (as : List Nat) (ver : Nat) : Core :=
  { c with seen := as.foldl (fun vs a => joinVer vs a ver) c.seen }

/-- The latest version of a byte that a group has read (R184). -/
def Group.seenVer (g : Group) (a : Nat) : Nat := verIn g.seen a

/-- A group has read versions of some bytes: `ver` gives that of each. -/
def Group.saw (g : Group) (as : List Nat) (ver : Nat → Nat) : Group :=
  { g with seen := as.foldl (fun vs a => joinVer vs a (ver a)) g.seen }

/-- The version of a byte among those of its line's 128 bytes. -/
def verAt (vers : List Nat) (a : Nat) : Nat := getAt 0 vers (a % 128)

/-- A copy of a line that may still be used (R177, R179). -/
def liveCopy (gt line : Nat) (ls : List HeldLine) : Option HeldLine := ls.find? fun h => h.line = line && gt + 4 < h.expiry

/-- The gateway caches: one at each of the three die-to-die ports of each stack (R13, R27). -/
def gatewayCount : Nat := 12

/-- The gateway cache of a stack for the lines of another: its ports in the order of the stacks behind them (R22). -/
def gatewayAt (stack home : Nat) : Nat := 3 * stack + (if home < stack then home else home - 1)

/-- The gateway cache between a core and the home of a line on another stack (R22, R353): none on the same stack, for
host memory, for lines without a lease, and where the partition has no way in it. A gateway could never serve a line of
a lease of 4 ticks or less (R179): its requests pass through too (DESIGN CHOICE log 49). -/
def gatewayOf (s : State) (part core line lease : Nat) : Option Nat :=
  let a := 128 * line
  if lease ≤ 4 || isHostAddr a || isAccAddr a then none
  else
    let home := sliceOf a / 48
    if home = stackOf core then none
    else
      let i := gatewayAt (stackOf core) home
      if getAt 0 (getAt Gateway.reset s.gateways i).ways part = 0 then none else some i

/-- The ways of a gateway cache (R353). -/
def gatewayWays : Nat := 16

/-- The lines of one way: a sixteenth of 16 MiB (R13, R353). -/
def wayLines : Nat := 8192

/-- A line put into a gateway cache, in a way of its partition: the lowest of them with room, else the lowest, which
drops the line that it took longest ago (R353; which way and line is DESIGN CHOICE log 8). -/
def Gateway.put (g : Gateway) (h : HeldLine) : Gateway :=
  let ls := g.lines.filter fun x => x.line ≠ h.line
  let mine := (List.range gatewayWays).filter fun w => (getAt 0 g.ways h.part).getLsbD w
  let used (w : Nat) : Nat := (ls.filter fun x => x.way = w).length
  match mine.find? fun w => used w < wayLines with
  | some w => { g with lines := { h with way := w } :: ls }
  | none =>
    match mine.head? with
    | none => { g with lines := ls }
    | some w =>
      match (ls.filter fun x => x.way = w).getLast? with
      | some old => { g with lines := { h with way := w } :: ls.filter fun x => x.line ≠ old.line }
      | none => { g with lines := { h with way := w } :: ls }

/-! ### Line writes (R181, R182, R185) -/

/-- Whether a resident group issued. -/
def Issuer.isGroup (i : Issuer) (g : Gid) : Bool := match i with | .group h => h = g | _ => false

/-- The place of the group that issued, retired or not. -/
def Issuer.gid? : Issuer → Option Gid
  | .group g => some g
  | .past g => some g
  | _ => none

/-- Whether a group of a core issued. -/
def Issuer.onCore (i : Issuer) (core : Nat) : Bool := match i.gid? with | some h => h.core = core | none => false

/-- Bytes laid over a line's data, by offset. -/
def overlayLine (data : List (BitVec 8)) (bs : List (Nat × BitVec 8)) : List (BitVec 8) :=
  (List.range 128).map fun i => (overlay bs i).getD (getAt 0 data i)

/-- The addresses of some bytes of a line, given by offset. -/
def bytesOn (line : Nat) (bs : List (Nat × BitVec 8)) : List Nat := bs.map fun b => 128 * line + b.1

/-- Two lists of addresses share a byte. -/
def bytesMeet (as bs : List Nat) : Bool := as.any bs.contains

/-- The copies of a core's cache under a store that reaches the point of coherence (R185). -/
def Core.storeThrough (c : Core) (line : Nat) (bs : List (Nat × BitVec 8)) : Core :=
  { c with cache := c.cache.map fun h => if h.line = line then { h with data := overlayLine h.data bs } else h }

/-- The line writes of a core's groups to a line that its home has not performed, in the order in which they reached the
core's point of coherence (R185). -/
def coreWrites (s : State) (core line : Nat) : List WriteMsg :=
  s.writes.filter fun w => w.line = line && w.issuer.onCore core && w.phase ≠ .ack

/-- A store of a core that its home has performed: the copies of its bytes in the core's cache have its version (R185). -/
def Core.performed (c : Core) (line : Nat) (bs : List (Nat × BitVec 8)) (ver : Nat) : Core :=
  let vers (h : HeldLine) : List Nat := (List.range 128).map fun i =>
    if bs.any fun b => b.1 = i then ver else getAt 0 h.vers i
  let c1 := c.storeThrough line bs
  Core.see { c1 with cache := c1.cache.map fun h => if h.line = line then { h with vers := vers h } else h }
    (bytesOn line bs) ver

/-- The loads of a group in flight that read one of some bytes. A load that an earlier group of the place has left behind is
none of them. -/
def groupLoads (s : State) (gid : Gid) (as : List Nat) : List LoadMsg :=
  match s.group? gid with
  | some g => s.loads.filter fun m => m.gid = gid && bytesMeet m.bytes as && g.outst.any fun o => o.id = m.out
  | none => []

/-- What is over before a write or atomic of a group on some bytes of a line is performed: the group's loads of them that
were issued before it (R183), and the line writes of its core of which the group has read one of them (R184). -/
def orderAfter (s : State) (g : Gid) (line id : Nat) (as : List Nat) : List Nat :=
  (((groupLoads s g as).filter fun m => m.id < id).map LoadMsg.id)
    ++ ((coreWrites s g.core line).filter fun w => w.seenBy.any fun x => x.1 = g && as.contains x.2).map WriteMsg.id

/-- A line write sent toward its home, to be performed after some messages; one of a group reaches its core's point of
coherence (R185). -/
def sendWrite (s : State) (part : Nat) (issuer : Issuer) (w : BufWrite) (poison : Bool) (after : List Nat) : State :=
  let m : WriteMsg :=
    { id := w.id, issuer := issuer, part := part, after := after, seenBy := [], acqs := 0
      line := w.line, bytes := w.bytes, lease := w.lease, host := w.host
      shared := isHostAddr (128 * w.line), poison := poison, phase := .toHome, gwct := 0, ver := 0 }
  let s1 := { s with writes := s.writes ++ [m] }
  match issuer.gid? with
  | some g => s1.setCore g.core ((s1.core g.core).storeThrough w.line w.bytes)
  | none => s1

/-- The partition of a crew slot. -/
def slotPart (s : State) (g : Gid) : Nat := match s.crew? g.core g.slot with | some k => k.part | none => 0

/-- A line write of a resident group sent toward its home, in the order of the group's own accesses (R183, R184). -/
def sendOwn (s : State) (gid : Gid) (w : BufWrite) : State :=
  sendWrite s (slotPart s gid) (.group gid) w false (orderAfter s gid w.line w.id (bytesOn w.line w.bytes))

/-- The line writes and atomics of a group that are not performed yet (R192). -/
def storesOf (s : State) (gid : Gid) (g : Group) : List Nat :=
  ((s.writes.filter fun w => w.issuer.isGroup gid && w.phase ≠ .ack).map WriteMsg.id)
    ++ ((s.atoms.filter fun a => a.issuer.isGroup gid && a.phase ≠ .ack).map AtomMsg.id) ++ g.buf.map BufWrite.id

/-- Of some line writes and atomics, not all are performed yet: some are on their way, or wait in the store buffer of the
group that issued them, or that of a group that has retired (R192). -/
def storesPending (s : State) (gid : Gid) (after : List Nat) : Bool :=
  (s.writes.any fun w => after.contains w.id && w.phase ≠ .ack) || (s.atoms.any fun a => after.contains a.id && a.phase ≠ .ack)
    || ((match s.group? gid with | some g => g.buf | none => []) ++ s.ghosts.flatMap Ghost.buf).any fun b => after.contains b.id

/-- Later accesses of the group wait for the loads and atomics that an acquire covers (R187). -/
def acquirePending (g : Group) : Bool := g.acq.any fun i => g.outst.any fun o => o.id = i

/-- Whether a group has a line write or a memory atomic in flight on a line (R182). -/
def lineInFlight (s : State) (g : Gid) (line : Nat) : Bool :=
  (s.writes.any fun w => w.issuer.isGroup g && w.line = line)
    || s.atoms.any fun a => a.issuer.isGroup g && a.line = line

/-- The line writes of a store, in the order of their lines, with ids from `id` on; the later byte of the list prevails
(R181). A byte is its address, its value, its line's lease and whether hosts may hold the line. -/
def lineWrites (id : Nat) (bs : List (Nat × BitVec 8 × Nat × Bool)) : List BufWrite :=
  (linesOf (bs.map Prod.fst)).zipIdx.map fun (line, i) =>
    let mine := bs.filter fun b => lineOf b.1 = line
    let first := (mine.head?.map fun b => b.2.2).getD (0, false)
    { id := id + i, line := line, bytes := mine.map (fun b => (b.1 % 128, b.2.1)), lease := first.1, host := first.2 }

/-- The `WAITM`s of a group. -/
def Group.waitms (g : Group) : List (Outst × Waitm) :=
  g.outst.filterMap fun o => match o.kind with | .waitm w => some (o, w) | _ => none

/-- The places of the word that a `WAITM` watches. -/
def waitmPlaces (s : State) (gid : Gid) (part : Nat) (w : Waitm) : List Place :=
  objRange s gid.core part w.obj w.y 4 false

/-- A `WAITM` of the group that was issued before an id and is not over watches one of some bytes: a later access of the
group to them waits for it (R183, R207; DESIGN CHOICE log 64). -/
def watched (s : State) (gid : Gid) (g : Group) (id : Nat) (as : List Nat) : Bool :=
  g.waitms.any fun x => x.1.id < id
    && bytesMeet ((placeBytes (waitmPlaces s gid (slotPart s gid) x.2)).map Prod.fst) as

/-- Line writes of a store that must wait in the buffer: their lines have a write or atomic in flight, or an earlier write
waiting (R182), an earlier `WAITM` of the group watches a byte of theirs, or an acquire of the group still waits for loads
or atomics (R187, R197). -/
def mustWait (s : State) (gid : Gid) (g : Group) (w : BufWrite) : Bool :=
  acquirePending g || lineInFlight s gid w.line || (g.buf.any fun b => b.line = w.line)
    || watched s gid g w.id (bytesOn w.line w.bytes)

/-- A group's line writes issued: sent, or put into the store buffer; each counts in USC (R181, R182). -/
def issueWrites (s : State) (gid : Gid) (g : Group) : List BufWrite → State × Group
  | [] => (s, g)
  | w :: ws =>
    let g1 := { g with usc := g.usc + 1 }
    if mustWait s gid g w then issueWrites s gid { g1 with buf := g1.buf ++ [w] } ws
    else issueWrites (sendOwn s gid w) gid g1 ws

/-- The lines that a store buffer holds at most (R182). -/
def bufferLines : Nat := 32

/-- Whether the store buffer has room for what must wait: a store of several lines is issued whole or held whole, and each
waiting line write takes a line of the buffer, two of one line two (R182 says neither; DESIGN CHOICE log 50). -/
def bufferRoom (s : State) (gid : Gid) (g : Group) (ws : List BufWrite) : Bool :=
  g.buf.length + (ws.filter (mustWait s gid g)).length ≤ bufferLines

/-- The first buffered line write of a line, and the rest of the buffer. -/
def takeLine (line : Nat) : List BufWrite → Option (BufWrite × List BufWrite)
  | [] => none
  | w :: ws =>
    if w.line = line then some (w, ws)
    else match takeLine line ws with
      | none => none
      | some (x, rest) => some (x, w :: rest)

/-- The next buffered line write of a group to a line is sent once nothing of the group is in flight on it (R182). -/
def sendNext (s : State) (gid : Gid) (line : Nat) : State :=
  match s.group? gid with
  | none => s
  | some g =>
    if acquirePending g || lineInFlight s gid line then s
    else match takeLine line g.buf with
      | none => s
      | some (w, rest) =>
        if watched s gid g w.id (bytesOn w.line w.bytes) then s
        else sendOwn (s.setGroup gid (some { g with buf := rest })) gid w

/-- Scratchpad stores that waited for an acquire are performed in their bank (R187, R197). -/
def flushBank (s : State) (gid : Gid) : State :=
  match s.crew? gid.core gid.slot, s.group? gid with
  | some k, some g =>
    (s.setGroup gid (some { g with bankBuf := [] })).setCore gid.core
      (g.bankBuf.foldl (fun c x => scratchWriteWord c k.granules x.1 x.2)
        ((s.setGroup gid (some { g with bankBuf := [] })).core gid.core))
  | _, _ => s

/-- The stores that an acquire has held back go on once nothing that it covers is outstanding (R187). -/
def acquireDone (s : State) (gid : Gid) : State :=
  match s.group? gid with
  | none => s
  | some g =>
    if acquirePending g then s
    else ((g.buf.map BufWrite.line).dedup).foldl (fun s line => sendNext s gid line)
      (if g.bankBuf.isEmpty then s else flushBank s gid)

/-! ### Forwarding (R183, R185) -/

/-- Of a performed line write the bytes that neither the core has written, nor the group read, at a later place in their
coherence order (R184, R185). -/
def WriteMsg.current (c : Core) (g : Group) (w : WriteMsg) : WriteMsg :=
  { w with bytes := w.bytes.filter fun b =>
      c.seenVer (128 * w.line + b.1) ≤ w.ver && g.seenVer (128 * w.line + b.1) ≤ w.ver }

/-- The group's own line write in flight to a line, as far as a load of it still sees it: until the acknowledgement (R183);
once it is performed, not after the group has acquired (R188), and no byte for which a later write is known (R184, R185). -/
def ownWrite (s : State) (gid : Gid) (g : Group) (line : Nat) : Option WriteMsg :=
  (s.writes.find? fun w => w.line = line && w.issuer.isGroup gid && (w.phase ≠ .ack || w.acqs = g.acqs)).map fun w =>
    if w.phase = .ack then w.current (s.core gid.core) g else w

/-- The line writes in flight that a load of a group reads from its core, the later one prevailing (R183 to R185): those of
other groups that are not performed, and the group's own, which prevails unless it is performed or a read has already
placed it before another. -/
def forwardWrites (s : State) (gid : Gid) (g : Group) (line : Nat) : List WriteMsg :=
  let open' := coreWrites s gid.core line
  match ownWrite s gid g line with
  | none => open'
  | some w =>
    let others := open'.filter fun x => x.id ≠ w.id
    if w.phase = .ack then w :: others
    else if others.any fun x => x.after.contains w.id then open'
    else others ++ [w]

/-- The bytes of some line writes, by address. -/
def writeBytes (line : Nat) (ws : List WriteMsg) : List (Nat × BitVec 8) :=
  ws.flatMap fun w => w.bytes.map fun b => (128 * line + b.1, b.2)

/-- The bytes a load of a group sees before its core's cache: those of line writes in flight, and above them those of its
own store buffer, by address. -/
def forwardBytes (s : State) (gid : Gid) (g : Group) (line : Nat) : List (Nat × BitVec 8) :=
  writeBytes line (forwardWrites s gid g line)
    ++ ((g.buf.filter fun w => w.line = line).flatMap fun w => w.bytes.map fun b => (128 * line + b.1, b.2))

/-- The bytes among some addresses that a line write writes. -/
def WriteMsg.covers (w : WriteMsg) (as : List Nat) : List Nat := as.filter (bytesOn w.line w.bytes).contains

/-- Line writes placed in the order of a list, where a load has read some bytes: each after those before it with which it
shares a byte that was read. -/
def chainWrites (as : List Nat) : List WriteMsg → List WriteMsg → List WriteMsg
  | _, [] => []
  | before, w :: ws =>
    { w with after := (before.filter fun x => !(x.covers (w.covers as)).isEmpty).map WriteMsg.id ++ w.after }
      :: chainWrites as (w :: before) ws

/-- A load of a group has read bytes of its core's line writes to a line: the home performs those that share such a byte in
the order in which the load saw them, and after the loads of it that the group issued before (R183 to R185). -/
def observe (s : State) (gid : Gid) (g : Group) (line : Nat) (as : List Nat) : State :=
  let seq : List WriteMsg := (forwardWrites s gid g line).filter fun w => w.phase ≠ .ack
  if seq.all fun w => (w.covers as).isEmpty then s
  else
    let seen := (chainWrites as [] seq).map fun (w : WriteMsg) =>
      if w.issuer.isGroup gid then w
      else { w with after := (groupLoads s gid (w.covers as)).map LoadMsg.id ++ w.after
                    seenBy := (w.covers as).map (fun a => (gid, a)) ++ w.seenBy }
    let s1 := { s with writes := (s.writes.filter fun (w : WriteMsg) => !(seq.any fun (x : WriteMsg) => x.id = w.id)) ++ seen }
    s1.setCore gid.core (seen.foldl (fun c w => c.storeThrough line w.bytes) (s1.core gid.core))

/-- One access of the group would read some bytes at two moments: its own line write that is performed and not acknowledged
gives some of them, and what has come after it the others (R183, R184). -/
def ackSplits (s : State) (gid : Gid) (g : Group) (as : List Nat) : Bool :=
  (linesOf as).any fun line => match ownWrite s gid g line with
    | some w => w.phase = .ack && !(w.covers as).isEmpty && as.any fun a => !((bytesOn line w.bytes).contains a)
    | none => false

/-- The forwarded bytes among some addresses. -/
def forwarded (s : State) (gid : Gid) (g : Group) (as : List Nat) : List (Nat × BitVec 8) :=
  let all := (linesOf as).flatMap (forwardBytes s gid g)
  as.filterMap fun a => (overlay all a).map fun b => (a, b)

/-! ### Results (R85, R86) -/

/-- Whether a memory atomic of the group in flight targets one of some bytes (R200). -/
def atomTargets (s : State) (gid : Gid) (as : List Nat) : Bool :=
  s.atoms.any fun m => m.issuer.isGroup gid && m.ops.any fun o => as.any fun a => o.addr ≤ a && a < o.addr + 4

/-- A result has arrived: a group that waits for one tries its instruction again; a group that drains goes on when
nothing is outstanding (R85, R86). -/
def Group.arrived (g : Group) : Group :=
  match g.wait with
  | .result _ _ => { g with wait := .none }
  | .drain => if g.outst.isEmpty then { g with wait := .none } else g
  | _ => g

/-- An outstanding result removed. -/
def Group.dropOut (g : Group) (id : Nat) : Group :=
  { g with
    outst := g.outst.filter fun o => o.id ≠ id, acq := g.acq.filter fun i => i ≠ id
    acqs := if g.acq.contains id then g.acqs + 1 else g.acqs }

/-- The bytes of a lane of a load: forwarded, or collected; 0 for a byte in neither. -/
def LaneLoad.value (l : LaneLoad) (got : List (Nat × BitVec 8)) : Nat :=
  natLE (l.addrs.map fun a => ((overlay l.fwd a).orElse fun _ => overlay got a).getD 0)

/-- The poisoned line that a lane consumes: that of a byte which nothing forwards (R266). -/
def LaneLoad.poisoned (l : LaneLoad) (poison : List Nat) : Option Nat :=
  (l.addrs.find? fun a => poison.contains (lineOf a) && (overlay l.fwd a).isNone).map lineOf

/-- The number of registers of an access of `size` bytes (R199). -/
def sizeRegs (size : Nat) : Nat := max 1 (size / 4)

/-- The register values of a per-lane load (R200). -/
def loadValues (reg size : Nat) (ls : List LaneLoad) (zero : Mask) (got : List (Nat × BitVec 8)) : List (Nat × RegVal) :=
  let m := maskOf fun l => ls.any fun x => x.lane = l
  let vals := lanes.map fun l => ((ls.find? fun x => x.lane = l).map fun x => x.value got).getD 0
  (List.range (sizeRegs size)).map fun i =>
    (reg + i, .vec (m ||| zero) (vals.map fun v => BitVec.ofNat 32 (v / 2 ^ (32 * i))))

/-- The lane that consumes poison in a load's lanes, and the line. -/
def poisonLane (ls : List LaneLoad) (poison : List Nat) : Option (Nat × Nat) :=
  ls.findSome? fun l => (l.poisoned poison).map fun line => (l.lane, line)

/-- A capability that `CAPLD` may load: its reserved fields are zero and its range lies in the object it names (R208). One of
an accumulator window reaches a group only through the supervisor core's check (R287). Of an entry that is invalid or
malformed its field SIZE alone counts (DESIGN CHOICE log 65: R208 does not say). -/
def capLoadable (s : State) (part : Nat) (c : BitVec 128) : Bool :=
  capClean c && (accWindow? (capObj c)).isNone
    && (capObj c = 0 || capBase c + capLen c ≤ entrySize (objEntry s part (capObj c)))

/-- A result whose bytes are all there reaches its registers, or takes the machine check of R266, or, for a capability
that may not be loaded, trap 0x09 (R208). -/
def deliverResult (s : State) (gid : Gid) (id : Nat) : State :=
  match s.crew? gid.core gid.slot, s.group? gid with
  | some k, some g =>
    match g.outst.find? fun o => o.id = id with
    | none => s
    | some o =>
      let g1 := g.dropOut id
      let put (ws : List (Nat × RegVal)) : State := s.setGroup gid (some (g1.results 0 ws).arrived)
      let check (p : Option (Nat × Nat)) (ws : List (Nat × RegVal)) : State :=
        match p with
        | some (lane, line) => machineCheck (s.setGroup gid (some g1)) gid o.pc lane line
        | none => put ws
      match o.kind with
      | .value ws => put ws
      | .scratch ws => put ws
      | .load reg size ls zero got poison => check (poisonLane ls poison) (loadValues reg size ls zero got)
      | .loadU sd l got poison =>
        check (poisonLane [l] poison) [(codeS sd, .scal (BitVec.ofNat 32 (l.value got)))]
      | .loadC cd l got poison =>
        match poisonLane [l] poison with
        | some (_, line) => machineCheck (s.setGroup gid (some g1)) gid o.pc 0 line
        | none =>
          let c := BitVec.ofNat 128 (l.value got)
          if capLoadable s k.part c then
            s.setGroup gid (some { g1 with regs := { g1.regs with c := setAt 0 g1.regs.c cd c } }.arrived)
          else takeTrapAt (s.setGroup gid (some g1)) gid 0x09 o.pc (BitVec.ofNat 32 l.lane)
      | .atom reg m got poison =>
        match lanes.findSome? fun l => (poison.find? fun x => x.1 = l) with
        | some (lane, line) => machineCheck (s.setGroup gid (some g1)) gid o.pc lane line
        | none => put [(reg, .vec m (lanes.map fun l => ((got.find? fun x => x.1 = l).map Prod.snd).getD 0))]
      | .waitm _ => s
      | .poisoned lane line => machineCheck (s.setGroup gid (some g1)) gid o.pc lane line
  | _, _ => s

/-- A result of a group is over: with the last one, the trap that waited for it is entered (R245); with the last one that an
acquire covers, or that watched their bytes, the stores that waited go on (R183, R187). -/
def resultDone (s : State) (gid : Gid) : State := acquireDone (trapDue s gid) gid

/-- A result delivered. -/
def deliver (s : State) (gid : Gid) (id : Nat) : State := resultDone (deliverResult s gid id) gid

/-! ### The group of a job (R230) -/

/-- The group that a job belongs to, while it is resident. -/
def jobGroup (s : State) (gid : Gid) (id : Nat) : Option Group :=
  match s.group? gid with
  | some g => if g.openJobs.contains id || g.closed.any (fun b => b.jobs.contains id) then some g else none
  | none => none

/-- Bits of CSTAT raised in a job's group (R230). -/
def raiseCstat (s : State) (gid : Gid) (id : Nat) (bits : BitVec 4) : State :=
  match jobGroup s gid id with
  | some g => s.setGroup gid (some { g with cstat := g.cstat ||| bits })
  | none => s

end Sys2Proof.Machine
end

