-- ==== Sys2Proof/Machine/Operands.lean ====
section
/-! DEFINITION. Operand forms of vector instructions: elements of a register (R108, R143), the templates of a lane-by-lane instruction without and with flags (R119 to R121), register pairs and quads (R99). -/

namespace Sys2Proof.Machine

open Sys2Proof

/-- The bits of element i of a register under a type (R108). -/
def elemAt (t : ETypeCode) (w : Word) (i : Nat) : Nat :=
  bitsOf w.toNat (etWidth t * (i + 1) - 1) (etWidth t * i)

/-- The value of element i, signed or unsigned by the type (R143). -/
def elemVal (t : ETypeCode) (w : Word) (i : Nat) : Int := etInt? t (elemAt t w i)

/-- A register of elements of w bits, element 0 lowest (R108). -/
def packElems (w : Nat) (xs : List Nat) : Word :=
  BitVec.ofNat 32 (xs.foldr (fun x acc => x % 2 ^ w + 2 ^ w * acc) 0)

/-- A register whose element i is `f i`. -/
def elemMap (t : ETypeCode) (f : Nat → Nat) : Word := packElems (etWidth t) ((List.range (etCount t)).map f)

/-- One past the highest of some registers. -/
def topOf (rs : List Nat) : Nat := rs.foldl (fun a r => max a (r + 1)) 0

/-- The registers of a field of n registers at a first one. -/
def regsFrom (r n : Nat) : List Nat := (List.range n).map fun i => r + i

/-- A lane-by-lane instruction that sets no flag: registers `ds` receive `f`, by their place in the list (R143). -/
def vecMulti (q : Desc) (ds : List Nat) (f : Group → Nat → Nat → Word) (s : State) : Out :=
  issue { q with masked := true, writes := ds } s fun g m =>
    if m = 0 then .next (finish s q g)
    else .next (finish s q (g.results q.min (ds.zipIdx.map fun x => (x.1, vecVal m (zeroLanes s g m) (f g x.2)))))

/-- A lane-by-lane instruction with one destination and no flag (R143). -/
def vecOp (q : Desc) (d : Nat) (f : Group → Nat → Word) (s : State) : Out := vecMulti q [d] (fun g _ l => f g l) s

/-- The description of an instruction of format V with the sources `rs` and the destination d. -/
def vDesc (w : Word) (op st min : Nat) (types : List Nat) (d : Nat) (rs : List Nat) : Desc :=
  { word := w, op := op, st := st, vtop := topOf (d :: rs), types := types, reads := rs, min := min }

/-- The results of the active lanes, the others 0. -/
def laneResults {α : Type} (z : α) (m : Mask) (f : Nat → α) : List α :=
  lanes.map fun l => if m.getLsbD l then f l else z

/-- The lanes with their flags. -/
def laneFlags (fs : List FlagBits) : List (Nat × FlagBits) := lanes.zip fs

/-- The arithmetic trap of R120, or the effect `k` with the flags that reach FLAGS. -/
def withFlags (s : State) (g : Group) (fs : List (Nat × FlagBits)) (k : Group → Out) : Out :=
  match enabledCause g.regs.mw (unionFlags fs) with
  | some c => .next (takeTrap s c (BitVec.ofNat 32 (causeLane c fs)))
  | none => k (g.raise (unionFlags fs))

/-- A lane-by-lane instruction with flags: registers `ds` receive the words of `f` in order (R119 to R121, R143). -/
def flagMulti (q : Desc) (ds : List Nat) (f : State → Group → Nat → List Word × FlagBits) (s : State) : Out :=
  issue { q with masked := true, writes := ds } s fun g m =>
    if m = 0 then .next (finish s q g)
    else
      let rs := laneResults ([], 0) m (f s g)
      withFlags s g (laneFlags (rs.map Prod.snd)) fun g1 =>
        .next (finish s q (g1.results q.min
          (ds.zipIdx.map fun x => (x.1, .vec (m ||| zeroLanes s g m) (rs.map fun r => getAt 0 r.1 x.2)))))

/-- A lane-by-lane instruction with flags and one destination. -/
def flagOp (q : Desc) (d : Nat) (f : State → Group → Nat → Word × FlagBits) (s : State) : Out :=
  flagMulti q [d] (fun s g l => let r := f s g l; ([r.1], r.2)) s

/-- The elements of one lane computed in the format of a float type, with their flags (R108, R119). -/
def floatLane (t : ETypeCode) (ws : List Word) (f : Fmt → List Nat → FRes) : Word × FlagBits :=
  match etFmt t with
  | none => (0, 0)
  | some fm =>
    let rs := (List.range (etCount t)).map fun i => f fm (ws.map fun w => elemAt t w i)
    (packElems (etWidth t) (rs.map Prod.fst), rs.foldl (fun a r => a ||| r.2) 0)

/-- The pair of registers n and n + 1 of lane l (R108). -/
def Regs.readPair (r : Regs) (n l : Nat) : DWord := pairOf (r.readV n l) (r.readV (n + 1) l)

/-- The registers that a fourth operand or vd gives (R96). -/
def accReg (s : State) (d : Nat) : Nat := if effVc s = 0 then d else effVc s

end Sys2Proof.Machine
end

