-- ==== Sys2Proof/Machine/MemInstr.lean ====
section
/-! DEFINITION. Memory and capability instructions: opcodes 0xB0 to 0xBF (R195 to R213), with the wait for pages that do not translate (R256, R257). -/

namespace Sys2Proof.Machine

open Sys2Proof

/-! ### Checked access (R171, R174, R196, R256) -/

/-- The translations that an access used stay in the stack's address translation cache (R358). -/
def noteTranslation (s : State) (core part va : Nat) (write : Bool) : State :=
  let d := s.die (stackOf core)
  let pasid := (s.part part).pasid
  match findPage d.atc pasid (va / 4096) write with
  | some _ => s
  | none => match findPage s.hostPages pasid (va / 4096) write with
    | some h => s.setDie (stackOf core) { d with atc := h :: d.atc }
    | none => s

/-- An access to bytes of an object leaves its entry, and its translations, in the device's caches (R356, R358). -/
def noteAccess (s : State) (core part id : Nat) (ys : List Nat) (write : Bool) : State :=
  let s1 := s.cacheEntry part id
  let e := objEntry s part id
  if (accWindow? id).isNone && entryKind e = 1 then
    ys.foldl (fun s y => noteTranslation s core part (entryVbase e + y) write) s1
  else s1

/-- What an access names: its lanes with their offsets, the capability, the size, the right, the registers it writes, and
whether it is uniform, when TVAL holds the offset (R196). -/
structure Access where
  lanes : List (Nat × Nat)
  cap : BitVec 128
  size : Nat
  right : Right
  writes : List Nat := []
  uniform : Bool := false

/-- The causes of each lane. -/
def Access.causes (a : Access) (s : State) (core part : Nat) (st : GState) : List (Nat × List Nat) :=
  a.lanes.map fun x => (x.1, laneAccessCauses s core part st a.cap x.2 a.size a.right)

/-- TVAL for a lane of an access. -/
def Access.tval (a : Access) (lane : Nat) : Word :=
  if a.uniform then BitVec.ofNat 32 ((a.lanes.head?.map Prod.snd).getD 0) else BitVec.ofNat 32 lane

/-- The places of each lane's bytes. -/
def Access.places (a : Access) (s : State) (core part : Nat) : List (Nat × List Place) :=
  a.lanes.map fun x => (x.1, objRange s core part (capObj a.cap) (capBase a.cap + x.2) a.size (a.right ≠ .read))

/-- The lanes that miss translation, each with a page it misses. -/
def lanePages (xs : List (Nat × List Place)) : List (Nat × Nat) :=
  xs.flatMap fun x => (missPages x.2).map fun q => (x.1, q)

/-- A translation refused at the instruction at pc (R257): the event, then trap 0x11. -/
def refusePage (s : State) (gid : Gid) (pc : Word) (lane page : Nat) : State :=
  let s1 := s.groupEvent gid 1 0x11 pc (BitVec.ofNat 32 lane) (page * 4096)
  takeTrapAt s1 gid 0x11 pc (BitVec.ofNat 32 lane)

/-- The group waits for pages that do not translate; a page that the host has just granted and that faults again is
refused (R257). -/
def pageMiss (s : State) (g : Group) (miss : List (Nat × Nat)) (write : Bool) (writes : List Nat) : Out :=
  match miss.find? fun x => g.granted.contains x.2 with
  | some (lane, page) => .next (refusePage s s.cur g.pc lane page)
  | none =>
    .next (waitIssue s (.pageIndex miss ((miss.map fun x => (x.2, write)).dedup) writes))

/-- An access after all its checks: `k` performs it on the bytes of each lane (R171, R196, R256). Loads and atomics wait at
issue for what an acquire covers; a store issues and waits in the store buffer (R187, R197). -/
def withAccess (s : State) (g : Group) (a : Access) (k : State → Crew → List (Nat × List ByteAt) → Out) : Out :=
  match s.crew? s.cur.core s.cur.slot with
  | none => .next s
  | some c =>
    if acquirePending g && a.right ≠ .write then .next (holdIssue s)
    else match laneCauses (a.causes s s.cur.core c.part g.state) with
    | some (cause, lane) => .next (takeTrap s cause (a.tval lane))
    | none =>
      let ps := a.places s s.cur.core c.part
      match lanePages ps with
      | [] =>
        let ys := a.lanes.map fun x => capBase a.cap + x.2
        k (noteAccess s s.cur.core c.part (capObj a.cap) ys (a.right ≠ .read)) c (ps.map fun x => (x.1, placeBytes x.2))
      | miss => pageMiss s g miss (a.right ≠ .read) a.writes

/-! ### Loads (R177, R183 to R185, R200) -/

/-- The bytes among some addresses that lie in a line. -/
def onLine (line : Nat) (as : List Nat) : List Nat := as.filter fun a => lineOf a = line

/-- The copy in the core cache that serves a load by a group of some bytes of a line (R177): none older in one of them than
what the group has read (R184), and none while an earlier load of one of them by the group is in flight (R183). The load's
own object may have another lease than the one that the copy was granted under, 0 among them (DESIGN CHOICE log 49). -/
def cacheHit (s : State) (gid : Gid) (g : Group) (line : Nat) (as : List Nat) : Option HeldLine :=
  match liveCopy s.gt line (s.core gid.core).cache with
  | some h =>
    if as.all (fun a => g.seenVer a ≤ verAt h.vers a) && (groupLoads s gid as).isEmpty then some h else none
  | none => none

/-- Load requests for lines, one each, for some bytes of them (R200); each goes to a gateway cache or to the home (R177,
R179). -/
def sendLoads (s : State) (gid : Gid) (part out : Nat) (need : List Nat) : List (Nat × Nat) → State
  | [] => s
  | (line, lease) :: ls =>
    let (id, s1) := s.fresh
    let gw := gatewayOf s part gid.core line lease
    let as := onLine line need
    let m : LoadMsg :=
      { id := id, gid := gid, part := part, out := out, line := line, lease := lease, gateway := gw, bytes := as
        after := (groupLoads s gid as).map LoadMsg.id, minVer := as.map fun a => (a, (s.core gid.core).seenVer a)
        leftCache := some (s.core gid.core).leftCache
        phase := if gw.isSome then .toGateway else .toHome, data := [], expiry := 0, vers := [], poison := false }
    sendLoads { s1 with loads := s1.loads ++ [m] } gid part out need ls

/-- A load would read the bytes of one of its accesses at two moments, so that it would not be single-copy atomic (R184): its
core forwards some of them and the cache does not serve the others, or a write of the group's own splits them. -/
def loadSplits (s : State) (gid : Gid) (g : Group) (fwd : List (Nat × BitVec 8)) (hit : Nat → Option HeldLine)
    (as : List Nat) : Bool :=
  let rest := as.filter fun a => (overlay fwd a).isNone
  rest.length < as.length && (ackSplits s gid g as || rest.any fun a => (hit (lineOf a)).isNone)

/-- A load of a group waits at issue, not parked (R183, R184, R200; DESIGN CHOICE log 64): an atomic of the group in flight
targets one of its bytes, an earlier `WAITM` of the group watches one, or it would read the bytes of one of its accesses at
two moments. -/
def loadWaits (s : State) (gid : Gid) (g : Group) (fwd : List (Nat × BitVec 8)) (hit : Nat → Option HeldLine)
    (xs : List (List Nat)) : Bool :=
  atomTargets s gid xs.flatten || watched s gid g s.nextId xs.flatten || xs.any (loadSplits s gid g fwd hit)

/-- A load of the lanes' bytes: forwarded, served by the core cache, or requested by line; `kind` makes the outstanding
result from the lanes, the bytes that the cache has served and the poisoned lines among them (R183, R200). -/
def startLoad (s : State) (q : Desc) (g : Group) (part : Nat) (xs : List (Nat × List ByteAt)) (regs : List Nat)
    (kind : List LaneLoad → List (Nat × BitVec 8) → List Nat → OutKind) : Out :=
  let as := xs.flatMap fun x => x.2.map fun b => b.1
  let fwd := forwarded s s.cur g as
  let need := (xs.flatMap fun x => x.2).filter fun b => (overlay fwd b.1).isNone
  let hit (line : Nat) : Option HeldLine := cacheHit s s.cur g line (onLine line (need.map Prod.fst))
  if loadWaits s s.cur g fwd hit (xs.map fun x => x.2.map Prod.fst) then .next (holdIssue s)
  else
    let ls := (need.map fun b => (lineOf b.1, b.2.1)).dedup
    let got := need.filterMap fun b => (hit (lineOf b.1)).map fun h => (b.1, getAt 0 h.data (b.1 % 128))
    let hits := ls.filterMap fun l => hit l.1
    let miss := ls.filter fun l => (hit l.1).isNone
    let lane (x : Nat × List ByteAt) : LaneLoad :=
      { lane := x.1, addrs := x.2.map Prod.fst
        fwd := x.2.filterMap fun b => (overlay fwd b.1).map fun v => (b.1, v) }
    let (id, s1) := ((linesOf (fwd.map Prod.fst)).foldl (fun s line => observe s s.cur g line as) s).fresh
    let o : Outst :=
      { id := id, regs := regs, pc := g.pc, awaited := miss.map Prod.fst
        kind := kind (xs.map lane) got ((hits.filter HeldLine.poison).map HeldLine.line) }
    let g1 := hits.foldl (fun g h => g.saw (onLine h.line (need.map Prod.fst)) (verAt h.vers)) g
    let s2 := sendLoads s1 s.cur part id (need.map Prod.fst) miss
    .next (finish s2 q { g1 with outst := g.outst ++ [o] })

/-- The lanes of a mask with their offsets in a register. -/
def laneOffsets (g : Group) (m : Mask) (voff : Nat) : List (Nat × Nat) :=
  (activeLanes m).map fun l => (l, (g.regs.readV voff l).toNat)

/-- The registers of a field of format M for a size code (R99, R199). -/
def sizedRegs (z d : Nat) : List Nat :=
  match z with
  | 3 => regsFrom (2 * d) 2
  | 4 => regsFrom (4 * d) 4
  | _ => [d]

/-- LD (R199, R200). -/
def execLd (st : BitVec 3) (d : BitVec 7) (c : BitVec 4) (o : BitVec 7) (z : BitVec 3) (s : State) : Out :=
  let ds := sizedRegs z.toNat d.toNat
  let q : Desc := { word := encode (.ld st d c o z), op := 0xB0, st := st.toNat, vtop := topOf (o.toNat :: ds)
                    reads := [o.toNat, codeC c.toNat], writes := ds, masked := true }
  issue q s fun g m =>
    if m = 0 then .next (finish s q g)
    else
      let size := 2 ^ z.toNat
      withAccess s g { lanes := laneOffsets g m o.toNat, cap := getAt 0 g.regs.c c.toNat, size := size
                       right := .read, writes := ds } fun s1 k xs =>
        startLoad s1 q g k.part xs ds fun ls got bad =>
          .load (ds.head?.getD 0) size ls (zeroLanes s g m) got bad

/-! ### Stores (R181, R182, R200) -/

/-- A store of bytes: line writes sent or buffered, or the group held while the buffer has no room. -/
def startStore (s : State) (q : Desc) (g : Group) (bs : List (Nat × BitVec 8 × Nat × Bool)) : Out :=
  let ws := lineWrites s.nextId bs
  if !(bufferRoom s s.cur g ws) then .next (holdIssue s)
  else
    let (s1, g1) := issueWrites { s with nextId := s.nextId + ws.length } s.cur g ws
    .next (finish s1 q g1)

/-- A value's low bytes at the bytes of a lane. -/
def bytesAt (xs : List ByteAt) (v : Nat) : List (Nat × BitVec 8 × Nat × Bool) :=
  xs.zipIdx.map fun b => (b.1.1, byteOf v b.2, b.1.2)

/-- The value of registers of a lane, low register first. -/
def regsValue (g : Group) (rs : List Nat) (l : Nat) : Nat :=
  rs.zipIdx.foldl (fun a x => a + (g.regs.readV x.1 l).toNat * 2 ^ (32 * x.2)) 0

/-- ST (R199, R200). -/
def execSt (st : BitVec 3) (d : BitVec 7) (c : BitVec 4) (o : BitVec 7) (z : BitVec 3) (s : State) : Out :=
  let ds := sizedRegs z.toNat d.toNat
  let q : Desc := { word := encode (.st st d c o z), op := 0xB1, st := st.toNat, vtop := topOf (o.toNat :: ds)
                    reads := o.toNat :: codeC c.toNat :: ds, masked := true }
  issue q s fun g m =>
    if m = 0 then .next (finish s q g)
    else withAccess s g { lanes := laneOffsets g m o.toNat, cap := getAt 0 g.regs.c c.toNat, size := 2 ^ z.toNat
                          right := .write } fun s1 _ xs =>
      startStore s1 q g (xs.flatMap fun x => bytesAt x.2 (regsValue g ds x.1))

/-- LDU (R202). -/
def execLdu (st : BitVec 3) (d : BitVec 6) (c : BitVec 4) (i : BitVec 11) (s : State) : Out :=
  let q : Desc := { word := encode (.ldu st d c i), op := 0xB4, st := st.toNat, reads := [codeC c.toNat]
                    writes := [codeS d.toNat] }
  issue q s fun g _ =>
    withAccess s g { lanes := [(0, 4 * i.toNat)], cap := getAt 0 g.regs.c c.toNat, size := 4, right := .read
                     writes := [codeS d.toNat], uniform := true } fun s1 k xs =>
      startLoad s1 q g k.part xs [codeS d.toNat] fun ls got bad =>
        .loadU d.toNat (ls.head?.getD ⟨0, [], []⟩) got bad

/-- STU (R202). -/
def execStu (st : BitVec 3) (d : BitVec 6) (c : BitVec 4) (i : BitVec 11) (s : State) : Out :=
  let q : Desc := { word := encode (.stu st d c i), op := 0xB5, st := st.toNat, reads := [codeS d.toNat, codeC c.toNat] }
  issue q s fun g _ =>
    withAccess s g { lanes := [(0, 4 * i.toNat)], cap := getAt 0 g.regs.c c.toNat, size := 4, right := .write
                     uniform := true } fun s1 _ xs =>
      startStore s1 q g (xs.flatMap fun x => bytesAt x.2 (g.regs.readS d.toNat).toNat)

/-! ### Scratchpad and FIFO ports (R198, R201, R213) -/

/-- The first FIFO port (R213). -/
def fifoPort : Nat := 0x800000

/-- Where a scratchpad word access of a lane goes: scratchpad, a FIFO with the word of its port, or a trap. -/
inductive ScratchPlace where
  | word (off : Nat)
  | port (f : Nat) (count : Bool)
  deriving DecidableEq, Repr

/-- The causes of an `LDS` or `STS` word at an offset, for a crew with n FIFOs (R198, R213). -/
def wordCauses (granules : List Nat) (n o : Nat) (store : Bool) : List Nat :=
  if o < fifoPort then scratchCauses granules o 4
  else
    let w := (o - fifoPort) % 16
    (if o % 4 ≠ 0 then [0x0A] else [])
      ++ (if n ≤ (o - fifoPort) / 16 || (8 ≤ w && w < 16) || (store && 4 ≤ w) then [0x0B] else [])

/-- Where a checked word goes. -/
def wordPlace (o : Nat) : ScratchPlace :=
  if o < fifoPort then .word o else .port ((o - fifoPort) / 16) (4 ≤ (o - fifoPort) % 16)

/-- The lanes of a mask with their scratchpad offsets (R201). -/
def scratchOffsets (g : Group) (m : Mask) (a i : Nat) : List (Nat × Nat) :=
  (activeLanes m).map fun l => (l, (g.regs.readV a l).toNat + 4 * i)

/-- The words queued in a crew's FIFO f. -/
def fifoWords (c : Core) (k : Crew) (f : Nat) : List Word := (c.bank (getAt 0 k.fifos f)).fifo

/-- A crew's FIFO f with its words replaced. -/
def setFifo (c : Core) (k : Crew) (f : Nat) (ws : List Word) : Core :=
  let b := getAt 0 k.fifos f
  c.setBank b { c.bank b with fifo := ws }

/-- The words that a FIFO holds at most (R213). -/
def fifoDepth : Nat := 65536

/-- The groups of a crew that wait for words of a FIFO try their instruction again. -/
def Crew.wakeFifo (k : Crew) (f : Nat) : Crew :=
  { k with groups := k.groups.map fun o => o.map fun g => if g.wait = .fifo f then { g with wait := .none } else g }

/-- The FIFOs that some lanes push or pop, with how many words each. -/
def portCounts (xs : List (Nat × Nat)) : List (Nat × Nat) :=
  (List.range 4).filterMap fun f =>
    let n := (xs.filter fun x => wordPlace x.2 = .port f false).length
    if n = 0 then none else some (f, n)

/-- A scratchpad result joins the outstanding results: its value, or the poison it consumes (R85, R266). -/
def Group.outScratch (g : Group) (id : Nat) (ws : List (Nat × RegVal)) (bad : Option (Nat × Nat)) (pc : Word) : Group :=
  let kind := match bad with
    | none => .scratch ws
    | some (lane, line) => .poisoned lane line
  { g with outst := g.outst ++ [⟨id, ws.map Prod.fst, kind, [], pc⟩] }

/-- LDS (R201): scratchpad words, FIFO pops in ascending lane order, and FIFO counts (R213): those before the pops of the same
instruction (R213 does not say; DESIGN CHOICE log 26). -/
def execLds (st : BitVec 3) (d a i : BitVec 7) (s : State) : Out :=
  let q : Desc := { word := encode (.lds st d a i), op := 0xB2, st := st.toNat, vtop := topOf [d.toNat, a.toNat]
                    reads := [a.toNat], writes := [d.toNat], masked := true }
  issue q s fun g m =>
    match s.crew? s.cur.core s.cur.slot with
    | none => .next s
    | some k =>
      let xs := scratchOffsets g m a.toNat i.toNat
      if m = 0 then .next (finish s q g)
      else if acquirePending g then .next (holdIssue s)
      else match laneCauses (xs.map fun x => (x.1, wordCauses k.granules k.fifos.length x.2 false)) with
      | some (cause, lane) => .next (takeTrap s cause (BitVec.ofNat 32 lane))
      | none =>
        let c := s.core s.cur.core
        let pops := portCounts xs
        match pops.find? fun p => (fifoWords c k p.1).length < p.2 with
        | some (f, _) => .next (waitIssue s (.fifo f))
        | none =>
          let value (x : Nat × Nat) : Word := match wordPlace x.2 with
            | .word o => scratchWord c k.granules o
            | .port f true => BitVec.ofNat 32 (fifoWords c k f).length
            | .port f false =>
              getAt 0 (fifoWords c k f) (xs.filter fun y => y.1 < x.1 && wordPlace y.2 = .port f false).length
          let vals := xs.map fun x => (x.1, value x)
          let c1 := pops.foldl (fun c p => setFifo c k p.1 ((fifoWords c k p.1).drop p.2)) c
          let (id, s1) := s.fresh
          let g1 := if pops.isEmpty then g else g.acquire
          let v := vecVal m (zeroLanes s g m) fun l => ((vals.find? fun x => x.1 = l).map Prod.snd).getD 0
          let words := xs.filter fun x => x.2 < fifoPort
          .next (finish (s1.setCore s.cur.core c1) q
            (g1.outScratch id [(d.toNat, v)] (scratchPoisonLane s s.cur.core k.granules words) g.pc))

/-- STS (R201): scratchpad words and FIFO pushes in ascending lane order (R213). Under an acquire that still waits, the words
of a store are kept until it is over (R187, R197). -/
def execSts (st : BitVec 3) (d a i : BitVec 7) (s : State) : Out :=
  let q : Desc := { word := encode (.sts st d a i), op := 0xB3, st := st.toNat, vtop := topOf [d.toNat, a.toNat]
                    reads := [a.toNat, d.toNat], masked := true }
  issue q s fun g m =>
    match s.crew? s.cur.core s.cur.slot with
    | none => .next s
    | some k =>
      let xs := scratchOffsets g m a.toNat i.toNat
      if m = 0 then .next (finish s q g)
      else match laneCauses (xs.map fun x => (x.1, wordCauses k.granules k.fifos.length x.2 true)) with
      | some (cause, lane) => .next (takeTrap s cause (BitVec.ofNat 32 lane))
      | none =>
        let c := s.core s.cur.core
        let pushes := portCounts xs
        let full := pushes.any fun p => fifoDepth < (fifoWords c k p.1).length + p.2
        if full || (!pushes.isEmpty && (acquirePending g || !(releasedCore g))) then .next (holdIssue s)
        else if acquirePending g then
          .next (finish s q { g with bankBuf := g.bankBuf ++ xs.map fun x => (x.2, g.regs.readV d.toNat x.1) })
        else
          let c1 := xs.foldl (fun c x =>
            let w := g.regs.readV d.toNat x.1
            match wordPlace x.2 with
            | .word o => scratchWriteWord c k.granules o w
            | .port f _ => setFifo c k f (fifoWords c k f ++ [w])) c
          crewOp (s.setCore s.cur.core c1) q g fun k _ => pushes.foldl (fun k p => k.wakeFifo p.1) k

/-! ### Atomics (R203 to R205) -/

/-- The new value of a word (R203, R205): codes 0 to 7 of `ATOM` and `ATOMS`, 8 `.XCHG`, 9 `.CAS` with the expected value
v and the new value v2, 10 `.FADD`; of `CRED` (R235): 11 `.BFADD`, 12 `.FMAX`. -/
def atomValue (op : Nat) (old v v2 : Word) : Word :=
  match op with
  | 0 => old + v
  | 1 => if sWord v < sWord old then v else old
  | 2 => if sWord old < sWord v then v else old
  | 3 => if v.toNat < old.toNat then v else old
  | 4 => if old.toNat < v.toNat then v else old
  | 5 => old &&& v
  | 6 => old ||| v
  | 7 => old ^^^ v
  | 8 => v
  | 9 => if old = v then v2 else old
  | 11 => packElems 16 ((List.range 2).map fun i =>
      (sumRound .bf16 0 false false [decodeFloat .bf16 (elemAt 3 old i), decodeFloat .bf16 (elemAt 3 v i)]).1)
  | 12 => BitVec.ofNat 32 (fMinMax .f32 false false old.toNat v.toNat).1
  | _ => BitVec.ofNat 32 (sumRound .f32 0 false false [decodeFloat .f32 old.toNat, decodeFloat .f32 v.toNat]).1

/-- The bytes that some words of an atomic write. -/
def atomBytes (ops : List AtomOp) : List Nat := ops.flatMap fun o => (List.range 4).map fun i => o.addr + i

/-- The messages of a memory atomic, one for each line; each counts in USC: R181 gives no unit of a memory atomic, and the
model counts one for each line that it touches, as for a store (R181, R204; DESIGN CHOICE log 26). -/
def sendAtoms (s : State) (gid : Gid) (out : Nat) (ops : List (AtomOp × Nat × Bool)) : List Nat → State
  | [] => s
  | line :: ls =>
    let (id, s1) := s.fresh
    let mine := ops.filter fun o => lineOf o.1.addr = line
    let first := (mine.head?.map Prod.snd).getD (0, false)
    let m : AtomMsg :=
      { id := id, issuer := .group gid, part := slotPart s gid, out := out, line := line, ops := mine.map Prod.fst
        after := orderAfter s gid line id (atomBytes (mine.map Prod.fst)), lease := first.1, host := first.2, shared := isHostAddr (128 * line), phase := .toHome, olds := [], poison := false
        gwct := 0, ver := 0 }
    sendAtoms { s1 with atoms := s1.atoms ++ [m] } gid out ops ls

/-- ATOM and ATOMX: held while the group has a write or atomic in flight, or a buffered write, on a line it touches
(R182); `v2` is the register of the second operand. -/
def memAtomic (q : Desc) (d v2 c o op : Nat) (s : State) : Out :=
  issue q s fun g m =>
    if m = 0 then .next (finish s q g)
    else withAccess s g { lanes := laneOffsets g m o, cap := getAt 0 g.regs.c c, size := 4, right := .atomic
                          writes := [d] } fun s1 _ xs =>
      let ls := linesOf (xs.flatMap fun x => x.2.map Prod.fst)
      if (ls.any fun l => lineInFlight s1 s.cur l || g.buf.any fun b => b.line = l)
          || watched s1 s.cur g s1.nextId (xs.flatMap fun x => x.2.map Prod.fst) then .next (holdIssue s1)
      else
        let ops := xs.map fun x =>
          let b := x.2.head?.getD (0, 0, false)
          (({ lane := x.1, addr := b.1, op := op, v := g.regs.readV d x.1, v2 := g.regs.readV v2 x.1 } : AtomOp), b.2)
        let (id, s2) := s1.fresh
        let out : Outst := { id := id, regs := [d], kind := .atom d m [] [], awaited := ls, pc := g.pc }
        .next (finish (sendAtoms s2 s.cur id ops ls) q
          { g with outst := g.outst ++ [out], usc := g.usc + BitVec.ofNat 32 ls.length })

/-- ATOM (R203, R204). -/
def execAtom (st : BitVec 3) (d : BitVec 7) (c : BitVec 4) (o : BitVec 7) (f : BitVec 3) (s : State) : Out :=
  memAtomic { word := encode (.atom st d c o f), op := 0xB6, st := st.toNat, vtop := topOf [d.toNat, o.toNat]
              reads := [o.toNat, d.toNat, codeC c.toNat], writes := [d.toNat], masked := true }
    d.toNat d.toNat c.toNat o.toNat f.toNat s

/-- ATOMX: exchange, compare-and-swap, float add (R203, R205). -/
def execAtomx (st : BitVec 3) (d : BitVec 7) (c : BitVec 4) (o : BitVec 7) (f : BitVec 3) (s : State) : Out :=
  let v2 := if f = 1 then d.toNat + 1 else d.toNat
  memAtomic { word := encode (.atomx st d c o f), op := 0xB7, st := st.toNat, vtop := topOf [v2, o.toNat]
              reads := [o.toNat, d.toNat, v2, codeC c.toNat], writes := [d.toNat], masked := true }
    d.toNat v2 c.toNat o.toNat (f.toNat + 8) s

/-- ATOMS: in the bank, in ascending lane index (R203, R204). -/
def execAtoms (st : BitVec 3) (d o : BitVec 7) (f : BitVec 3) (s : State) : Out :=
  let q : Desc := { word := encode (.atoms st d o f), op := 0xB8, st := st.toNat, vtop := topOf [d.toNat, o.toNat]
                    reads := [o.toNat, d.toNat], writes := [d.toNat], masked := true }
  issue q s fun g m =>
    match s.crew? s.cur.core s.cur.slot with
    | none => .next s
    | some k =>
      let xs := laneOffsets g m o.toNat
      if m = 0 then .next (finish s q g)
      else if acquirePending g then .next (holdIssue s)
      else match laneCauses (xs.map fun x => (x.1, scratchCauses k.granules x.2 4)) with
      | some (cause, lane) => .next (takeTrap s cause (BitVec.ofNat 32 lane))
      | none =>
        let r := xs.foldl (fun (a : Core × List (Nat × Word)) x =>
          let old := scratchWord a.1 k.granules x.2
          (scratchWriteWord a.1 k.granules x.2 (atomValue f.toNat old (g.regs.readV d.toNat x.1) 0),
           a.2 ++ [(x.1, old)])) (s.core s.cur.core, [])
        let (id, s1) := s.fresh
        let v := vecVal m 0 fun l => ((r.2.find? fun x => x.1 = l).map Prod.snd).getD 0
        .next (finish (s1.setCore s.cur.core r.1) q
          (g.outScratch id [(d.toNat, v)] (scratchPoisonLane s s.cur.core k.granules xs) g.pc))

/-! ### Fences and the memory wait (R206, R207) -/

/-- FENCE: release, acquire, or both (R187, R206); it holds its group at issue until it is complete, an acquire until every
earlier load and atomic has returned (R197). -/
def execFence (st : BitVec 3) (c k : BitVec 2) (s : State) : Out :=
  let q : Desc := { word := encode (.fence st c k), op := 0xB9, st := st.toNat }
  issue q s fun g _ =>
    let released := if c.toNat < 2 then releasedCore g else releasedDev s g
    if (k ≠ 2 && !released) || (k ≠ 1 && !g.acquire.acq.isEmpty) then .next (holdIssue s)
    else .next (finish s q (if k = 1 then g else g.acquire))

/-- WAITM (R207): the word is read by WAITM_POLL. -/
def execWaitm (st : BitVec 3) (d : BitVec 6) (c : BitVec 4) (i : BitVec 11) (s : State) : Out :=
  let ss := (List.range 4).map fun j => codeS (d.toNat + j)
  let q : Desc := { word := encode (.waitm st d c i), op := 0xBA, st := st.toNat, reads := codeC c.toNat :: ss
                    writes := ss.take 2 }
  issue q s fun g _ =>
    let w := g.regs.readS (d.toNat + 1)
    if 3 ≤ w.toNat then .next (takeTrap s 0x02 w)
    else withAccess s g { lanes := [(0, 4 * i.toNat)], cap := getAt 0 g.regs.c c.toNat, size := 4, right := .read
                          writes := ss.take 2, uniform := true } fun s1 _ _ =>
      let cap := getAt 0 g.regs.c c.toNat
      let deadline := (pairOf (g.regs.readS (d.toNat + 2)) (g.regs.readS (d.toNat + 3))).toNat
      let (id, s2) := s1.fresh
      let out : Outst :=
        { id := id, regs := ss.take 2, awaited := [], pc := g.pc
          kind := .waitm ⟨d.toNat, g.regs.readS d.toNat, w.toNat, deadline, capObj cap, capBase cap + 4 * i.toNat,
            none, none, false⟩ }
      .next (finish s2 q { g with outst := g.outst ++ [out] })

/-! ### Capabilities (R208 to R210) -/

/-- The causes of CAPLD and CAPST at an offset (R171, R208). -/
def capCauses (s : State) (part : Nat) (cap : BitVec 128) (o : Nat) (r : Right) : List Nat :=
  let id := capObj cap
  let y := capBase cap + o
  let e := objEntry s part id
  let align := if o % 16 ≠ 0 || y % 16 ≠ 0 then [0x0A] else []
  let bounds := if capLen cap < o + 16 then [0x08] else []
  if id = 0 || (accWindow? id).isSome then 0x09 :: (bounds ++ align)
  else if entryMalformed (s.part part) e then 0x11 :: ((if r.of cap then [] else [0x09]) ++ bounds ++ align)
  else
    (if !(r.of cap) || !(entryCapb e) || (r = .write && entryRo e) then [0x09] else []) ++ bounds ++ align
      ++ (if (entryCapb e && (entryKind e ≠ 0 || entryHost e)) || entrySize e < y + 16 then [0x11] else [])

/-- CAPLD and CAPST after their checks: the 16 bytes. -/
def withCapAccess (s : State) (g : Group) (c i : Nat) (r : Right) (k : State → Crew → List ByteAt → Out) : Out :=
  match s.crew? s.cur.core s.cur.slot with
  | none => .next s
  | some crew =>
    let cap := getAt 0 g.regs.c c
    if acquirePending g && r ≠ .write then .next (holdIssue s)
    else match leastCause (capCauses s crew.part cap (4 * i) r) with
    | some cause => .next (takeTrap s cause (BitVec.ofNat 32 (4 * i)))
    | none =>
      let s1 := s.cacheEntry crew.part (capObj cap)
      k s1 crew (placeBytes (objRange s1 s.cur.core crew.part (capObj cap) (capBase cap + 4 * i) 16 (r ≠ .read)))

/-- CAPLD (R208). -/
def execCapld (st : BitVec 3) (d c : BitVec 4) (i : BitVec 11) (s : State) : Out :=
  let q : Desc := { word := encode (.capld st d c i), op := 0xBB, st := st.toNat, reads := [codeC c.toNat]
                    writes := [codeC d.toNat] }
  issue q s fun g _ =>
    withCapAccess s g c.toNat i.toNat .read fun s1 k bs =>
      startLoad s1 q g k.part [(4 * i.toNat, bs)] [codeC d.toNat] fun ls got bad =>
        .loadC d.toNat (ls.head?.getD ⟨0, [], []⟩) got bad

/-- CAPST (R208). -/
def execCapst (st : BitVec 3) (d c : BitVec 4) (i : BitVec 11) (s : State) : Out :=
  let q : Desc := { word := encode (.capst st d c i), op := 0xBC, st := st.toNat
                    reads := [codeC c.toNat, codeC d.toNat] }
  issue q s fun g _ =>
    withCapAccess s g c.toNat i.toNat .write fun s1 _ bs =>
      startStore s1 q g (bytesAt bs (getAt 0 g.regs.c d.toNat).toNat)

/-- The greatest value of a field of 40 bits. -/
def capMost : Nat := 2 ^ 40 - 1

/-- CAPSUB (R209). A BASE + Δ beyond 40 bits becomes the greatest BASE: it lies beyond every object, as the range that the
source has there does, so that nothing more is granted (R170; DESIGN CHOICE log 65). -/
def execCapsub (st : BitVec 3) (d a : BitVec 4) (b : BitVec 6) (s : State) : Out :=
  let ss := (List.range 4).map fun j => codeS (b.toNat + j)
  let q : Desc := { word := encode (.capsub st d a b), op := 0xBD, st := st.toNat, reads := codeC a.toNat :: ss
                    writes := [codeC d.toNat] }
  issue q s fun g _ =>
    let w1 := g.regs.readS (b.toNat + 1)
    let w3 := g.regs.readS (b.toNat + 3)
    let cs := getAt 0 g.regs.c a.toNat
    let delta := (g.regs.readS b.toNat).toNat + w1.toNat % 256 * 2 ^ 32
    let n := (g.regs.readS (b.toNat + 2)).toNat + w3.toNat % 256 * 2 ^ 32
    if bitsOf w1.toNat 31 12 ≠ 0 then .next (takeTrap s 0x02 w1)
    else if bitsOf w3.toNat 31 8 ≠ 0 then .next (takeTrap s 0x02 w3)
    else if !(capDerive cs) then .next (takeTrap s 0x09 0)
    else if capLen cs < delta + n then .next (takeTrap s 0x08 (g.regs.readS b.toNat))
    else
      let rights := Nat.land (capRights cs) (bitsOf w1.toNat 11 8)
      let v := capMake (capObj cs) (min capMost (capBase cs + delta)) n rights
      .next (finish s q { g with regs := { g.regs with c := setAt 0 g.regs.c d.toNat v } })

/-- CAPINFO (R210). -/
def execCapinfo (st : BitVec 3) (d : BitVec 6) (a : BitVec 4) (s : State) : Out :=
  let ss := (List.range 4).map fun j => codeS (d.toNat + j)
  uniform { word := encode (.capinfo st d a), op := 0xBE, st := st.toNat, reads := [codeC a.toNat], writes := ss } s
    fun g => g.results 0 ((List.range 4).map fun j =>
      (codeS (d.toNat + j), .scal ((getAt 0 g.regs.c a.toNat).extractLsb' (32 * j) 32)))

/-! ### Bank modes (R211, R212) -/

/-- The mode codes of R211. -/
def bankCode : BankMode → Nat
  | .cache => 0
  | .scratch => 1
  | .fifo => 2
  | .dormer => 3

/-- The mode of a code. -/
def bankOfCode : Nat → BankMode
  | 0 => .cache
  | 1 => .scratch
  | 2 => .fifo
  | _ => .dormer

/-- Whether the launch of a Dormer bank keeps slates that no spill object takes (R211, R301). -/
def dormerPinned (s : State) (c : Core) (b : Nat) : Bool :=
  c.dormers.any fun d => !(d.inBank b).isEmpty && (match s.win? d.launch with | some w => w.spill | none => 0) = 0

/-- The status of a change of a bank's mode (R211): of several that apply, the lowest (R211 gives no order; DESIGN CHOICE
log 26). -/
def bankStatus (s : State) (c : Core) (b m : Word) : Nat :=
  if 32 ≤ b.toNat || 4 ≤ m.toNat then 1
  else
    let x := c.bank b.toNat
    let m := bankOfCode m.toNat
    if x.mode = m then 0
    else if m = .dormer && 24 ≤ (c.banksIn .dormer).length then 2
    else if x.mode = .scratch && c.usedGranules.any (granuleIn b.toNat) then 3
    else if x.mode = .fifo && c.usedFifos.contains b.toNat then 4
    else if x.mode = .dormer && dormerPinned s c b.toNat then 5
    else 0

/-- The slates of a bank can be spilled: all are checked in, and the spill object has room for them (R212 step 2; the room,
DESIGN CHOICE log 54). -/
def dormerQuiet (s : State) (c : Core) (b : Nat) : Bool :=
  c.dormers.all fun d =>
    let room := match s.launch? d.launch, s.win? d.launch with
      | some l, some w => spillRoom s l w
      | _, _ => 0
    (d.inBank b).all (fun x => !x.out) && (d.inBank b).length ≤ room

/-- A bank takes no new slate any more (R212 step 1). A `BMODE` that is abandoned while it waits, with a cancel, a save or a
double fault of its group, leaves the bank so, in Dormer mode (R212 does not say; DESIGN CHOICE log 54). -/
def Core.closeBank (c : Core) (b : Nat) : Core :=
  { c with dormers := c.dormers.map fun d => { d with banks := d.banks.filter fun x => x ≠ b } }

/-- A bank that leaves Dormer mode has its slates spilled (R212 step 2). -/
def spillBank (s : State) (core b : Nat) : State :=
  let c := s.core core
  let ds := (c.dormers.filter fun d => !(d.inBank b).isEmpty).map Dormer.launch
  ds.foldl (fun s n => s.settleSpills core n) (s.setCore core { c with
    dormers := c.dormers.map fun d => { d with slates := d.slates.map fun x => if x.bank = some b then x.spill else x } })

/-- The `BMODE` of another group of the core is at work (R212). -/
def bankBusy (s : State) (g : Gid) : Bool :=
  match (s.core g.core).bankChange with
  | some (x, _) => x ≠ g && (s.core g.core).changing
  | none => false

/-- BMODE (R211, R212): it holds its group until the change is complete; placements that waited for it are decided then. -/
def execBmode (st : BitVec 3) (d a b : BitVec 6) (s : State) : Out :=
  let q : Desc := { word := encode (.bmode st d a b), op := 0xBF, st := st.toNat, priv := .core
                    reads := [codeS a.toNat, codeS b.toNat], writes := [codeS d.toNat] }
  issue q s fun g _ =>
    let c := s.core s.cur.core
    let bank := g.regs.readS a.toNat
    let mode := g.regs.readS b.toNat
    let status := bankStatus s c bank mode
    let g1 := g.result 0 (codeS d.toNat) (.scal (BitVec.ofNat 32 status))
    let b := bank.toNat
    if bankBusy s s.cur then .next (holdIssue s)
    else if status ≠ 0 then .next (finish s q g1)
    else
      let m := bankOfCode mode.toNat
      let s1 := if (c.bank b).mode = m then s else s.setCore s.cur.core (c.closeBank b)
      if (c.bank b).mode ≠ m && !(dormerQuiet s1 (s1.core s.cur.core) b) then
        .next (holdIssue (s1.setCore s.cur.core { s1.core s.cur.core with bankChange := some (s.cur, b) }))
      else
        let s2 := if (c.bank b).mode = m then s1 else spillBank s1 s.cur.core b
        let c1 := (s2.core s.cur.core).changeBank b m
        let c2 : Core := { c1.setBank b { c1.bank b with pinned := m ≠ .cache } with bankChange := none }
        let c3 := if c.changing then c2.returnBanks else c2
        let s3 := finish ((s2.bankPoison s.cur.core c3).setCore s.cur.core c3) q g1
        .next (if c.changing then placementPass s3 (slotPart s s.cur) else s3)

/-- BMODE.Q (R211). -/
def execBmodeQ (st : BitVec 3) (d a : BitVec 6) (s : State) : Out :=
  let q : Desc := { word := encode (.bmodeQ st d a), op := 0xBF, st := st.toNat, priv := .core
                    reads := [codeS a.toNat], writes := [codeS d.toNat] }
  issue q s fun g _ =>
    let b := (g.regs.readS a.toNat).toNat
    let v := bankCode ((s.core s.cur.core).bank (b % 32)).mode
    .next (finish s q (g.result 0 (codeS d.toNat) (.scal (BitVec.ofNat 32 v))))

end Sys2Proof.Machine
end

