-- ==== Sys2Proof/Machine/EvMemory.lean ====
section
/-! DEFINITION. Steps of the homes, gateway caches, the CXL port and the cores' memory side (R177 to R183, R189, R207, R256 to R258, R351, R358), and the delivery of results (R85). -/

namespace Sys2Proof.Machine

open Sys2Proof

/-! ### Loads (R177, R179, R185) -/

/-- A load message changed. -/
def State.modLoad (s : State) (id : Nat) (f : LoadMsg → LoadMsg) : State :=
  { s with loads := s.loads.map fun m => if m.id = id then f m else m }

/-- Messages that are over before another is performed are still at work (R183, R184; DESIGN CHOICE log 8). -/
def mustFollowMsgs (s : State) (after : List Nat) : Bool :=
  (s.loads.any fun m => after.contains m.id) || s.writes.any fun w => after.contains w.id && w.phase ≠ .ack

/-- HOME_LOAD: the home returns the data with an expiry, and records E (R177), once the earlier loads of its bytes by the
group are over (R183). GT is one for the whole device: the readings of home, gateway and cores never differ, where R25
allows 2 ticks (DESIGN CHOICE log 47). Accumulator window lines wait for the matrix jobs on their tile (R287). -/
def execHomeLoad (msg : Nat) (s : State) : Out :=
  match s.loads.find? fun m => m.id = msg && m.phase = .toHome with
  | none => .refused (.notEnabled "HOME_LOAD")
  | some m =>
    if tileBusy s m.line || sliceMoving s m.line || mustFollowMsgs s m.after then .refused (.notEnabled "HOME_LOAD")
    else
      let x := if m.lease = 0 then 0 else s.gt + m.lease
      let s1 := if m.lease = 0 then s else s.raiseExpiry m.line x
      .next (s1.modLoad msg fun m => { m with
        data := lineBytes s m.line, vers := s.lineVers m.line, poison := s.poison.contains m.line, expiry := x
        phase := if m.gateway.isSome then .gatewayFill else .response })

/-- The least version of a byte that a load may return: what its core's stores and atomics had made when it was issued, and
what its group has read (R184, R185, R188). -/
def loadVer (s : State) (m : LoadMsg) (a : Nat) : Nat :=
  max (verIn m.minVer a) (match s.group? m.gid with
    | some g => if g.outst.any fun o => o.id = m.out then g.seenVer a else 0
    | none => 0)

/-- Data with some versions are older than a load may return in one of its bytes (R184). -/
def loadStale (s : State) (m : LoadMsg) (vers : List Nat) : Bool := m.bytes.any fun a => verAt vers a < loadVer s m a

/-- GATEWAY_LOAD: a live copy is served within its own lease, else the line is fetched from the home (R179). -/
def execGatewayLoad (msg : Nat) (s : State) : Out :=
  match s.loads.find? fun m => m.id = msg && m.phase = .toGateway with
  | none => .refused (.notEnabled "GATEWAY_LOAD")
  | some m =>
    let gw := getAt Gateway.reset s.gateways (m.gateway.getD 0)
    if mustFollowMsgs s m.after then .refused (.notEnabled "GATEWAY_LOAD")
    else match liveCopy s.gt m.line gw.lines with
    | some h =>
      if loadStale s m h.vers then .next (s.modLoad msg fun m => { m with phase := .toHome })
      else .next (s.modLoad msg fun m => { m with
        data := h.data, vers := h.vers, poison := h.poison, expiry := min (s.gt + m.lease) h.expiry, phase := .response })
    | none => .next (s.modLoad msg fun m => { m with phase := .toHome })

/-- GATEWAY_FILL_RESPONSE: the line is installed in a way of its partition with expiry Xg, and the core is served while GT
lies below Xg − 4; else the line is fetched again (R179, R353). -/
def execGatewayFillResponse (msg : Nat) (s : State) : Out :=
  match s.loads.find? fun m => m.id = msg && m.phase = .gatewayFill with
  | none => .refused (.notEnabled "GATEWAY_FILL_RESPONSE")
  | some m =>
    if !(s.gt + 4 < m.expiry) then .next (s.modLoad msg fun m => { m with phase := .toHome })
    else
      let i := m.gateway.getD 0
      let h : HeldLine := ⟨m.line, m.data, m.expiry, m.vers, m.part, m.poison, 0⟩
      let s1 := { s with
        gateways := setAt Gateway.reset s.gateways i ((getAt Gateway.reset s.gateways i).put h) }
      .next (s1.modLoad msg fun m => { m with expiry := min (s.gt + m.lease) m.expiry, phase := .response })

/-- A gateway cache drops a line. -/
def gatewayDrop (s : State) (i line : Nat) : State :=
  let g := getAt Gateway.reset s.gateways i
  { s with gateways := setAt Gateway.reset s.gateways i { g with lines := g.lines.filter fun h => h.line ≠ line } }

/-- The lines that a core cache can hold: 2,048 for each bank in cache mode (R19). -/
def Core.cacheLines (c : Core) : Nat := 2048 * (c.banksIn .cache).length

/-- A fill installed in the core cache, merged under the core's line writes that are queued for the line; one that lacks a
store of the core which the home has performed is not held (R185), nor one that was in flight while a bank left cache mode
(R212). -/
def installFill (s : State) (m : LoadMsg) : State :=
  let c := s.core m.gid.core
  let old := (List.range 128).any fun i => getAt 0 m.vers i < c.seenVer (128 * m.line + i)
  if m.lease = 0 || !(s.gt + 4 < m.expiry) || old || m.leftCache ≠ some c.leftCache then s
  else
    let queued := (coreWrites s m.gid.core m.line).flatMap WriteMsg.bytes
    let h : HeldLine := ⟨m.line, overlayLine m.data queued, m.expiry, m.vers, m.part, m.poison, 0⟩
    s.setCore m.gid.core { c with
      cache := (h :: c.cache.filter fun x => x.line ≠ m.line).take c.cacheLines }

/-- What a line's data adds to an outstanding load. -/
def OutKind.collect (k : OutKind) (line : Nat) (data : List (BitVec 8)) (bad : Bool) : OutKind :=
  let mine (ls : List LaneLoad) : List (Nat × BitVec 8) :=
    (((ls.flatMap LaneLoad.addrs).filter fun a => lineOf a = line).dedup).map fun a => (a, getAt 0 data (a % 128))
  let poison (p : List Nat) : List Nat := if bad then line :: p else p
  match k with
  | .load r z ls zero got p => .load r z ls zero (got ++ mine ls) (poison p)
  | .loadU sd l got p => .loadU sd l (got ++ mine [l]) (poison p)
  | .loadC cd l got p => .loadC cd l (got ++ mine [l]) (poison p)
  | k => k

/-- An outstanding result of a group changed. -/
def Group.modOut (g : Group) (id : Nat) (f : Outst → Outst) : Group :=
  { g with outst := g.outst.map fun o => if o.id = id then f o else o }

/-- A result with nothing more awaited is delivered. -/
def deliverIfDone (s : State) (gid : Gid) (out : Nat) : State :=
  match s.group? gid with
  | none => s
  | some g =>
    match g.outst.find? fun o => o.id = out with
    | some o => if o.awaited.isEmpty then deliver s gid out else s
    | none => s

/-- A group takes in the line of a load that one of its outstanding results awaits. -/
def Group.takeLine (g : Group) (m : LoadMsg) : Group :=
  if g.outst.any fun o => o.id = m.out then
    (g.saw m.bytes (verAt m.vers)).modOut m.out fun o => { o with
      awaited := o.awaited.filter fun l => l ≠ m.line, kind := o.kind.collect m.line m.data m.poison }
  else g

/-- A load's line arrives at its core (R85): a version older than the load may return is requested again (R184, R185). -/
def loadArrives (s : State) (m : LoadMsg) : State :=
  if loadStale s m m.vers then
    s.modLoad m.id fun m => { m with phase := if m.gateway.isSome then .toGateway else .toHome }
  else
    let s1 := installFill { s with loads := s.loads.filter fun x => x.id ≠ m.id } m
    deliverIfDone (s1.modGroup m.gid fun g => g.takeLine m) m.gid m.out

/-- The acknowledgement of a line write or an atomic at its group: USC and LGWCT (R181). -/
def Group.acked (g : Group) (gwct : Nat) : Group :=
  { g with usc := g.usc - 1, lgwct := BitVec.ofNat 64 (max g.lgwct.toNat gwct) }

/-- What is over before a buffered line write of a retired group is performed: the line writes of its core whose bytes it
had read before (R184). -/
def Ghost.after (x : Ghost) (w : BufWrite) : List Nat :=
  (x.reads.filter fun r => (bytesOn w.line w.bytes).contains r.2).map Prod.fst

/-- A line write or atomic of a retired group comes back: its next buffered write to the line is sent (R42, R182). -/
def ghostBack (s : State) (part : Nat) (issuer : Issuer) (line id gwct : Nat) : State :=
  match s.ghosts.findIdx? fun x => x.ids.contains id with
  | none => s
  | some i =>
    match s.ghosts[i]? with
    | none => s
    | some x =>
      let x1 := { x with ids := x.ids.filter (fun j => j ≠ id), lgwct := max x.lgwct gwct }
      match takeLine line x1.buf with
      | none => { s with ghosts := s.ghosts.set i x1 }
      | some (w, rest) =>
        let s1 := sendWrite s part issuer w false (x.after w)
        { s1 with ghosts := s1.ghosts.set i { x1 with ids := w.id :: x1.ids, buf := rest } }

/-- A memory atomic returns to its group (R181, R204). -/
def atomArrives (s : State) (a : AtomMsg) : State :=
  let s1 := { s with atoms := s.atoms.filter fun x => x.id ≠ a.id }
  match a.issuer with
  | .group g =>
    let s2 := s1.modGroup g fun x => ((x.saw (atomBytes a.ops) fun _ => a.ver).acked a.gwct).modOut a.out fun o => { o with
      awaited := o.awaited.filter fun l => l ≠ a.line
      kind := match o.kind with
        | .atom r m got p =>
          .atom r m (got ++ a.olds) (if a.poison then p ++ a.olds.map (fun x => (x.1, a.line)) else p)
        | k => k }
    sendNext (deliverIfDone s2 g a.out) g a.line
  | .past _ => ghostBack s1 a.part a.issuer a.line a.id a.gwct
  | .job core id =>
    let c := s1.core core
    let s2 := s1.setCore core { c with jobs := c.jobs.map fun j =>
      if j.id = id then { j with acks := j.acks - 1, gwct := max j.gwct a.gwct } else j }
    match (c.jobs.find? fun j => j.id = id) with
    | some j => if a.poison then raiseCstat s2 ⟨core, j.slot, j.grp⟩ id 4 else s2
    | none => s2
  | .mat _ _ => s1

/-- The group that holds an outstanding result whose bytes are all there, and is no `WAITM`. -/
def readyOut (s : State) (id : Nat) : Option Gid :=
  (List.range 48).findSome? fun c => ((s.core c).crews.zipIdx).findSome? fun x =>
    match x.1 with
    | none => none
    | some k => k.members.findSome? fun p =>
        if p.2.outst.any fun o => o.id = id && o.awaited.isEmpty
            && (match o.kind with | .waitm _ => false | _ => true) then some ⟨c, x.2, p.1⟩ else none

/-- LOAD_RESPONSE: a load's line, an atomic, or a load served by its own core reaches the registers (R85). -/
def execLoadResponse (msg : Nat) (s : State) : Out :=
  match s.loads.find? fun m => m.id = msg && m.phase = .response with
  | some m => .next (loadArrives s m)
  | none =>
    match s.atoms.find? fun a => a.id = msg && a.phase = .ack with
    | some a => .next (atomArrives s a)
    | none =>
      match readyOut s msg with
      | some g => .next (deliver s g msg)
      | none => .refused (.notEnabled "LOAD_RESPONSE")

/-- VARIABLE_LATENCY_RESULT: a result known at issue is written (R85). -/
def execVariableLatencyResult (core slot grp result : Nat) (s : State) : Out :=
  match s.group? ⟨core, slot, grp⟩ with
  | none => .refused (.notEnabled "VARIABLE_LATENCY_RESULT")
  | some g =>
    if g.outst.any fun o => o.id = result && o.kind.known then
      .next (deliver s ⟨core, slot, grp⟩ result)
    else .refused (.notEnabled "VARIABLE_LATENCY_RESULT")

/-! ### Writes and atomics at the home (R180, R189, R351) -/

/-- A line write message changed. -/
def State.modWrite (s : State) (id : Nat) (f : WriteMsg → WriteMsg) : State :=
  { s with writes := s.writes.map fun m => if m.id = id then f m else m }

/-- An atomic message changed. -/
def State.modAtom (s : State) (id : Nat) (f : AtomMsg → AtomMsg) : State :=
  { s with atoms := s.atoms.map fun m => if m.id = id then f m else m }

/-- Poison of a line after a write: a poisoned write poisons it, a write of the whole line without poison clears it. -/
def poisonAfter (ps : List Nat) (line : Nat) (poison whole : Bool) : List Nat :=
  if poison then (if ps.contains line then ps else line :: ps)
  else if whole then ps.filter fun l => l ≠ line
  else ps

/-- Poison that reaches a host agent is reported through AER (R370). -/
def aerPoison (s : State) (yes : Bool) : State :=
  if yes then { s with pkg := { s.pkg with aer := s.pkg.aer + 1 } } else s

/-- A core's copy of a line holds a store of the core that the home has just performed (R185). -/
def corePerformed (s : State) (m : WriteMsg) (ver : Nat) : State :=
  match m.issuer.gid? with
  | some g => s.setCore g.core ((s.core g.core).performed m.line m.bytes ver)
  | none => s

/-- A core whose group's atomic the home has just performed uses no older copy of its line any more: the atomic is a write of
the group, which a release at crew or core scope makes visible to the core's groups (R187, R188, R189). -/
def atomPerformed (s : State) (m : AtomMsg) (ver : Nat) : State :=
  match m.issuer.gid? with
  | some g =>
    let c := s.core g.core
    s.setCore g.core ({ c with cache := c.cache.filter fun h => h.line ≠ m.line }.see (atomBytes m.ops) ver)
  | none => s

/-- The acquires that the group of a write has made. -/
def issuerAcqs (s : State) (i : Issuer) : Nat :=
  match i with
  | .group g => match s.group? g with | some x => x.acqs | none => 0
  | _ => 0

/-- A line write performed at its home: the bytes, then the GWCT (R180). -/
def performWrite (s : State) (m : WriteMsg) : State :=
  let s1 := (linePut s m.line m.bytes).newVers (bytesOn m.line m.bytes)
  let s2 := aerPoison { s1 with
    poison := poisonAfter s1.poison m.line m.poison ((m.bytes.map Prod.fst).dedup.length = 128) } (m.shared && m.poison)
  let s3 := corePerformed s2 m s2.homeSeq
  s3.modWrite m.id fun m => { m with
    phase := .ack, gwct := s3.gwct m.line, ver := s3.homeSeq, acqs := issuerAcqs s m.issuer }

/-- A word at an address. -/
def wordAt (s : State) (a : Nat) : Word := BitVec.ofNat 32 (natLE ((List.range 4).map fun i => physByte s (a + i)))

/-- The operations of an atomic on its line, one after another (R204). -/
def atomOps (s : State) : List AtomOp → State × List (Nat × Word)
  | [] => (s, [])
  | o :: os =>
    let old := wordAt s o.addr
    let s1 := ((bytesLE 4 (atomValue o.op old o.v o.v2).toNat).zipIdx).foldl (fun s b => physPut s (o.addr + b.2) b.1) s
    let r := atomOps s1 os
    (r.1, (o.lane, old) :: r.2)

/-- A memory atomic performed at its home (R189, R204). -/
def performAtom (s : State) (m : AtomMsg) : State :=
  let r := atomOps s m.ops
  let s0 := atomPerformed (r.1.newVers (atomBytes m.ops)) m (r.1.homeSeq + 1)
  let s1 := aerPoison { s0 with poison := poisonAfter s0.poison m.line m.poison false } (m.shared && m.poison)
  s1.modAtom m.id fun m => { m with
    phase := .ack, olds := r.2, poison := s.poison.contains m.line, gwct := s1.gwct m.line, ver := s1.homeSeq }

/-- The lines that a port holds exclusive at most (R351). -/
def portLimit : Nat := 256

/-- The CXL port of a partition (R352). -/
def portOf (s : State) (part : Nat) : Nat := (s.part part).port

/-- A line may be held exclusive at a port: it is, or the port has room for one more (R351). -/
def portRoom (s : State) (port line : Nat) : Bool :=
  s.portLines.contains (port, line) || (s.portLines.filter fun x => x.1 = port).length < portLimit

/-- A line held exclusive at a port. -/
def State.holdPort (s : State) (port line : Nat) : State :=
  if s.portLines.contains (port, line) then s else { s with portLines := (port, line) :: s.portLines }

/-- A write or atomic on a line at a port is over: the port gives the line up when no other one is on it there (R351). -/
def State.leavePort (s : State) (port line id : Nat) : State :=
  let other := (s.writes.any fun w => w.id ≠ id && w.phase = .atPort && w.line = line && portOf s w.part = port)
    || s.atoms.any fun a => a.id ≠ id && a.phase = .atPort && a.line = line && portOf s a.part = port
  if other then s else { s with portLines := s.portLines.filter fun x => x ≠ (port, line) }

/-- A write or atomic of a partition that cannot be performed yet: an earlier message of its order is at work, matrix jobs
use its tile (R287), its slice moves (R364), or its port holds 256 other lines (R351). -/
def homeWaits (s : State) (part line : Nat) (shared : Bool) (after : List Nat) : Bool :=
  mustFollowMsgs s after || tileBusy s line || sliceMoving s line || (shared && !(portRoom s (portOf s part) line))

/-- HOME_WRITE: performed in arrival order; host copies of a line of device memory are back-invalidated first (R180, R350);
a line of host memory is performed at the CXL port (R180). -/
def execHomeWrite (msg : Nat) (s : State) : Out :=
  match s.writes.find? fun m => m.id = msg && m.phase = .toHome with
  | none => .refused (.notEnabled "HOME_WRITE")
  | some m =>
    if homeWaits s m.part m.line m.shared m.after then .refused (.notEnabled "HOME_WRITE")
    else if m.shared then
      .next ((s.holdPort (portOf s m.part) m.line).modWrite msg fun m => { m with phase := .atPort })
    else if s.hostCopies.contains m.line then .next (s.modWrite msg fun m => { m with phase := .backInval })
    else .next (performWrite s m)

/-- HOME_ATOMIC (R189). -/
def execHomeAtomic (msg : Nat) (s : State) : Out :=
  match s.atoms.find? fun m => m.id = msg && m.phase = .toHome with
  | none => .refused (.notEnabled "HOME_ATOMIC")
  | some m =>
    if homeWaits s m.part m.line m.shared m.after then .refused (.notEnabled "HOME_ATOMIC")
    else if m.shared then
      .next ((s.holdPort (portOf s m.part) m.line).modAtom msg fun m => { m with phase := .atPort })
    else if s.hostCopies.contains m.line then .next (s.modAtom msg fun m => { m with phase := .backInval })
    else .next (performAtom s m)

/-- BACK_INVALIDATION_RESPONSE: the host gives up its copy, and the held write is performed (R180), once what its bytes'
readers have seen or asked for before it is over (R183, R184). -/
def execBackInvalidationResponse (msg : Nat) (s : State) : Out :=
  match s.writes.find? fun m => m.id = msg && m.phase = .backInval with
  | some m =>
    if mustFollowMsgs s m.after then .refused (.notEnabled "BACK_INVALIDATION_RESPONSE")
    else .next (performWrite { s with hostCopies := s.hostCopies.filter fun l => l ≠ m.line } m)
  | none =>
    match s.atoms.find? fun m => m.id = msg && m.phase = .backInval with
    | some m => .next (performAtom { s with hostCopies := s.hostCopies.filter fun l => l ≠ m.line } m)
    | none => .refused (.notEnabled "BACK_INVALIDATION_RESPONSE")

/-- CXL_CACHE_GLOBALLY_OBSERVED: the write or atomic on host memory is done and the port gives up the line (R180, R351), for
a write once what its bytes' readers have seen or asked for before it is over (R183, R184). -/
def execCxlCacheGloballyObserved (msg : Nat) (s : State) : Out :=
  match s.writes.find? fun m => m.id = msg && m.phase = .atPort with
  | some m =>
    if mustFollowMsgs s m.after then .refused (.notEnabled "CXL_CACHE_GLOBALLY_OBSERVED")
    else .next (performWrite (s.leavePort (portOf s m.part) m.line m.id) m)
  | none =>
    match s.atoms.find? fun m => m.id = msg && m.phase = .atPort with
    | some m => .next (performAtom (s.leavePort (portOf s m.part) m.line m.id) m)
    | none => .refused (.notEnabled "CXL_CACHE_GLOBALLY_OBSERVED")

/-- A copy job's or matrix job's line write is acknowledged. -/
def jobAck (s : State) (m : WriteMsg) : State :=
  match m.issuer with
  | .job core id =>
    let c := s.core core
    s.setCore core { c with jobs := c.jobs.map fun j =>
      if j.id = id then { j with acks := j.acks - 1, gwct := max j.gwct m.gwct } else j }
  | .mat core id =>
    let c := s.core core
    s.setCore core { c with mats := c.mats.map fun j =>
      if j.id = id then { j with acks := j.acks - 1, gwct := max j.gwct m.gwct } else j }
  | _ => s

/-- STORE_ACK: LGWCT rises, USC falls, and the next buffered write to the line is sent (R181, R182). -/
def execStoreAck (msg : Nat) (s : State) : Out :=
  match s.writes.find? fun m => m.id = msg && m.phase = .ack with
  | none => .refused (.notEnabled "STORE_ACK")
  | some m =>
    let s1 := { s with writes := s.writes.filter fun x => x.id ≠ msg }
    match m.issuer with
    | .group g => .next (sendNext (s1.modGroup g fun x => x.acked m.gwct) g m.line)
    | .past _ => .next (ghostBack s1 m.part m.issuer m.line m.id m.gwct)
    | _ => .next (jobAck s1 m)

/-- CORE_CACHE_LINE_DROP (R177). -/
def execCoreCacheLineDrop (core line : Nat) (s : State) : Out :=
  let c := s.core core
  if c.cache.any fun h => h.line = line then
    .next (s.setCore core { c with cache := c.cache.filter fun h => h.line ≠ line })
  else .refused (.notEnabled "CORE_CACHE_LINE_DROP")

/-! ### Waits on memory and time (R138, R207) -/

/-- The condition of a `WAITM` (R207). -/
def waitmMet (cond : Nat) (w v : Word) : Bool :=
  match cond with
  | 0 => w ≠ v
  | 1 => w = v
  | _ => v.toNat ≤ w.toNat

/-- The least distance of two reads of a `WAITM`, in ticks (R207). -/
def waitmGap : Nat := 16

/-- Every group of the device. -/
def State.allGroups (s : State) : List Gid :=
  (List.range 48).flatMap fun c => ((s.core c).crews.zipIdx).flatMap fun x =>
    match x.1 with
    | none => []
    | some k => k.members.map fun p => ⟨c, x.2, p.1⟩

/-- The page request groups of a partition at most (R257). -/
def pageGroups : Nat := 512

/-- The pages of a partition that are requested and not answered. -/
def Partition.asked (p : Partition) : Nat := (p.pages.map fun g => g.pages.length).sum

/-- A page request group sent; none while no index is free or the host's allocation is used up (R257, R358). -/
def sendPageGroup (s : State) (part : Nat) (owner : Gid) (name : GroupName) (ctx : Word) (job out : Option Nat)
    (lanes : List (Nat × Nat)) (pages : List (Nat × Bool)) : Option (Nat × State) :=
  let p := s.part part
  if p.pageLimit < p.asked + pages.length then none
  else match (List.range pageGroups).find? fun i => !(p.pages.any fun g => g.index = i) with
    | none => none
    | some i => some (i, s.setPart part { p with pages := p.pages ++ [⟨i, owner, name, job, out, .live, lanes, pages, ctx⟩] })

/-- The page request group of a job that misses pages: each page is asked for once, for a write where the job writes it, and
of them as many as the host's allocation leaves room for; the job asks for the others once these are answered (DESIGN CHOICE
log 25: R230 does not say how a job's pages are grouped). -/
def sendJobPages (s : State) (part : Nat) (owner : Gid) (name : GroupName) (ctx : Word) (job : Nat)
    (miss : List (Nat × Bool)) : Option (Nat × State) :=
  let p := s.part part
  let pages := ((miss.map Prod.fst).dedup.map fun q => (q, miss.contains (q, true))).take (p.pageLimit - p.asked)
  if pages.isEmpty then none else sendPageGroup s part owner name ctx (some job) none [] pages

/-- A page request group of a resident group, for an access of its own or an outstanding `WAITM`. -/
def groupPages (s : State) (part : Nat) (gid : Gid) (out : Option Nat) (lanes : List (Nat × Nat))
    (pages : List (Nat × Bool)) : Option (Nat × State) :=
  match s.crew? gid.core gid.slot with
  | some k => sendPageGroup s part gid ⟨k.launch, k.index, gid.grp⟩ k.ctx none out lanes pages
  | none => none

/-- The most, in ticks (R207). -/
def waitmMost : Nat := 256

/-- A time before which a `WAITM` has read, 0 for one that has not. -/
def Waitm.age (w : Waitm) : Nat := match w.readAt with | some t => t + 1 | none => 0

/-- The `WAITM` of a group that reads next: it can read, it waits for no page, and its last read lies 16 ticks back; of
several the one that read longest ago. -/
def Group.nextWaitm (gt : Nat) (can : Outst × Waitm → Bool) (g : Group) : Option (Outst × Waitm) :=
  let due := g.waitms.filter fun x =>
    x.2.page.isNone && can x && (match x.2.readAt with | some t => decide (t + waitmGap ≤ gt) | none => true)
  due.foldl (fun b x => match b with
    | none => some x
    | some y => if x.2.age < y.2.age then some x else some y) none

/-- The group as a `WAITM` of an id sees it: the stores that were issued after it are none of its (R183). They have not left
the store buffer. -/
def Group.before (g : Group) (id : Nat) : Group := { g with buf := g.buf.filter fun w => w.id < id }

/-- The read of the `WAITM` of an id waits: for the group's earlier loads of the bytes, its atomics on them, or an earlier
`WAITM` that watches them (R183, R200); for a line write of its own that would split the word (R184); for matrix jobs on its
tile (R287), or a slice that moves (R364). -/
def readWaits (s : State) (gid : Gid) (g : Group) (id : Nat) (as : List Nat) : Bool :=
  atomTargets s gid as || watched s gid g id as || ackSplits s gid g as || !(groupLoads s gid as).isEmpty
    || (linesOf as).any fun line => tileBusy s line || sliceMoving s line

/-- The read of a `WAITM` does not have to wait. -/
def waitmCan (s : State) (gid : Gid) (part : Nat) (g : Group) (x : Outst × Waitm) : Bool :=
  !(readWaits s gid g x.1.id ((placeBytes (waitmPlaces s gid part x.2)).map Prod.fst))

/-- The word that the `WAITM` of an id watches, as a load of effective lease 0 reads it: at its home, below the line writes
of the core that are not performed and the group's own earlier stores (R183, R185, R207). -/
def waitmWord (s : State) (gid : Gid) (g : Group) (id : Nat) (as : List Nat) : Word :=
  let fwd := forwarded s gid (g.before id) as
  BitVec.ofNat 32 (natLE (as.map fun a => (overlay fwd a).getD (physByte s a)))

/-- The group after its `WAITM` has read a word (R207): the condition or the deadline ends the wait. -/
def Group.waitmRead (gt : Nat) (g : Group) (o : Outst) (w : Waitm) (v : Word) : Group :=
  let met := waitmMet w.cond v w.v
  if met || (w.deadline ≤ gt && w.deadline ≠ 2 ^ 64 - 1) then
    ((g.dropOut o.id).results 0 [(codeS w.sd, .scal v), (codeS (w.sd + 1), .scal (if met then 0 else 1))]).arrived
  else g.modOut o.id fun o => { o with kind := .waitm { w with readAt := some gt, granted := false } }

/-- A read of a `WAITM` of a word whose page no longer translates: as at any access, a page request, or trap 0x10 or 0x11;
the trap names the `WAITM`, and its result is not written (R196, R256, R257; the group may have gone on: DESIGN CHOICE
log 51). -/
def waitmMiss (s : State) (gid : Gid) (part page : Nat) (g : Group) (o : Outst) (w : Waitm) : Out :=
  let gone := s.setGroup gid (some (g.dropOut o.id).arrived)
  if w.granted then .next (resultDone (refusePage gone gid o.pc 0 page) gid)
  else if !(bitOf (s.part part).pctl.toNat 7) then .next (resultDone (takeTrapAt gone gid 0x10 o.pc 0x100) gid)
  else match groupPages s part gid (some o.id) [(0, page)] [(page, false)] with
    | none => .refused (.notEnabled "WAITM_POLL")
    | some (i, s1) => .next (s1.modGroup gid fun g => g.modOut o.id fun o => { o with kind := .waitm { w with page := some i } })

/-- A read of a `WAITM` (R207): what it has read joins what the group has seen (R184); poison takes the machine check
(R266). -/
def waitmReads (s : State) (gid : Gid) (part : Nat) (g : Group) (o : Outst) (w : Waitm) (as : List Nat) : State :=
  let fwd := forwarded s gid (g.before o.id) as
  match as.find? fun a => s.poison.contains (lineOf a) && (overlay fwd a).isNone with
  | some a => resultDone (machineCheck (s.setGroup gid (some (g.dropOut o.id))) gid o.pc 0 (lineOf a)) gid
  | none =>
    let s1 := (linesOf (fwd.map Prod.fst)).foldl (fun s line => observe s gid g line as) s
    let g1 := g.saw (as.filter fun a => (overlay fwd a).isNone) s.byteVer
    resultDone ((noteAccess s1 gid.core part w.obj [w.y] false).setGroup gid
      (some (g1.waitmRead s.gt o w (waitmWord s gid g o.id as)))) gid

/-- WAITM_POLL: a read of the watched word, at least 16 ticks after the last (R207). -/
def execWaitmPoll (core slot grp : Nat) (s : State) : Out :=
  let gid : Gid := ⟨core, slot, grp⟩
  match s.crew? core slot, s.group? gid with
  | some k, some g =>
    match (if g.halt = .cancelled then none else g.nextWaitm s.gt (waitmCan s gid k.part g)) with
    | none => .refused (.notEnabled "WAITM_POLL")
    | some (o, w) =>
      let ps := waitmPlaces s gid k.part w
      let as := (placeBytes ps).map Prod.fst
      match missPages ps with
      | page :: _ => waitmMiss s gid k.part page g o w
      | [] =>
        if as.length ≠ 4 then
          .next (resultDone (takeTrapAt (s.setGroup gid (some (g.dropOut o.id).arrived)) gid 0x11 o.pc 0) gid)
        else .next (waitmReads s gid k.part g o w as)
  | _, _ => .refused (.notEnabled "WAITM_POLL")

/-- The ticks that may pass before some `WAITM` that can read has read, at most 256 after its last read (R207). -/
def waitmSlack (s : State) (n : Nat) : Nat :=
  s.allGroups.foldl (fun n gid =>
    match s.crew? gid.core gid.slot, s.group? gid with
    | some k, some g => g.waitms.foldl (fun n x =>
        match x.2.readAt with
        | some t =>
          if x.2.page.isSome || g.halt = .cancelled || !(waitmCan s gid k.part g x)
              || !(missPages (waitmPlaces s gid k.part x.2)).isEmpty then n
          else min n (t + waitmMost - s.gt)
        | none => n) n
    | _, _ => n) n

/-- WAITGT_DEADLINE (R138). -/
def execWaitgtDeadline (core slot grp : Nat) (s : State) : Out :=
  match s.group? ⟨core, slot, grp⟩ with
  | some g =>
    match g.wait with
    | .gt t =>
      if t ≤ s.gt then .next (s.setGroup ⟨core, slot, grp⟩ (some { g with wait := .none }))
      else .refused (.notEnabled "WAITGT_DEADLINE")
    | _ => .refused (.notEnabled "WAITGT_DEADLINE")
  | none => .refused (.notEnabled "WAITGT_DEADLINE")

/-- The ticks that the watchdog allows in user handler state (R251). -/
def watchdogTicks : Nat := 16777216

/-- A trap that is being taken stands against the watchdog's: the watchdog's own, or a machine check. -/
def Wait.pastWatchdog (w : Wait) : Bool := (w.standing 0 0 0).1 = 0x50 || match w with
  | .trap c _ _ => c = 0x51
  | .esc (some x) => x.1 = 0x51
  | _ => false

/-- WATCHDOG: trap 0x51 and event kind 13 (R251). A group that is parked in its handler waits no longer: TPC is the next
instruction that it would issue, so that a plain `RFT` goes on behind what it waited for (R251 does not say; DESIGN CHOICE
log 62). -/
def execWatchdog (core slot grp : Nat) (s : State) : Out :=
  let gid : Gid := ⟨core, slot, grp⟩
  match s.group? gid with
  | some g =>
    if g.state = .user && g.userSince + watchdogTicks ≤ s.gt && !g.wait.pastWatchdog then
      let n := s.gt - g.userSince
      let s1 := takeTrapAt s gid 0x51 g.pc (BitVec.ofNat 32 n)
      .next (s1.groupEvent gid 13 0x51 g.pc (BitVec.ofNat 32 n) n)
    else .refused (.notEnabled "WATCHDOG")
  | none => .refused (.notEnabled "WATCHDOG")

/-- The clocks after which a ready group goes ahead of every other (R53), in twelfths of a nominal clock. -/
def starveTicks : Nat := 1024 * 12

/-- ISSUE_STARVATION (R53). -/
def execIssueStarvation (core slot grp : Nat) (s : State) : Out :=
  match s.group? ⟨core, slot, grp⟩ with
  | some g =>
    if g.wait = .none && g.halt = .running && starveTicks ≤ g.ready && !g.starved then
      .next (s.setGroup ⟨core, slot, grp⟩ (some { g with starved := true }))
    else .refused (.notEnabled "ISSUE_STARVATION")
  | none => .refused (.notEnabled "ISSUE_STARVATION")

/-! ### Pages (R256 to R258, R358) -/

/-- A group whose pages are gathered: trap 0x10 while the host takes no page requests, else one page request group, or the
wait for an index (R257). -/
def requestPages (s : State) (gid : Gid) : State :=
  match s.crew? gid.core gid.slot, s.group? gid with
  | some k, some g =>
    match g.wait with
    | .pageIndex lanes pages _ =>
      if !(bitOf (s.part k.part).pctl.toNat 7) then
        let lane := (lanes.map Prod.fst).foldl min 127
        takeTrapAt s gid 0x10 g.pc (BitVec.ofNat 32 (lane + 256 * ((pages.map Prod.fst).dedup.length)))
      else match groupPages s k.part gid none lanes pages with
        | none => s
        | some (i, s1) => s1.setGroup gid (some { g with wait := .page i })
    | _ => s
  | _, _ => s

/-- The groups that wait for an index are served again. -/
def servePages (s : State) : State := s.allGroups.foldl requestPages s

/-- A page that a request group names and the host still does not map, else its first page. -/
def refusedPage (s : State) (pasid : Nat) (g : PageGroup) : Nat :=
  match g.pages.find? fun x => (findPage s.hostPages pasid x.1 x.2).isNone with
  | some x => x.1
  | none => (g.pages.head?.map Prod.fst).getD 0

/-- A page response for a `WAITM` of a group (R207, R257). -/
def waitmAnswer (s : State) (part : Nat) (pg : PageGroup) (g : Group) (out : Nat) (code : PageCode) : State :=
  match g.waitms.find? fun x => x.1.id = out with
  | none => s
  | some (o, w) =>
    if code = PageCode.success then
      s.setGroup pg.owner (some (g.modOut out fun o => { o with kind := .waitm { w with page := none, granted := true } }))
    else resultDone (refusePage (s.setGroup pg.owner (some (g.dropOut out).arrived)) pg.owner o.pc 0
      (refusedPage s (s.part part).pasid pg)) pg.owner

/-- A page response for a group (R257). One that a trap has taken off its wait meanwhile is concerned no more: nothing
happens, and nothing is counted (R258, DEDUCED log 62). -/
def pageAnswer (s : State) (part : Nat) (pg : PageGroup) (code : PageCode) : State :=
  match s.group? pg.owner with
  | none => s
  | some g =>
    match pg.out with
    | some out => waitmAnswer s part pg g out code
    | none =>
      if g.wait ≠ .page pg.index then s
      else if code = PageCode.success then
        s.setGroup pg.owner (some { g with wait := .none, granted := pg.pages.map Prod.fst })
      else
        let page := refusedPage s (s.part part).pasid pg
        let lane := ((pg.lanes.find? fun x => x.2 = page).map Prod.fst).getD ((pg.lanes.head?.map Prod.fst).getD 0)
        refusePage s pg.owner g.pc lane page

/-- A page response for a copy job: it goes on, or skips the page, with CSTAT[2] and event kind 7 (R230). -/
def jobAnswer (s : State) (part : Nat) (pg : PageGroup) (job : Nat) (code : PageCode) : State :=
  let c := s.core pg.owner.core
  let refused := if code = PageCode.success then [] else pg.pages.map Prod.fst
  let owners := match c.mats.find? fun j => j.id = job with
    | some j => j.owners.map fun (o : Nat × Word) => (⟨pg.owner.core, j.slot, o.1⟩ : Gid)
    | none => [pg.owner]
  let s1 := s.setCore pg.owner.core { c with
    jobs := c.jobs.map fun j =>
      if j.id = job then { j with page := none, skipped := j.skipped ++ refused } else j
    mats := c.mats.map fun j =>
      if j.id = job then { j with page := none, skipped := j.skipped ++ refused } else j }
  let s2 := if refused.isEmpty then s1 else owners.foldl (fun s g => raiseCstat s g job 2) s1
  refused.foldl (fun s q => s.postEvent part
    { kind := 7, core := pg.owner.core, slot := pg.owner.slot, grp := pg.owner.grp, ctx := pg.ctx.toNat
      info := q * 4096 }) s2

/-- PAGE_RESPONSE: `frames` are the pages of host memory that the host gives the requested pages (R257). A response whose
group was halted by a cancel, or whose context is retired, is discarded and counts as stale; one for a saved group is
discarded (R258). One of a job lets the job go on by R230 in every case, as R258 has it, one of a retired context among them
(which also counts: DEDUCED log 62). -/
def execPageResponse (part index : Nat) (code : PageCode) (frames : List Nat) (s : State) : Out :=
  let p := s.part part
  match p.pages.find? fun g => g.index = index with
  | none => .refused (.notEnabled "PAGE_RESPONSE")
  | some pg =>
    let mapped := if code = PageCode.success then
        (pg.pages.zip frames).map fun x => (⟨p.pasid, x.1.1, x.2, true⟩ : HostPage)
      else []
    let stale := pg.fate = .cancelled || p.retired.contains pg.ctx
    let kept := !stale && pg.fate ≠ .saved
    let fails := kept && code = PageCode.responseFailure
    let s1 := { s with hostPages := mapped ++ s.hostPages }.setPart part { p with
      pages := p.pages.filter fun g => g.index ≠ index
      sprc := if stale then p.sprc + 1 else p.sprc
      pctl := if fails then p.pctl &&& ~~~ 0x80 else p.pctl }
    let s2 := if fails then
        s1.postEvent part { kind := 2, core := pg.owner.core, slot := pg.owner.slot, grp := pg.owner.grp
                            ctx := pg.ctx.toNat, info := refusedPage s p.pasid pg * 4096 }
      else s1
    let s3 := match pg.job with
      | some j => jobAnswer s2 part pg j code
      | none => if kept then pageAnswer s2 part pg code else s2
    .next (servePages s3)

/-- Every line write that waits in a store buffer: of a resident, a retired or a saved group. -/
def State.buffered (s : State) : List BufWrite :=
  (s.allGroups.flatMap fun g => match s.group? g with | some x => x.buf | none => [])
    ++ s.ghosts.flatMap Ghost.buf
    ++ s.launches.flatMap fun l => l.saved.flatMap fun v => v.2.crew.members.flatMap fun x => x.2.buf

/-- ATS_INVALIDATION: complete once every access that used the pages is performed, buffered line writes among them; a
run-ahead and its probes are over within their step (R358). -/
def execAtsInvalidation (part va pages : Nat) (s : State) : Out :=
  let pasid := (s.part part).pasid
  let gone (h : HostPage) : Bool := h.pasid = pasid && va / 4096 ≤ h.page && h.page < va / 4096 + pages
  let frames := ((s.hostPages.filter gone) ++ (s.dies.flatMap fun d => d.atc.filter gone)).map HostPage.frame
  let uses (line : Nat) : Bool := frames.contains (line / 32)
  if (s.loads.any fun m => uses m.line) || (s.writes.any fun m => m.phase ≠ .ack && uses m.line)
      || (s.atoms.any fun m => m.phase ≠ .ack && uses m.line) || s.buffered.any (fun w => uses w.line) then .refused (.notEnabled "ATS_INVALIDATION")
  else .next { s with
    hostPages := s.hostPages.filter fun h => !(gone h)
    dies := s.dies.map fun d => { d with atc := d.atc.filter fun h => !(gone h) } }

end Sys2Proof.Machine
end

