-- ==== Sys2Proof/Machine/Copy.lean ====
section
/-! DEFINITION. The copy engine: job instructions, batches, tokens and barrier objects (opcodes 0xC0 to 0xCC, R227 to R242), the footprint tracker (R190 to R193), and the steps of a job. -/

namespace Sys2Proof.Machine

open Sys2Proof

/-! ### Footprints (R190, R191) -/

/-- Two half-open ranges share a place. -/
def rangesMeet (a b c d : Nat) : Bool := a < d && c < b

/-- Two footprint ranges overlap. -/
def Span.meets : Span → Span → Bool
  | .lines o a b, .lines p c d => o = p && rangesMeet a b c d
  | .granules a b, .granules c d => rangesMeet a b c d
  | .tiles a b, .tiles c d => rangesMeet a b c d
  | _, _ => false

/-- Whether some ranges of two lists overlap. -/
def spansMeet (xs ys : List Span) : Bool := xs.any fun x => ys.any x.meets

/-- Two jobs are ordered: a write range of one overlaps a range of the other (R191). -/
def footprintsMeet (r1 w1 r2 w2 : List Span) : Bool :=
  spansMeet w1 r2 || spansMeet w1 w2 || spansMeet w2 r1

/-- An earlier job of the crew, by its launch and index, that a job waits for (R191). -/
def mustFollow (c : Core) (launch crew id : Nat) (reads writes : List Span) : Bool :=
  (c.jobs.any fun j => j.launch = launch && j.crew = crew && j.id < id && footprintsMeet j.reads j.writes reads writes)
    || (c.mats.any fun j => j.launch = launch && j.crew = crew && j.id < id
      && footprintsMeet j.reads j.writes reads writes)

/-- The footprint of n bytes of a side from a byte on. -/
def sideSpan (x : Side) (n : Nat) : List Span :=
  if n = 0 then []
  else match x with
    | .scratch o => [.granules (o / 128) ((o + n - 1) / 128 + 1)]
    | .mem obj y => [.lines obj (y / 128) ((y + n - 1) / 128 + 1)]

/-- Byte i of a side. -/
def Side.add : Side → Nat → Side
  | .scratch o, i => .scratch (o + i)
  | .mem obj y, i => .mem obj (y + i)

/-! ### Checks at issue (R228) -/

/-- A failure: its cause and TVAL. -/
abbrev Failure := Nat × Word

/-- The failure taken: the lowest cause, and of it the first item (R228). -/
def firstFailure (xs : List Failure) : Option Failure :=
  match leastCause (xs.map Prod.fst) with
  | none => none
  | some c => xs.find? fun x => x.1 = c

/-- The failures of n bytes at offset o of a capability; an empty range passes every range check (R171, R228). -/
def memRange (s : State) (part : Nat) (st : GState) (cap : BitVec 128) (o n align : Nat) (rs : List Right) :
    List Failure :=
  let bad := (accWindow? (capObj cap)).isNone && capObj cap ≠ 0
    && entryMalformed (s.part part) (objEntry s part (capObj cap))
  let cs := (rs.flatMap fun r => accessCauses s part st cap o n r).filter fun c =>
    c ≠ 0x0A && (n ≠ 0 || c = 0x09 || (c = 0x11 && bad))
  (cs ++ (if o % align ≠ 0 || (capBase cap + o) % align ≠ 0 then [0x0A] else [])).map fun c => (c, BitVec.ofNat 32 o)

/-- The failures of n bytes at a scratchpad offset (R198, R228). -/
def scratchRange (granules : List Nat) (o n align : Nat) : List Failure :=
  ((if o % align ≠ 0 then [0x0A] else []) ++ (if n ≠ 0 && scratchBytes granules < o + n then [0x0B] else [])).map
    fun c => (c, BitVec.ofNat 32 o)

/-- A length or count that must be a multiple of 4. -/
def lengthCheck (n : Word) : List Failure := if n.toNat % 4 ≠ 0 then [(0x0A, n)] else []

/-- The job slots of a core (R228). -/
def jobSlots : Nat := 32

/-- A job's part that every description shares; `addJob` fills in the rest. -/
structure JobSpec where
  kind : JobKind
  reads : List Span
  writes : List Span

/-- Batch b is covered by n (R239). -/
def coveredBy (n b : Word) : Bool := (n - b).toNat < 2 ^ 31

/-- The closed batches of a group that a token covers, which it waits for (R240). -/
def JobKind.covers (j : JobKind) (g : Group) : List Batch :=
  match j with
  | .token n _ _ _ _ => g.closed.filter fun b => coveredBy n b.num
  | _ => []

/-- A job of a group is created, or, when it moves nothing, is complete at once; the group is held while no slot is free
(R228). -/
def addJob (s : State) (q : Desc) (g : Group) (k : Crew) (j : Option JobSpec) : Out :=
  let c := s.core s.cur.core
  if jobSlots ≤ c.jobs.length then .next (holdIssue s)
  else match j with
    | none => .next (finish s q g)
    | some x =>
      let (id, s1) := s.fresh
      let covered := x.kind.covers g
      let job : Job :=
        { id := id, part := k.part, launch := k.launch, crew := k.index, ctx := k.ctx, granules := k.granules, slot := s.cur.slot
          grp := s.cur.grp, batch := g.batch + 1, kind := x.kind, reads := x.reads, writes := x.writes
          after := storesOf s s.cur g ++ covered.flatMap Batch.jobs, dueAt := (covered.map Batch.gwct).foldl max 0
          started := false, acks := 0, gwct := 0, skipped := [], page := none }
      .next (finish (s1.setCore s.cur.core { c with jobs := c.jobs ++ [job] }) q
        { g with openJobs := g.openJobs ++ [id] })

/-- A job instruction (R228): its scalars, its failures, then the job. Objects that it names are in use (R356). -/
def jobInstr (q : Desc) (s : State) (f : Group → Crew → List Failure × List (BitVec 128) × Option JobSpec) : Out :=
  issue q s fun g _ =>
    match s.crew? s.cur.core s.cur.slot with
    | none => .next s
    | some k =>
      if acquirePending g then .next (holdIssue s)
      else
        let (fails, caps, job) := f g k
        match firstFailure fails with
        | some (cause, tval) => .next (takeTrap s cause tval)
        | none => addJob (caps.foldl (fun s c => s.cacheEntry k.part (capObj c)) s) q g k job

/-- A side of a linear copy: memory through a capability, or scratchpad. -/
def copySide (mem : Bool) (cap : BitVec 128) (o : Nat) : Side :=
  if mem then .mem (capObj cap) (capBase cap + o) else .scratch o

/-- The failures of one side of a linear copy (R233). -/
def copyRange (s : State) (k : Crew) (st : GState) (mem : Bool) (cap : BitVec 128) (o n : Nat) (rs : List Right) :
    List Failure :=
  if mem then memRange s k.part st cap o n 4 rs else scratchRange k.granules o n 4

/-- CPY and CRED: the operands and checks of R233. -/
def linearJob (q : Desc) (a c d r : Nat) (rs : List Right) (mk : Side → Side → Nat → JobSpec) (s : State) : Out :=
  let srcMem := r < 2
  let dstMem := r = 0 || r = 2
  let q := { q with reads := codesS a 3 ++ (if srcMem then [codeC c] else []) ++ (if dstMem then [codeC d] else []) }
  jobInstr q s fun g k =>
    let so := (g.regs.readS a).toNat
    let o := (g.regs.readS (a + 1)).toNat
    let n := (g.regs.readS (a + 2)).toNat
    let cs := getAt 0 g.regs.c c
    let cd := getAt 0 g.regs.c d
    (copyRange s k g.state srcMem cs so n [.read] ++ copyRange s k g.state dstMem cd o n rs
        ++ lengthCheck (g.regs.readS (a + 2)),
     (if srcMem then [cs] else []) ++ (if dstMem then [cd] else []),
     if n = 0 then none else some (mk (copySide srcMem cs so) (copySide dstMem cd o) n))

/-- CPY (R233). -/
def execCpy (st : BitVec 3) (a : BitVec 6) (c d : BitVec 4) (r : BitVec 2) (s : State) : Out :=
  linearJob { word := encode (.cpy st a c d r), op := 0xC0, st := st.toNat } a.toNat c.toNat d.toNat r.toNat [.write]
    (fun x y n => ⟨.copy x y n, sideSpan x n, sideSpan y n⟩) s

/-- CRED (R233, R235): a memory destination needs ATOMIC as well as WRITE. -/
def execCred (st : BitVec 3) (a : BitVec 6) (c d : BitVec 4) (o r : BitVec 2) (s : State) : Out :=
  linearJob { word := encode (.cred st a c d o r), op := 0xC5, st := st.toNat } a.toNat c.toNat d.toNat r.toNat
    [.write, .atomic]
    (fun x y n => ⟨.reduce x y n o.toNat, sideSpan x n ++ sideSpan y n, sideSpan y n⟩) s

/-! ### Layout records (R234, R269) -/

/-- BASE. -/
def layBase (l : BitVec 256) : Nat := bitsOf l.toNat 31 0
/-- ETYPE. -/
def layEtype (l : BitVec 256) : Nat := bitsOf l.toNat 35 32
/-- The element size es. -/
def layEs (l : BitVec 256) : Nat := 2 ^ bitsOf l.toNat 37 36
/-- Extent i. -/
def layExtent (l : BitVec 256) (i : Nat) : Nat := bitsOf l.toNat (79 + 16 * i) (64 + 16 * i)
/-- Stride i. -/
def layStride (l : BitVec 256) (i : Nat) : Int := signedOf 32 (bitsOf l.toNat (159 + 32 * i) (128 + 32 * i))
/-- The product of the extents. -/
def layCount (l : BitVec 256) : Nat := layExtent l 0 * layExtent l 1 * layExtent l 2 * layExtent l 3

/-- The byte displacements of a record's elements, in the order i3, i2, i1, i0 (R234). -/
def layWalk (l : BitVec 256) : List Int :=
  (List.range (layExtent l 3)).flatMap fun i3 => (List.range (layExtent l 2)).flatMap fun i2 =>
    (List.range (layExtent l 1)).flatMap fun i1 => (List.range (layExtent l 0)).map fun i0 =>
      layEs l * (i0 * layStride l 0 + i1 * layStride l 1 + i2 * layStride l 2 + i3 * layStride l 3)

/-- The failures of a memory walk from offset o: each element by R171; TVAL is the offset of the first failing element
(R228, R234). -/
def walkFailures (s : State) (part : Nat) (st : GState) (cap : BitVec 128) (l : BitVec 256) (o : Nat) (r : Right) :
    List Failure :=
  (layWalk l).flatMap fun x =>
    let m : Int := o + x
    let es := layEs l
    let cs := if m < 0 then (accessCauses s part st cap 0 es r).filter (fun c => c = 0x09) ++ [0x08]
      else (accessCauses s part st cap m.toNat es r)
    let cs := if m % es ≠ 0 then 0x0A :: cs else cs
    cs.map fun c => (c, BitVec.ofInt 32 m)

/-- The footprint of a walk in memory: the lines of its elements. -/
def walkSpans (obj base : Nat) (l : BitVec 256) : List Span :=
  ((layWalk l).map fun x => ((base + x : Int).toNat / 128)).dedup.map fun n => .lines obj n (n + 1)

/-- CPYT (R234): memory is the source with capability csrc, or the destination with capability cdst (R232). -/
def execCpyt (st : BitVec 3) (a : BitVec 6) (c d : BitVec 4) (l : BitVec 3) (r : BitVec 1) (s : State) : Out :=
  let q : Desc := { word := encode (.cpyt st a c d l r), op := 0xC1, st := st.toNat
                    reads := codesS a.toNat 2 ++ [codeC (if r = 1 then d.toNat else c.toNat)] }
  jobInstr q s fun g k =>
    let toMem := r = 1
    let lay := getAt 0 g.regs.lay l.toNat
    let o := (g.regs.readS a.toNat).toNat
    let x := (g.regs.readS (a.toNat + 1)).toNat
    let cap := getAt 0 g.regs.c (if r = 1 then d.toNat else c.toNat)
    let es := layEs lay
    let n := es * layCount lay
    let mem := walkFailures s k.part g.state cap lay o (if toMem then .write else .read)
    let scratch := scratchRange k.granules x n es
    let base := capBase cap + o
    let ms := walkSpans (capObj cap) base lay
    let ss := sideSpan (.scratch x) n
    (if layCount lay = 0 then [(0x02, q.word)] else if toMem then scratch ++ mem else mem ++ scratch,
     [cap],
     some ⟨.tile (capObj cap, base) x lay toMem, if toMem then ss else ms, if toMem then ms else ss⟩)

/-- CPYM (R237). -/
def execCpym (st : BitVec 3) (a : BitVec 6) (c : BitVec 4) (o : BitVec 3) (r : BitVec 1) (s : State) : Out :=
  let mem := r = 0
  let q : Desc := { word := encode (.cpym st a c o r), op := 0xC2, st := st.toNat
                    reads := codesS a.toNat 3 ++ (if mem then [codeC c.toNat] else []) }
  jobInstr q s fun g k =>
    let so := (g.regs.readS a.toNat).toNat
    let d := (g.regs.readS (a.toNat + 1)).toNat
    let w := (g.regs.readS (a.toNat + 2)).toNat
    let mask := w % 65536
    let n := 128 * (w / 65536)
    let cap := getAt 0 g.regs.c c.toNat
    let (peers, bind, bytes) := match s.launch? k.launch with
      | some l => (l.block.peers, l.block.bind, l.block.scratch)
      | none => (0, [], 0)
    let named := (List.range 16).filter fun i => bitOf mask i
    let src := if mem then memRange s k.part g.state cap so n 4 [.read] else scratchRange k.granules so n 1
    let dst := ((if d % 128 ≠ 0 then [0x0A] else []) ++ (if n ≠ 0 && bytes < d + n then [0x0B] else [])).map
      fun c => (c, BitVec.ofNat 32 d)
    (src ++ dst ++ (if mask / 2 ^ peers ≠ 0 then [(0x02, BitVec.ofNat 32 mask)] else []),
     if mem then [cap] else [],
     if n = 0 || mask = 0 then none
     else
       let x := copySide mem cap so
       some ⟨.multicast x d n (named.map fun i => getAt 0 bind i) o.toNat, sideSpan x n, []⟩)

/-- The table of a gather or scatter: its rights, and its whole range where some row is named (R228, R229, R236). -/
def tableCheck (s : State) (k : Crew) (st : GState) (cap : BitVec 128) (count : Nat) (r : Right) : List Failure :=
  (memRange s k.part st cap 0 (if count = 0 then 0 else capLen cap) 1 [r])

/-- CPYG (R236): of the source side the table's failures stand before the list's (DESIGN CHOICE log 25: R228 does not say
which of the two TVAL names). -/
def execCpyg (st : BitVec 3) (a : BitVec 6) (c f : BitVec 4) (s : State) : Out :=
  let q : Desc := { word := encode (.cpyg st a c f), op := 0xC3, st := st.toNat
                    reads := codesS a.toNat 3 ++ [codeC c.toNat] }
  jobInstr q s fun g k =>
    let li := (g.regs.readS a.toNat).toNat
    let d := (g.regs.readS (a.toNat + 1)).toNat
    let n := (g.regs.readS (a.toNat + 2)).toNat
    let z := 4 * 2 ^ f.toNat
    let cap := getAt 0 g.regs.c c.toNat
    (tableCheck s k g.state cap n .read ++ scratchRange k.granules li (4 * n) 4 ++ scratchRange k.granules d (n * z) 4,
     [cap],
     if n = 0 then none
     else some ⟨.gather li (capObj cap) (capBase cap) (capLen cap) d n z,
       sideSpan (.scratch li) (4 * n) ++ sideSpan (.mem (capObj cap) (capBase cap)) (capLen cap),
       sideSpan (.scratch d) (n * z)⟩)

/-- CPYS (R236): of the source side the data's failures stand before the list's (DESIGN CHOICE log 25: R228 does not say
which of the two TVAL names). -/
def execCpys (st : BitVec 3) (a : BitVec 6) (c f : BitVec 4) (s : State) : Out :=
  let q : Desc := { word := encode (.cpys st a c f), op := 0xC4, st := st.toNat
                    reads := codesS a.toNat 3 ++ [codeC c.toNat] }
  jobInstr q s fun g k =>
    let so := (g.regs.readS a.toNat).toNat
    let li := (g.regs.readS (a.toNat + 1)).toNat
    let n := (g.regs.readS (a.toNat + 2)).toNat
    let z := 4 * 2 ^ f.toNat
    let cap := getAt 0 g.regs.c c.toNat
    (scratchRange k.granules so (n * z) 4 ++ scratchRange k.granules li (4 * n) 4 ++ tableCheck s k g.state cap n .write,
     [cap],
     if n = 0 then none
     else some ⟨.scatter so li (capObj cap) (capBase cap) (capLen cap) n z,
       sideSpan (.scratch so) (n * z) ++ sideSpan (.scratch li) (4 * n),
       sideSpan (.mem (capObj cap) (capBase cap)) (capLen cap)⟩)

/-! ### Batches and tokens (R193, R238 to R240) -/

/-- A closed batch is visible at a scope at a time (R193): scopes 2 and 3 are dev and sys. -/
def Batch.visible (b : Batch) (scope gt : Nat) : Bool := b.jobs.isEmpty && (scope < 2 || b.gwct ≤ gt)

/-- Every batch covered by n is visible at a scope (R193, R239). -/
def Group.batchesVisible (g : Group) (n : Word) (scope gt : Nat) : Bool :=
  g.closed.all fun b => !(coveredBy n b.num) || b.visible scope gt

/-- The copy status as it stands in a register (R230, R239). -/
def Group.cstatWord (g : Group) : Word := g.cstat.zeroExtend 32 <<< 1

/-- The closed batches that a group holds at most (R238). -/
def batchLimit : Nat := 16

/-- CBATCH (R238). -/
def execCbatch (st : BitVec 3) (d : BitVec 6) (s : State) : Out :=
  let q : Desc := { word := encode (.cbatch st d), op := 0xC6, st := st.toNat, writes := [codeS d.toNat] }
  issue q s fun g _ =>
    if batchLimit ≤ (g.closed.filter fun b => !(b.jobs.isEmpty)).length then .next (holdIssue s)
    else
      let n := g.batch + 1
      let old := g.closed.filter fun b => !(b.visible 2 s.gt)
      let g1 := { g with batch := n, openJobs := [], openGwct := 0, closed := old ++ [(⟨n, g.openJobs, g.openGwct⟩ : Batch)] }
      .next (finish s q (g1.result 0 (codeS d.toNat) (.scal n)))

/-- The end of a `CWAIT` (R239). -/
def Group.cwaitDone (g : Group) (sd : Nat) : Group :=
  { (g.acquire.result 0 (codeS sd) (.scal (1 ||| g.cstatWord))) with cstat := 0, wait := .none }

/-- CWAIT (R239). -/
def execCwait (st : BitVec 3) (d : BitVec 6) (c : BitVec 2) (s : State) : Out :=
  let q : Desc := { word := encode (.cwait st d c), op := 0xC7, st := st.toNat, reads := [codeS d.toNat]
                    writes := [codeS d.toNat] }
  issue q s fun g _ =>
    let n := g.regs.readS d.toNat
    if g.batchesVisible n c.toNat s.gt then .next (finish s q (g.cwaitDone d.toNat))
    else .next ((finish s q g).modGroup s.cur fun x => { x with wait := .cwait c.toNat n d.toNat })

/-- CTEST (R239). -/
def execCtest (st : BitVec 3) (d : BitVec 6) (c : BitVec 2) (s : State) : Out :=
  let q : Desc := { word := encode (.ctest st d c), op := 0xC8, st := st.toNat, reads := [codeS d.toNat]
                    writes := [codeS d.toNat] }
  issue q s fun g _ =>
    let met := g.batchesVisible (g.regs.readS d.toNat) c.toNat s.gt
    let v := if met then 1 ||| g.cstatWord else g.cstatWord
    let (id, s1) := s.fresh
    .next (finish s1 q ((if met then g.acquire else g).outValue id [(codeS d.toNat, .scal v)] g.pc))

/-- A group that waits for batches that have become visible goes on (R239). -/
def tryCwait (s : State) (gid : Gid) : State :=
  match s.group? gid with
  | none => s
  | some g =>
    match g.wait with
    | .cwait scope n sd =>
      if g.batchesVisible n scope s.gt then s.setGroup gid (some (g.cwaitDone sd)) else s
    | _ => s

/-- CTOKEN (R240). -/
def execCtoken (st : BitVec 3) (c : BitVec 4) (a b : BitVec 6) (f : BitVec 3) (s : State) : Out :=
  let wide := f = 1
  let q : Desc := { word := encode (.ctoken st c a b f), op := 0xC9, st := st.toNat
                    reads := codeS a.toNat :: codesS b.toNat (if wide then 3 else 2) ++ [codeC c.toNat] }
  jobInstr q s fun g k =>
    let n := g.regs.readS a.toNat
    let o := (g.regs.readS b.toNat).toNat
    let size := if wide then 8 else 4
    let cap := getAt 0 g.regs.c c.toNat
    let val := if wide then pairOf (g.regs.readS (b.toNat + 1)) (g.regs.readS (b.toNat + 2))
      else (g.regs.readS (b.toNat + 1)).zeroExtend 64
    let ahead := (n - g.batch).toNat
    let y := capBase cap + o
    (((accessCauses s k.part g.state cap o size .write).map fun c => (c, BitVec.ofNat 32 o))
        ++ (if 1 ≤ ahead && ahead < 2 ^ 31 then [(0x02, n)] else []),
     [cap],
     some ⟨.token n (capObj cap) y val size, [], sideSpan (.mem (capObj cap) y) size⟩)

/-! ### Barrier objects (R241) -/

/-- BOINIT (R241). -/
def execBoinit (st : BitVec 3) (n : BitVec 3) (a : BitVec 6) (s : State) : Out :=
  let q : Desc := { word := encode (.boinit st n a), op := 0xCA, st := st.toNat, reads := [codeS a.toNat] }
  issue q s fun g _ =>
    let v := (g.regs.readS a.toNat).zeroExtend 64
    crewOp s q g fun k _ =>
      let o := k.obj n.toNat
      { k with objs := setAt BarObj.start k.objs n.toNat ⟨o.count + v, true⟩ }.wakeObj n.toNat

/-- BOWAIT (R241). -/
def execBowait (st : BitVec 3) (n : BitVec 3) (s : State) : Out :=
  let q : Desc := { word := encode (.bowait st n), op := 0xCB, st := st.toNat }
  issue q s fun g _ =>
    crewOp s q g fun k x =>
      (k.setGroup s.cur.grp (some { x with wait := .bowait n.toNat })).wakeObj n.toNat

/-- BOTEST (R241). -/
def execBotest (st : BitVec 3) (d : BitVec 6) (n : BitVec 3) (s : State) : Out :=
  let q : Desc := { word := encode (.botest st d n), op := 0xCC, st := st.toNat, writes := [codeS d.toNat] }
  issue q s fun g _ =>
    let met := match s.crew? s.cur.core s.cur.slot with | some k => (k.obj n.toNat).done | none => false
    let (id, s1) := s.fresh
    let g1 := (if met then g.acquire else g).outValue id [(codeS d.toNat, .scal (if met then 1 else 0))] g.pc
    crewOp s1 q g1 fun k _ =>
      if met then { k with objs := setAt BarObj.start k.objs n.toNat { k.obj n.toNat with armed := false } } else k

/-! ### A job at work (R228 to R237) -/

/-- Where a byte of a job lies. -/
inductive Loc where
  | scratch (o : Nat)
  | mem (a lease : Nat) (host : Bool)
  deriving DecidableEq, Repr

/-- The place of a byte of a side. -/
def Side.place (x : Side) (s : State) (core part : Nat) (write : Bool) : Place :=
  match x with
  | .scratch _ => .bad
  | .mem obj y => objPlace s core part obj y write

/-- The virtual page of a byte of a shared virtual object. -/
def Side.page? (x : Side) (s : State) (part : Nat) : Option Nat :=
  match x with
  | .scratch _ => none
  | .mem obj y =>
    let e := objEntry s part obj
    if (accWindow? obj).isNone && entryKind e = 1 then some ((entryVbase e + y) / 4096) else none

/-- The byte of a side where it exists; a byte of a page that the job skips, though the host may have mapped it since, is
passed over (R230), and so is one beyond its object or of a translation that is refused, which raises no bit of CSTAT
(DESIGN CHOICE log 53: R230 names none for it). -/
def Side.loc (x : Side) (s : State) (core part : Nat) (skipped : List Nat) (write : Bool) : Option Loc :=
  match x with
  | .scratch o => some (.scratch o)
  | .mem obj y =>
    if (x.page? s part).any skipped.contains then none
    else match objPlace s core part obj y write with
    | .at a l h _ => some (.mem a l h)
    | _ => none

/-- The page that a byte of a side misses. -/
def Side.miss (x : Side) (s : State) (core part : Nat) (write : Bool) : Option Nat :=
  match x.place s core part write with
  | .miss p => some p
  | _ => none

/-- The byte of a place. -/
def Loc.read (x : Loc) (s : State) (core : Nat) (granules : List Nat) : BitVec 8 :=
  match x with
  | .scratch o => cellGet (s.core core).sram (sramAddr granules o)
  | .mem a _ _ => physByte s a

/-- The line of a place, among the lines that can be poisoned. -/
def Loc.line (x : Loc) (core : Nat) (granules : List Nat) : Nat :=
  match x with
  | .scratch o => sramLine core (getAt 0 granules (o / 128))
  | .mem a _ _ => lineOf a

/-- A byte moved by a job: where it goes, its value, whether it was read from a poisoned line. -/
structure Moved where
  dest : Loc
  val : BitVec 8
  bad : Bool

/-- The scratchpad bytes of a list of moves. -/
def scratchMoves (ms : List Moved) : List (Nat × BitVec 8 × Bool) :=
  ms.filterMap fun m => match m.dest with | .scratch o => some (o, m.val, m.bad) | _ => none

/-- The poison of a crew's granules after scratchpad bytes were written: a granule that receives poisoned bytes is
poisoned, one that is wholly written without them is not (R230). -/
def scratchPoisonAfter (ps : List Nat) (core : Nat) (granules : List Nat) (ws : List (Nat × BitVec 8 × Bool)) :
    List Nat :=
  ((ws.map fun w => w.1 / 128).dedup).foldl (fun ps i =>
    let mine := ws.filter fun w => w.1 / 128 = i
    poisonAfter ps (sramLine core (getAt 0 granules i)) (mine.any fun w => w.2.2)
      ((mine.map Prod.fst).dedup.length = 128)) ps

/-- Scratchpad bytes written by a job (R230). -/
def putScratch (s : State) (core : Nat) (granules : List Nat) (ws : List (Nat × BitVec 8 × Bool)) : State :=
  let c := s.core core
  { s.setCore core { c with sram := ws.foldl (fun m w => cellSet m (sramAddr granules w.1) w.2.1) c.sram } with
    poison := scratchPoisonAfter s.poison core granules ws }

/-- The line writes of a job's memory bytes (R192), with the lines that are poisoned. -/
def memMoves (s : State) (ms : List Moved) : List BufWrite × List Nat :=
  (lineWrites s.nextId (ms.filterMap fun m => match m.dest with
      | .mem a l h => some (a, m.val, l, h)
      | _ => none),
   ms.filterMap fun m => match m.dest with
      | .mem a _ _ => if m.bad then some (lineOf a) else none
      | _ => none)

/-- The moves of a job take effect: scratchpad bytes at once, memory bytes as line writes on their way to their homes;
how many line writes. -/
def applyMoves (s : State) (core part : Nat) (issuer : Issuer) (granules : List Nat) (ms : List Moved) : Nat × State :=
  let s1 := putScratch s core granules (scratchMoves ms)
  let (ws, bad) := memMoves s1 ms
  (ws.length, ws.foldl (fun s w => sendWrite s part issuer w (bad.contains w.line) []) { s1 with nextId := s1.nextId + ws.length })

/-- A byte that a job is to move: where to, where from, and whether an index that it read in a poisoned line named it. -/
structure Move1 where
  dst : Side
  src : Side
  bad : Bool

/-- The rows that an index list at a scratchpad offset names: number, byte offset, and whether the index is poisoned. -/
def listRows (s : State) (core : Nat) (granules : List Nat) (li count z : Nat) : List (Nat × Nat × Bool) :=
  (List.range count).map fun i =>
    (i, (scratchWord (s.core core) granules (li + 4 * i)).toNat * z, (scratchPoison s core granules (li + 4 * i) 4).isSome)

/-- The bytes that a job moves, in the order in which a later one prevails; whether rows were skipped; whether an index lies
in a poisoned granule, of a skipped row too (R230, R233, R234, R236). -/
def jobMoves (s : State) (core : Nat) (j : Job) : List Move1 × Bool × Bool :=
  match j.kind with
  | .copy src dst len => ((List.range len).map fun i => ⟨dst.add i, src.add i, false⟩, false, false)
  | .tile mem x lay toMem =>
    let es := layEs lay
    ((layWalk lay).zipIdx.flatMap fun p => (List.range es).map fun b =>
      let m : Side := .mem mem.1 ((mem.2 + p.1 : Int).toNat + b)
      let y : Side := .scratch (x + es * p.2 + b)
      if toMem then ⟨m, y, false⟩ else ⟨y, m, false⟩, false, false)
  | .gather li obj base limit dst count z =>
    let rows := listRows s core j.granules li count z
    let ok (y : Nat) : Bool := y + z ≤ limit && (base + y) % z = 0
    ((rows.filter fun r => ok r.2.1).flatMap fun r => (List.range z).map fun b =>
      ⟨.scratch (dst + r.1 * z + b), .mem obj (base + r.2.1 + b), r.2.2⟩,
      rows.any (fun r => !(ok r.2.1)), rows.any fun r => r.2.2)
  | .scatter src li obj base limit count z =>
    let rows := listRows s core j.granules li count z
    let ok (y : Nat) : Bool := y + z ≤ limit && (base + y) % z = 0
    ((rows.filter fun r => ok r.2.1).flatMap fun r => (List.range z).map fun b =>
      ⟨.mem obj (base + r.2.1 + b), .scratch (src + r.1 * z + b), r.2.2⟩,
      rows.any (fun r => !(ok r.2.1)), rows.any fun r => r.2.2)
  | .multicast _ _ _ _ _ => ([], false, false)
  | .reduce _ _ _ _ => ([], false, false)
  | .token _ _ _ _ _ => ([], false, false)
  | .query _ => ([], false, false)

/-- The bytes that a job touches in memory, true for those it writes: for translation and for the windows' waits. -/
def jobTouches (s : State) (core : Nat) (j : Job) : List (Side × Bool) :=
  match j.kind with
  | .multicast src _ len _ _ => (List.range len).map fun i => (src.add i, false)
  | .reduce src dst len _ =>
    (List.range len).flatMap fun i => [(src.add i, false), (dst.add i, true)]
  | .token _ obj off _ size => (List.range size).map fun i => (.mem obj (off + i), true)
  | _ => (jobMoves s core j).1.flatMap fun p => [(p.dst, true), (p.src, false)]

/-- The pages that a job misses and that no refusal lets it skip, true for a write (R230). -/
def jobMisses (s : State) (core : Nat) (j : Job) : List (Nat × Bool) :=
  ((jobTouches s core j).filterMap fun x =>
    match x.1.miss s core j.part x.2 with
    | some p => if j.skipped.contains p then none else some (p, x.2)
    | none => none).dedup

/-- Whether a window line that a job touches waits for matrix jobs (R287). -/
def jobTileBusy (s : State) (core : Nat) (j : Job) : Bool :=
  (jobTouches s core j).any fun x => match x.1.loc s core j.part j.skipped x.2 with
    | some (.mem a _ _) => isAccAddr a && tileBusy s (lineOf a)
    | _ => false

/-- A job of a core changed. -/
def State.modJob (s : State) (core id : Nat) (f : Job → Job) : State :=
  let c := s.core core
  s.setCore core { c with jobs := c.jobs.map fun j => if j.id = id then f j else j }

/-- The place of a job's group. -/
def Job.gid (j : Job) (core : Nat) : Gid := ⟨core, j.slot, j.grp⟩

/-- A token's batches are not yet visible at dev scope (R240). -/
def tokenWaits (s : State) (core : Nat) (j : Job) : Bool :=
  let c := s.core core
  s.gt < j.dueAt || (c.jobs.any fun x => j.after.contains x.id) || c.mats.any fun x => j.after.contains x.id

/-- Whether a job may start, but for its pages (R191, R192, R228, R287). -/
def jobReady (s : State) (core : Nat) (j : Job) : Bool :=
  !j.started && j.page.isNone && !(mustFollow (s.core core) j.launch j.crew j.id j.reads j.writes)
    && !(storesPending s ⟨core, j.slot, j.grp⟩ j.after) && !(jobTileBusy s core j)
    && (match j.kind with
      | .token _ _ _ _ _ => !(tokenWaits s core j)
      | .query _ => false
      | _ => true)

/-- Whether a job's write range overlaps its own read range (R231). -/
def Job.overlaps (j : Job) : Bool := spansMeet j.writes j.reads

/-- Two places are the same byte. -/
def Loc.same : Loc → Loc → Bool
  | .scratch a, .scratch b => a = b
  | .mem a _ _, .mem b _ _ => a = b
  | _, _ => false

/-- What a move reads, and whether from a poisoned line. -/
def Loc.readBad (x : Loc) (s : State) (core : Nat) (granules : List Nat) : BitVec 8 × Bool :=
  (x.read s core granules, s.poison.contains (x.line core granules))

/-- What the source of a move, given as (destination, source, number), held when it was read: what it held before the
job, or what the job has moved there, as a free value has it (R231, DESIGN CHOICE log 2). -/
def heldByte (s : State) (core : Nat) (granules : List Nat) (ps : List (Loc × Loc × Nat)) :
    Nat → Loc × Loc × Nat → BitVec 8 × Bool
  | 0, p => p.2.1.readBad s core granules
  | n + 1, p =>
    match ps.find? fun q => q.1.same p.2.1 with
    | some q => if (freeByte (s.free + p.2.2)).getLsbD 0 then heldByte s core granules ps n q
      else p.2.1.readBad s core granules
    | none => p.2.1.readBad s core granules

/-- The values of moves: a byte without a source or a destination is skipped; one read from a poisoned line, or through an
index in one, poisons its destination (R230). -/
def movesOf (s : State) (core : Nat) (j : Job) (ps : List Move1) : List Moved :=
  let ls := (ps.zipIdx).filterMap fun p =>
    match p.1.dst.loc s core j.part j.skipped true, p.1.src.loc s core j.part j.skipped false with
    | some d, some x => some ((d, x, p.2), p.1.bad)
    | _, _ => none
  let qs := ls.map Prod.fst
  ls.map fun p =>
    let v := if j.overlaps then heldByte s core j.granules qs qs.length p.1 else p.1.2.1.readBad s core j.granules
    ⟨p.1.1, v.1, v.2 || p.2⟩

/-- The free values that a job with n parts has used (R231). -/
def Job.freeUsed (j : Job) (n : Nat) : Nat := if j.overlaps then n else 0

/-- CSTAT bits of a job's reads: rows skipped, poison (R230). -/
def readBits (skipped bad : Bool) : BitVec 4 := (if skipped then 1 else 0) ||| (if bad then 4 else 0)

/-- A linear, tile, gather or scatter job performed. -/
def runMoves (s : State) (core : Nat) (j : Job) : State :=
  let (ps, skipped, badList) := jobMoves s core j
  let ms := movesOf s core j ps
  let (n, s1) := applyMoves { s with free := s.free + j.freeUsed ps.length } core j.part (.job core j.id) j.granules ms
  let s2 := raiseCstat s1 (j.gid core) j.id (readBits skipped (badList || ms.any Moved.bad))
  s2.modJob core j.id fun j => { j with started := true, acks := n }

/-- The operation code of a `CRED` word among the atomics (R235). -/
def reduceOp : Nat → Nat
  | 0 => 10
  | 1 => 11
  | 2 => 0
  | _ => 12

/-- What the source word of a part, given as (destination, source bytes, number), held when it was read, and whether
from a poisoned line: what it held before the job, or with the job's own word combined into it, as a free value has it
(R231, DESIGN CHOICE log 2). -/
def heldWord (s : State) (core : Nat) (granules : List Nat) (f : Nat) (ws : List (Loc × List Loc × Nat)) :
    Nat → Loc × List Loc × Nat → Word × Bool
  | n, p =>
    let old : Word × Bool := (BitVec.ofNat 32 (natLE (p.2.1.map fun x => x.read s core granules)),
      p.2.1.any fun x => s.poison.contains (x.line core granules))
    match n with
    | 0 => old
    | n + 1 =>
      match ws.find? fun q => p.2.1.head?.any q.1.same with
      | some q =>
        let v := heldWord s core granules f ws n q
        if (freeByte (s.free + p.2.2)).getLsbD 0 then (atomValue f old.1 v.1 0, old.2 || v.2) else old
      | none => old

/-- The words of a reducing copy: destination, value, poison (R235). -/
def reduceWords (s : State) (core : Nat) (j : Job) (src dst : Side) (len f : Nat) : List (Loc × Word × Bool) :=
  let ws := (List.range (len / 4)).filterMap fun i =>
    let xs := (List.range 4).filterMap fun b => (src.add (4 * i + b)).loc s core j.part j.skipped false
    match (dst.add (4 * i)).loc s core j.part j.skipped true with
    | some d => if xs.length = 4 then some (d, xs, i) else none
    | none => none
  ws.map fun p => (p.1, heldWord s core j.granules f ws (if j.overlaps then ws.length else 0) p)

/-- The memory atomics of a reducing copy, one message for each line (R189, R235). -/
def sendReduce (s : State) (core part id op : Nat) (ws : List (Nat × Nat × Bool × Word × Bool)) : List Nat → State
  | [] => s
  | line :: ls =>
    let (mid, s1) := s.fresh
    let mine := ws.filter fun w => lineOf w.1 = line
    let first := (mine.head?.map fun w => (w.2.1, w.2.2.1)).getD (0, false)
    let m : AtomMsg :=
      { id := mid, issuer := .job core id, part := part, after := [], out := id, line := line
        ops := mine.map fun w => ⟨0, w.1, op, w.2.2.2.1, 0⟩
        lease := first.1, host := first.2, shared := isHostAddr (128 * line), phase := .toHome, olds := []
        poison := mine.any fun w => w.2.2.2.2, gwct := 0, ver := 0 }
    sendReduce { s1 with atoms := s1.atoms ++ [m] } core part id op ws ls

/-- A reducing job performed: scratchpad words in their bank, memory words as atomics at their homes (R235). -/
def runReduce (s : State) (core : Nat) (j : Job) (src dst : Side) (len op : Nat) : State :=
  let f := reduceOp op
  let ws := reduceWords s core j src dst len f
  let scr := ws.filterMap fun w => match w.1 with | .scratch o => some (o, w.2) | _ => none
  let mem := ws.filterMap fun w => match w.1 with | .mem a l h => some (a, l, h, w.2.1, w.2.2) | _ => none
  let c1 := scr.foldl (fun c w =>
    scratchWriteWord c j.granules w.1 (atomValue f (scratchWord c j.granules w.1) w.2.1 0)) (s.core core)
  let oldBad := scr.any fun w => s.poison.contains (sramLine core (getAt 0 j.granules (w.1 / 128)))
  let marks := (scr.filterMap fun w => if w.2.2 then some (w.1 / 128) else none).dedup
  let s1 := { s.setCore core c1 with
    free := s.free + j.freeUsed (len / 4)
    poison := marks.foldl (fun ps i => poisonAfter ps (sramLine core (getAt 0 j.granules i)) true false) s.poison }
  let ls := linesOf (mem.map Prod.fst)
  let s2 := sendReduce s1 core j.part j.id f mem ls
  let s3 := raiseCstat s2 (j.gid core) j.id (readBits false (oldBad || ws.any fun w => w.2.2))
  s3.modJob core j.id fun j => { j with started := true, acks := ls.length }

/-- The branches of a multicast: receiver, bytes, poison, offset in the block (R237). -/
def sendCasts (s : State) (core : Nat) (j : Job) (dst obj : Nat) : List (Nat × List (BitVec 8) × Bool × Nat) → State
  | [] => s
  | (crew, bytes, bad, o) :: rest =>
    let (id, s1) := s.fresh
    let m : CastMsg := ⟨id, core, j.id, j.launch, crew, dst + o, bytes, bad, obj⟩
    sendCasts { s1 with casts := s1.casts ++ [m] } core j dst obj rest

/-- Unit u of 128 bytes of a multicast's source: its bytes, whether one lies in a poisoned line, and where in the block
they begin. The lines of a page that the job skips are not sent (R230): a unit meets at most two pages, so that what is
left of it is one run. -/
def castUnit (s : State) (core : Nat) (j : Job) (src : Side) (u : Nat) : List (BitVec 8) × Bool × Nat :=
  let xs := (List.range 128).filterMap fun b =>
    ((src.add (128 * u + b)).loc s core j.part j.skipped false).map fun x => (128 * u + b, x)
  (xs.map fun x => x.2.read s core j.granules, xs.any fun x => s.poison.contains (x.2.line core j.granules),
   (xs.head?.map Prod.fst).getD (128 * u))

/-- A multicast job performed: the source is read once, and each receiver has its branch (R237). -/
def runMulticast (s : State) (core : Nat) (j : Job) (src : Side) (dst len : Nat) (peers : List Nat) (obj : Nat) : State :=
  let us := ((List.range (len / 128)).map (castUnit s core j src)).filter fun u => !u.1.isEmpty
  let branches := peers.flatMap fun p => us.map fun u => (p, u)
  let s1 := sendCasts s core j dst obj branches
  let s2 := raiseCstat s1 (j.gid core) j.id (readBits false (us.any fun u => u.2.1))
  s2.modJob core j.id fun j => { j with started := true, acks := branches.length }

/-- A token written at its home as one line write (R240). -/
def runToken (s : State) (core : Nat) (j : Job) (obj off : Nat) (val : DWord) (size : Nat) : State :=
  let ms := (List.range size).filterMap fun i =>
    ((Side.mem obj (off + i)).loc s core j.part j.skipped true).map fun d => (⟨d, byteOf val.toNat i, false⟩ : Moved)
  let (n, s1) := applyMoves s core j.part (.job core j.id) j.granules ms
  s1.modJob core j.id fun j => { j with started := true, acks := n }

/-- A job performed (R228). -/
def runJob (s : State) (core : Nat) (j : Job) : State :=
  match j.kind with
  | .multicast src dst len peers obj => runMulticast s core j src dst len peers obj
  | .reduce src dst len op => runReduce s core j src dst len op
  | .token _ obj off val size => runToken s core j obj off val size
  | _ => runMoves s core j

/-- Pages that a job may not use: it skips their lines, CSTAT[2] rises, and event kind 7 is posted (R230). -/
def refuseJobPages (s : State) (core : Nat) (j : Job) (pages : List Nat) : State :=
  let s1 := raiseCstat (s.modJob core j.id fun j => { j with skipped := j.skipped ++ pages }) (j.gid core) j.id 2
  pages.foldl (fun s q => s.postEvent j.part
    { kind := 7, core := core, slot := j.slot, grp := j.grp, ctx := j.ctx.toNat, info := q * 4096 }) s1

/-- JOB_START (R228): a job whose pages do not translate asks for them first and stays in its slot (R230). -/
def execJobStart (core job : Nat) (s : State) : Out :=
  match (s.core core).jobs.find? fun j => j.id = job with
  | none => .refused (.notEnabled "JOB_START")
  | some j =>
    if !(jobReady s core j) then .refused (.notEnabled "JOB_START")
    else
      match jobMisses s core j with
      | [] => .next (runJob s core j)
      | miss =>
        if !(bitOf (s.part j.part).pctl.toNat 7) then
          .next (refuseJobPages s core j (miss.map Prod.fst).dedup)
        else match sendJobPages s j.part (j.gid core) ⟨j.launch, j.crew, j.grp⟩ j.ctx j.id miss with
          | none => .refused (.notEnabled "JOB_START")
          | some (i, s1) => .next (s1.modJob core j.id fun j => { j with page := some i })

/-- A job leaves its group's batches (R193, R228). -/
def Group.jobDone (g : Group) (id gwct : Nat) : Group :=
  let out (xs : List Nat) : List Nat := xs.filter fun i => i ≠ id
  { g with
    openGwct := if g.openJobs.contains id then max g.openGwct gwct else g.openGwct
    openJobs := out g.openJobs
    closed := g.closed.map fun b =>
      if b.jobs.contains id then { b with jobs := out b.jobs, gwct := max b.gwct gwct } else b }

/-- The work of a launch is visible at dev scope from a time on (R45). -/
def drainUntil (s : State) (launch gwct : Nat) : State :=
  s.modLaunch launch fun l => { l with drainAt := max l.drainAt gwct }

/-- A job's group learns that it is complete, and goes on when it waited for that (R239). -/
def tellGroup (s : State) (gid : Gid) (id gwct : Nat) : State :=
  match jobGroup s gid id with
  | some g => tryCwait (s.setGroup gid (some (g.jobDone id gwct))) gid
  | none => s

/-- The tokens that wait for a job learn when its writes are visible (R240). -/
def tellTokens (s : State) (core id gwct : Nat) : State :=
  let c := s.core core
  s.setCore core { c with jobs := c.jobs.map fun x => if x.after.contains id then { x with dueAt := max x.dueAt gwct } else x }

/-- A job is complete: its slot frees (R228). -/
def jobFinish (s : State) (core : Nat) (j : Job) : State :=
  let c := s.core core
  let s1 := tellTokens (s.setCore core { c with jobs := c.jobs.filter fun x => x.id ≠ j.id }) core j.id j.gwct
  tellGroup (drainUntil s1 j.launch j.gwct) ⟨core, j.slot, j.grp⟩ j.id j.gwct

/-- JOB_COMPLETE (R228). -/
def execJobComplete (core job : Nat) (s : State) : Out :=
  match (s.core core).jobs.find? fun j => j.id = job with
  | some j =>
    if j.started && j.acks = 0 then .next (jobFinish s core j) else .refused (.notEnabled "JOB_COMPLETE")
  | none => .refused (.notEnabled "JOB_COMPLETE")

/-- A branch is done: its job has one less to wait for (R237). -/
def castDone (s : State) (m : CastMsg) : State :=
  { s with casts := s.casts.filter fun x => x.id ≠ m.id }.modJob m.core m.job fun j => { j with acks := j.acks - 1 }

/-- Bytes counted in a barrier object: its pending count falls (R241). -/
def countDown (objs : List BarObj) (o n : Nat) : List BarObj :=
  let b := getAt BarObj.start objs o
  setAt BarObj.start objs o { b with count := b.count - BitVec.ofNat 64 n }

/-- The poisoned granules of a saved scratchpad after n bytes at an offset were written (R230, R237). -/
def imagePoison (bad : List Nat) (off n : Nat) (poison : Bool) : List Nat :=
  (List.range ((off + n + 127) / 128 - off / 128)).foldl (fun bad i =>
    let g := off / 128 + i
    poisonAfter bad g poison (off ≤ 128 * g && 128 * g + 128 ≤ off + n)) bad

/-- MULTICAST_DELIVERY (R237): into the receiver's scratchpad, or the saved image of a saved receiver; a branch to a crew
that has retired or is cancelled is dropped, with CSTAT[4] (R230). -/
def execMulticastDelivery (msg : Nat) (s : State) : Out :=
  match s.casts.find? fun m => m.id = msg with
  | none => .refused (.notEnabled "MULTICAST_DELIVERY")
  | some m =>
    let n := m.bytes.length
    let drop : State :=
      match (s.core m.core).jobs.find? fun j => j.id = m.job with
      | some j => castDone (raiseCstat s (j.gid m.core) j.id 8) m
      | none => castDone s m
    match s.launch? m.launch with
    | none => .next drop
    | some l =>
      if l.state = .cancelling || l.state = .cancelled || l.finished.contains m.crew then .next drop
      else match l.places.find? fun p => p.1 = m.crew with
        | some (_, core, slot) =>
          match s.crew? core slot with
          | none => .next drop
          | some k =>
            let s1 := putScratch s core k.granules (m.bytes.zipIdx.map fun b => (m.off + b.2, b.1, m.poison))
            .next (castDone (s1.setCrew core slot
              (some ({ k with objs := countDown k.objs m.obj n }.wakeObj m.obj))) m)
        | none =>
          match l.saved.find? fun x => x.1 = m.crew with
          | some (i, v) =>
            let v1 := { v with scratch := cellsWrite v.scratch m.off m.bytes
                               bad := imagePoison v.bad m.off n m.poison
                               crew := { v.crew with objs := countDown v.crew.objs m.obj n } }
            .next (castDone (s.modLaunch l.seq fun l =>
              { l with saved := l.saved.map fun x => if x.1 = i then (i, v1) else x }) m)
          | none => .refused (.notEnabled "MULTICAST_DELIVERY")

/-- GLOBAL_WRITE_COMPLETION_TIME_REACHED: a `CWAIT` returns, or a group held by a release(dev) tries again (R187,
R193). -/
def execGlobalWriteCompletionTimeReached (core slot grp : Nat) (s : State) : Out :=
  let gid : Gid := ⟨core, slot, grp⟩
  match s.group? gid with
  | none => .refused (.notEnabled "GLOBAL_WRITE_COMPLETION_TIME_REACHED")
  | some g =>
    match g.wait with
    | .cwait scope n _ =>
      if g.batchesVisible n scope s.gt then .next (tryCwait s gid)
      else .refused (.notEnabled "GLOBAL_WRITE_COMPLETION_TIME_REACHED")
    | _ =>
      if g.held.isSome && g.lgwct.toNat ≤ s.gt then .next (s.setGroup gid (some { g with held := none }))
      else .refused (.notEnabled "GLOBAL_WRITE_COMPLETION_TIME_REACHED")

end Sys2Proof.Machine
end

