-- ==== Sys2Proof/Machine/Matrix.lean ====
section
/-! DEFINITION. Matrix instructions: layout records, gangs, the reuse latch, matrix jobs, accumulator tiles and their owners (opcodes 0xD0 to 0xD9, R268 to R288). -/

namespace Sys2Proof.Machine

open Sys2Proof

/-! ### Layout records and the gang register (R271, R273) -/

/-- MLAY (R271): a nonzero reserved bit or an extent of 0 traps with the scalar. -/
def execMlay (st : BitVec 3) (n : BitVec 3) (a : BitVec 6) (s : State) : Out :=
  let q : Desc := { word := encode (.mlay st n a), op := 0xD0, st := st.toNat, reads := codesS a.toNat 8 }
  issue q s fun g _ =>
    let w (m : Nat) : Word := g.regs.readS (a.toNat + m)
    let bad (m : Nat) : Bool := bitsOf (w m).toNat 15 0 = 0 || bitsOf (w m).toNat 31 16 = 0
    if bitsOf (w 1).toNat 31 6 ≠ 0 then .next (takeTrap s 0x02 (w 1))
    else if bad 2 then .next (takeTrap s 0x02 (w 2))
    else if bad 3 then .next (takeTrap s 0x02 (w 3))
    else
      let v : BitVec 256 := BitVec.ofNat 256 ((List.range 8).foldr (fun m acc => (w m).toNat + 2 ^ 32 * acc) 0)
      .next (finish s q { g with regs := { g.regs with lay := setAt 0 g.regs.lay n.toNat v } })

/-- MLAY.GET (R271). -/
def execMlayGet (st : BitVec 3) (n : BitVec 3) (a : BitVec 6) (s : State) : Out :=
  uniform { word := encode (.mlayGet st n a), op := 0xD0, st := st.toNat, writes := codesS a.toNat 8 } s fun g =>
    g.results 0 ((List.range 8).map fun m =>
      (codeS (a.toNat + m), .scal ((getAt 0 g.regs.lay n.toNat).extractLsb' (32 * m) 32)))

/-- The count of a gang register. -/
def gangCount (w : Word) : Nat := bitsOf w.toNat 26 24

/-- Slot i of a gang register. -/
def gangSlot (w : Word) (i : Nat) : Nat := bitsOf w.toNat (4 * i + 3) (4 * i)

/-- The listed groups of a gang register. -/
def gangList (w : Word) : List Nat := (List.range (gangCount w)).map (gangSlot w)

/-- A value that `MGANG` refuses, in a crew of n groups (R273). -/
def gangBad (w : Word) (n : Nat) : Bool :=
  gangCount w = 7 || bitsOf w.toNat 31 27 ≠ 0
    || ((List.range 6).any fun i => gangCount w ≤ i && gangSlot w i ≠ 0)
    || (gangList w).dedup.length ≠ (gangList w).length || (gangList w).any fun i => n ≤ i

/-- MGANG (R273); a gang in a window or node crew traps (R323). -/
def execMgang (st : BitVec 3) (a : BitVec 6) (s : State) : Out :=
  let q : Desc := { word := encode (.mgang st a), op := 0xD1, st := st.toNat, reads := [codeS a.toNat] }
  issue q s fun g _ =>
    match s.crew? s.cur.core s.cur.slot with
    | none => .next s
    | some k =>
      let w := g.regs.readS a.toNat
      let standing := match s.launch? k.launch with | some l => l.standing | none => false
      if gangBad w k.groups.length || (standing && gangCount w ≠ 0) then .next (takeTrap s 0x02 w)
      else .next (finish s q { g with regs := { g.regs with gang := w } })

/-- MGANG.GET (R273). -/
def execMgangGet (st : BitVec 3) (d : BitVec 6) (s : State) : Out :=
  uniform { word := encode (.mgangGet st d), op := 0xD1, st := st.toNat, writes := [codeS d.toNat] } s fun g =>
    g.result 0 (codeS d.toNat) (.scal g.regs.gang)

/-- MREL (R275). -/
def execMrel (st : BitVec 3) (s : State) : Out :=
  uniform { word := encode (.mrel st), op := 0xD9, st := st.toNat } s fun g => { g with reuse := none }

/-! ### Tiles: ownership and checks (R278, R286) -/

/-- The failure of an access to tile t: 0x30 where another context owns its region, 0x31 where the crew does not hold
it (R278). -/
def tileFailure (c : Core) (k : Crew) (t : Nat) : Option Nat :=
  if t < 64 && c.owner (t / 16) ≠ k.ctx then some 0x30
  else if !(k.held.getLsbD t) then some 0x31
  else none

/-- A failure with the region it locks: trap 0x30 locks the tile's region (R286). -/
def trapFailure (s : State) (cause : Nat) (tval : Word) : State :=
  let s1 := takeTrap s cause tval
  if cause = 0x30 then
    let c := s1.core s.cur.core
    s1.setCore s.cur.core { c with locked := setAt none c.locked (tval.toNat / 16) (s.groupName s.cur) }
  else s1

/-- Whether a region of some tiles is locked (R286). -/
def tilesLocked (c : Core) (ts : List Nat) : Bool := ts.any fun t => (getAt none c.locked (t / 16)).isSome

/-! ### Operations (R268 to R279) -/

/-- The element types of A and B (R268). -/
def setX : List ETypeCode := [7, 9, 10, 5, 6]

/-- N and M of a pattern code (R277). -/
def patternOf : Nat → Nat × Nat
  | 0 => (1, 4)
  | 1 => (2, 4)
  | 2 => (1, 8)
  | 3 => (2, 8)
  | 4 => (4, 8)
  | 5 => (1, 16)
  | 6 => (2, 16)
  | 7 => (4, 16)
  | _ => (8, 16)

/-- The number of k rows of B that an operation reads: 32, or K′ of a sparse one (R270, R277). -/
def MatOp.depth (x : MatOp) : Nat := if x.op = 0xD3 then 32 * (patternOf x.pattern).2 / (patternOf x.pattern).1 else 32

/-- The registers that hold A: two or four, and the metadata register of a sparse operation (R268, R277). -/
def tileRegs (etype op va : Nat) : List Nat :=
  regsFrom va ((if etWidth etype = 8 then 2 else 4) + (if op = 0xD3 then 1 else 0))

/-- The failure of a B record against an A type (R270, R278): its causes, with TVAL. -/
def recordFailures (granules : List Nat) (x : MatOp) (word : Word) : List Failure :=
  let l := x.lay
  let bt := layEtype l
  let w := etWidth bt
  let es := layEs l
  let base : Word := BitVec.ofNat 32 (layBase l)
  (if !(setX.contains bt) || w ≠ etWidth x.etype || (bt = 7) != (x.etype = 7) || 8 * es ≠ w then [(0x01, word)] else [])
    ++ (if layCount l ≠ 32 * x.depth then [(0x02, word)] else [])
    ++ (if layBase l % es ≠ 0 then [(0x0A, base)] else [])
    ++ (if (layWalk l).any fun d => (layBase l + d : Int) < 0 || (scratchBytes granules : Int) < layBase l + d + es then
          [(0x0B, base)] else [])

/-- The lowest and the highest scratchpad byte of a walk from an offset. -/
def walkBounds (l : BitVec 256) (o : Nat) : Nat × Nat :=
  let ds := (layWalk l).map fun d => (o + d : Int).toNat
  (ds.foldl min (ds.headD 0), ds.foldl max 0 + layEs l)

/-- The granules from the lowest to the highest byte of a walk (R190). -/
def walkGranules (l : BitVec 256) (o : Nat) : List Span :=
  let b := walkBounds l o
  sideSpan (.scratch b.1) (b.2 - b.1)

/-- The bank conflicts of fetching a record's elements one k row at a time (R272). -/
def bankConflicts (l : BitVec 256) : Nat :=
  let offs := (layWalk l).map fun d => (layBase l + d : Int).toNat
  ((List.range ((offs.length + 31) / 32)).map fun k =>
    let ws := (((offs.drop (32 * k)).take 32).map fun o => o / 4).dedup
    ((List.range 32).map fun b => (ws.filter fun w => w % 32 = b).length).foldl max 0 - 1).sum

/-- The bits of A[r][k], or of slot k of row r: +0 outside the effective mask (R268). -/
def aBits (etype : Nat) (t : TileIn) (r k : Nat) : Nat :=
  let lane := 4 * r + k / 8
  if !(t.act.getLsbD lane) then 0
  else
    let per := 32 / etWidth etype
    elemAt etype (laneGet (getAt [] t.regs (k % 8 / per)) lane) (k % per)

/-- k(i) of a sparse row, or i (R277); a slot of a lane outside the effective mask takes index 0 whatever its nibble holds
(DESIGN CHOICE log 63: R277 does not say). -/
def slotRow (x : MatOp) (t : TileIn) (r i : Nat) : Nat :=
  if x.op = 0xD3 then
    let (n, m) := patternOf x.pattern
    let lane := 4 * r + i / 8
    let nibs := laneGet (getAt [] t.regs (if etWidth x.etype = 8 then 2 else 4)) lane
    let idx := if t.act.getLsbD lane then bitsOf nibs.toNat (4 * (i % 8) + 3) (4 * (i % 8)) % m else 0
    i / n * m + idx
  else i

/-- A product of an element of A and one of B (R116): integers exactly, an integer zero as +0, since it has no sign (DESIGN
CHOICE log 63); none for 0 × infinity. -/
def tileProduct (at' bt a b : Nat) : Option FVal :=
  match etFmt at', etFmt bt with
  | some fa, some fb => FVal.mul (decodeFloat fa a) (decodeFloat fb b)
  | _, _ =>
    let p := etInt? at' a * etInt? bt b
    some (.fin (p < 0) p.natAbs 0)

/-- One block of an element: c plus the exact sum of products, rounded once (R116). -/
def tileBlock (c : Word) (ps : List (Option FVal)) : Word :=
  BitVec.ofNat 32 (sumRound .f32 0 false (ps.any Option.isNone)
    (decodeFloat .f32 c.toNat :: ps.filterMap id)).1

/-- One element of a tile (R116, R279): blocks of 32 slots of 8 bits, or 16 of 16 bits, in ascending order. -/
def tileElement (x : MatOp) (t : TileIn) (b : Nat → Nat → Nat) (c : Word) (r n : Nat) : Word :=
  let depth := if etWidth x.etype = 8 then 32 else 16
  (List.range (32 / depth)).foldl (fun c k0 =>
    tileBlock c ((List.range depth).map fun j =>
      let i := k0 * depth + j
      tileProduct x.etype (layEtype x.lay) (aBits x.etype t r i) (b (slotRow x t r i) n))) c

/-- A tile after an operation. -/
def tileResult (x : MatOp) (b : Nat → Nat → Nat) (acc : List (Nat × Word)) (t : TileIn) : List (Nat × Word) :=
  (List.range 1024).foldl (fun m j =>
    accSet m (1024 * t.tile + j) (tileElement x t b (accGet acc (1024 * t.tile + j)) (j / 32) (j % 32))) acc

/-! ### Matrix jobs (R280) -/

/-- The places of a core's matrix queue (R280). -/
def matQueue : Nat := 16

/-- A matrix job joins the core's queue and the open batch of its groups (R280). -/
def addMat (s : State) (core slot : Nat) (k : Crew) (owners : List (Nat × Word)) (pc : Word) (kind : MatKind)
    (reads writes : List Span) : State :=
  let (id, s1) := s.fresh
  let j : MatJob :=
    { id := id, part := k.part, launch := k.launch, crew := k.index, ctx := k.ctx, granules := k.granules, slot := slot, owners := owners, pc := pc
      kind := kind, reads := reads, writes := writes
      after := owners.flatMap fun o => let gid : Gid := ⟨core, slot, o.1⟩
        match s.group? gid with | some g => storesOf s gid g | none => []
      started := false, acks := 0, gwct := 0, skipped := [], page := none }
  let c := s1.core core
  let s2 := s1.setCore core { c with mats := c.mats ++ [j] }
  owners.foldl (fun s o => s.modGroup ⟨core, slot, o.1⟩ fun g => { g with openJobs := g.openJobs ++ [id] }) s2

/-- Whether the core's matrix queue is full. -/
def matFull (s : State) (core : Nat) : Bool := matQueue ≤ (s.core core).mats.length

/-- The footprint of an operation: the B span and its tiles, and its tiles (R280). -/
def mmaSpans (x : MatOp) (ts : List TileIn) : List Span × List Span :=
  let w := ts.map fun t => Span.tiles t.tile (t.tile + 1)
  (walkGranules x.lay (layBase x.lay) ++ w, w)

/-- The reuse latch after an operation used a tile (R275). -/
def Group.afterTile (g : Group) (x : MatOp) (t : TileIn) : Group :=
  { g with reuse := if x.reuse then some ⟨t.va, x.etype, x.op, x.pattern, t.regs, t.act⟩ else none }

/-- The A tile of an instruction: from a matching reuse latch, or from the registers (R275). -/
def tileFor (g : Group) (m : Mask) (grp tile va : Nat) (x : MatOp) : TileIn :=
  match g.reuse with
  | some r =>
    if r.va = va && r.etype = x.etype && r.op = x.op && r.pattern = x.pattern then ⟨grp, tile, va, r.regs, r.act⟩
    else ⟨grp, tile, va, (tileRegs x.etype x.op va).map g.regs.vreg, m⟩
  | none => ⟨grp, tile, va, (tileRegs x.etype x.op va).map g.regs.vreg, m⟩

/-- Whether the reuse latch matches (R275). -/
def reuseHit (g : Group) (va etype op pattern : Nat) : Bool :=
  match g.reuse with
  | some r => r.va = va && r.etype = etype && r.op = op && r.pattern = pattern
  | none => false

/-- A solo operation is handed over at its issue (R274). -/
def soloMma (s : State) (q : Desc) (g : Group) (k : Crew) (x : MatOp) (t : TileIn) : Out :=
  if matFull s s.cur.core then .next (holdIssue s)
  else
    let (r, w) := mmaSpans x [t]
    let s1 := finish s q (g.afterTile x t)
    .next (addMat s1 s.cur.core s.cur.slot k [(s.cur.grp, g.batch + 1)] g.pc (.mma x [t]) r w)

/-- A group of a gang retires its operation when the latch hands over: A stays in its reuse latch by the shared flag
(R50, R275). The second component of p is its stall field. -/
def gangRetire (s : State) (core slot : Nat) (x : MatOp) (ts : List TileIn) (p : Nat × Nat) : State :=
  s.modGroup ⟨core, slot, p.1⟩ fun g =>
    let g1 := match ts.find? fun t => t.grp = p.1 with
      | some t => g.afterTile x t
      | none => g
    { (g1.endChain.retire p.2 (g1.pc + 4)) with since := s.gt }

/-- The groups that wait for the latch of another gang try again (R50). -/
def Crew.freeGang (k : Crew) : Crew :=
  { k with gang := none, groups := k.groups.map fun o => o.map fun x =>
      if x.wait = .gangBusy then { x with wait := .none } else x }

/-- The lowest tile of a gang's operation whose region another context owns on the core (R286): a latch that was saved and
restored elsewhere may hold tiles that its groups checked on another core. -/
def strangeTile (c : Core) (k : Crew) (ts : List TileIn) : Option Nat :=
  (List.range 64).find? fun t => ts.any (fun x => x.tile = t) && c.owner (t / 16) ≠ k.ctx

/-- The latch hands its operation to the matrix units, and empties (R50, R274). -/
def handOver (s : State) (core slot : Nat) (k : Crew) (y : Gang) : State :=
  let (r, w) := mmaSpans y.op y.tiles
  let opener := (y.issued.head?.map Prod.fst).getD 0
  let pc := match s.group? ⟨core, slot, opener⟩ with | some g => g.pc | none => 0
  let owners := y.issued.map fun p =>
    (p.1, match s.group? ⟨core, slot, p.1⟩ with | some g => g.batch + 1 | none => 0)
  let s1 := y.issued.foldl (fun s p => gangRetire s core slot y.op y.tiles p) s
  let s2 := match s1.crew? core slot with
    | some k1 => s1.setCrew core slot (some k1.freeGang)
    | none => s1
  addMat s2 core slot k owners pc (.mma y.op y.tiles) r w

/-- A group issues into its gang's latch, opening it if it is empty; the last listed group hands it over (R50, R274), once no
tile of the operation lies in a locked region; for a tile whose region another context owns, it takes trap 0x30 before the
operation accumulates, and the latch stays as it was (R286; which group traps, DEDUCED log 9). Where the list names a group that has already retired, the latch opens and its groups stay parked: the trap of R50 is that of a
group which retires while the latch is open (DESIGN CHOICE log 63). -/
def gangMma (s : State) (q : Desc) (g : Group) (k : Crew) (x : MatOp) (t : Option TileIn) : Out :=
  let ts := match t with | some t => [t] | none => []
  let y : Gang := match k.gang with
    | some y => { y with issued := y.issued ++ [(s.cur.grp, q.st)], tiles := y.tiles ++ ts }
    | none => ⟨gangList g.regs.gang, [(s.cur.grp, q.st)], x, ts⟩
  let whole := y.list.all fun i => y.issued.any fun p => p.1 = i
  let c := s.core s.cur.core
  if whole && (tilesLocked c (y.tiles.map TileIn.tile) || matFull s s.cur.core) then .next (holdIssue s)
  else match (if whole then strangeTile c k y.tiles else none) with
  | some tile => .next (trapFailure s 0x30 (BitVec.ofNat 32 tile))
  | none =>
    let s1 := { s.setGroup s.cur (some g) with pfx := none }
    if whole then .next (handOver s1 s.cur.core s.cur.slot k y)
    else match s1.crew? s.cur.core s.cur.slot with
      | some k1 =>
        .next (s1.setCrew s.cur.core s.cur.slot
          (some ({ k1 with gang := some y }.setGroup s.cur.grp (some { g with wait := .gang, held := none, since := s.gt }))))
      | none => .next s1

/-- MMA and MMAS (R50, R268 to R279). Under an all-zero mask it takes no fault: a listed group enters the latch with no tile
(R36, R274). A group whose acquire still waits hands nothing over (R187, R192). -/
def matrixOp (word : Word) (op st tile va lay pattern : Nat) (reuse : Bool) (s : State) : Out :=
  let etype := match s.group? s.cur with | some g => mwEtype g.settle.regs.mw | none => 7
  let regs := tileRegs etype op va
  let hit := match s.group? s.cur with | some g => reuseHit g va etype op pattern | none => false
  let q : Desc := { word := word, op := op, st := st, vtop := topOf regs, types := setX, masked := true
                    reads := if hit then [] else regs }
  issue q s fun g m =>
    match s.crew? s.cur.core s.cur.slot with
    | none => .next s
    | some k =>
      let c := s.core s.cur.core
      let mine : MatOp := ⟨op, pattern, etype, getAt 0 g.regs.lay lay, reuse⟩
      let gang := gangList g.regs.gang
      let solo := gang.isEmpty
      let x : MatOp := match k.gang with | some y => if solo then mine else y.op | none => mine
      let opens := solo || k.gang.isNone
      if m = 0 && (solo || !(gang.contains s.cur.grp)) then .next (finish s q g)
      else if !solo && !(gang.contains s.cur.grp) then .next (takeTrap s 0x01 word)
      else if !solo && (match k.gang with | some y => y.list ≠ gang | none => false) then
        .next (waitIssue s .gangBusy)
      else if m = 0 then (if acquirePending g then .next (holdIssue s) else gangMma s q g k x none)
      else if x.op ≠ op || x.pattern ≠ pattern || x.etype ≠ etype then .next (takeTrap s 0x01 word)
      else if acquirePending g then .next (holdIssue s)
      else if tilesLocked c [tile] then .next (holdIssue s)
      else
        let fails := (if opens then recordFailures k.granules x word else [])
          ++ (match tileFailure c k tile with | some f => [(f, BitVec.ofNat 32 tile)] | none => [])
        match firstFailure fails with
        | some (cause, tval) => .next (trapFailure s cause tval)
        | none =>
          let t := tileFor g m s.cur.grp tile va x
          if solo then soloMma s q g k x t else gangMma s q g k x (some t)

/-- MMA. -/
def execMma (st : BitVec 3) (t : BitVec 6) (a : BitVec 7) (l : BitVec 3) (r : BitVec 1) (s : State) : Out :=
  matrixOp (encode (.mma st t a l r)) 0xD2 st.toNat t.toNat a.toNat l.toNat 0 (r = 1) s

/-- MMAS. -/
def execMmas (st : BitVec 3) (t : BitVec 6) (a : BitVec 7) (l : BitVec 3) (r : BitVec 1) (p : BitVec 4) (s : State) :
    Out :=
  matrixOp (encode (.mmas st t a l r p)) 0xD3 st.toNat t.toNat a.toNat l.toNat p.toNat (r = 1) s

/-! ### Clearing, loading and draining tiles (R281 to R283) -/

/-- A uniform instruction that hands a matrix job to the units, after its failures; `tiles` are those it names. -/
def matInstr (q : Desc) (tiles : Group → List Nat) (s : State)
    (f : Group → Crew → List Failure × List (BitVec 128) × MatKind × List Span × List Span) : Out :=
  issue q s fun g _ =>
    match s.crew? s.cur.core s.cur.slot with
    | none => .next s
    | some k =>
      if acquirePending g || tilesLocked (s.core s.cur.core) (tiles g) then .next (holdIssue s)
      else
        let (fails, caps, kind, reads, writes) := f g k
        match firstFailure fails with
        | some (cause, tval) => .next (trapFailure s cause tval)
        | none =>
          if matFull s s.cur.core then .next (holdIssue s)
          else
            let s1 := finish (caps.foldl (fun s c => s.cacheEntry k.part (capObj c)) s) q g
            .next (addMat s1 s.cur.core s.cur.slot k [(s.cur.grp, g.batch + 1)] g.pc kind reads writes)

/-- The failure of the first failing tile, in ascending order (R281). -/
def tilesFailure (c : Core) (k : Crew) (ts : List Nat) : List Failure :=
  match ts.findSome? fun t => (tileFailure c k t).map fun f => (f, BitVec.ofNat 32 t) with
  | some f => [f]
  | none => []

/-- ACCZ (R281). A range beyond tile 63 takes trap 0x02, which the word alone decides: condition 2 of R104, before the gate's
conditions 3 to 6. -/
def execAccz (st : BitVec 3) (t : BitVec 6) (n : BitVec 3) (s : State) : Out :=
  let q : Desc := { word := encode (.accz st t n), op := 0xD4, st := st.toNat }
  let count := 2 ^ n.toNat
  let ts := (List.range count).map fun i => t.toNat + i
  if 64 < t.toNat + count && (s.group? s.cur).isSome then .next (takeTrap s 0x02 q.word)
  else matInstr q (fun _ => ts) s fun _ k =>
    (tilesFailure (s.core s.cur.core) k ts, [], .zero t.toNat count, [], [.tiles t.toNat (t.toNat + count)])

/-- The failures of the elements of a walk by R171 or R198 (R282). -/
def elementFailures (s : State) (k : Crew) (st : GState) (mem : Bool) (cap : BitVec 128) (l : BitVec 256) (o : Nat)
    (r : Right) : List Failure :=
  (layWalk l).flatMap fun d =>
    let m : Int := o + d
    let es := layEs l
    let cs := if mem then
        (if m < 0 then 0x08 :: (accessCauses s k.part st cap 0 es r).filter (fun c => c = 0x09)
         else accessCauses s k.part st cap m.toNat es r)
      else (if m % es ≠ 0 then [0x0A] else []) ++ (if m < 0 || (scratchBytes k.granules : Int) < m + es then [0x0B] else [])
    cs.map fun c => (c, BitVec.ofInt 32 m)

/-- The footprint of a side that a record walks from an offset. -/
def walkFootprint (mem : Bool) (cap : BitVec 128) (l : BitVec 256) (o : Nat) : List Span :=
  if mem then walkSpans (capObj cap) (capBase cap + o) l else walkGranules l o

/-- The checks that `ACCLD` and `ACCST` share (R282, R283): types, scalar, extents, elements, tile. -/
def tileIoFailures (s : State) (q : Desc) (g : Group) (k : Crew) (types : List Nat) (mem : Bool) (cap : BitVec 128)
    (l : BitVec 256) (w : Word) (o : Nat) (r : Right) : List Failure :=
  (if !(types.contains (layEtype l)) || 8 * layEs l ≠ etWidth (layEtype l) then [(0x01, q.word)] else [])
    ++ (if bitsOf w.toNat 31 6 ≠ 0 then [(0x02, w)] else [])
    ++ (if layCount l ≠ 1024 then [(0x02, q.word)] else [])
    ++ elementFailures s k g.state mem cap l o r
    ++ tilesFailure (s.core s.cur.core) k [w.toNat % 64]

/-- A side that a record walks. -/
def walkSide (mem : Bool) (cap : BitVec 128) (o : Nat) : Side :=
  if mem then .mem (capObj cap) (capBase cap + o) else .scratch o

/-- ACCLD (R282, R283). -/
def execAccld (st : BitVec 3) (a : BitVec 6) (c : BitVec 4) (l : BitVec 3) (f : BitVec 1) (s : State) : Out :=
  let mem := f = 1
  let q : Desc := { word := encode (.accld st a c l f), op := 0xD5, st := st.toNat
                    reads := codesS a.toNat 2 ++ (if mem then [codeC c.toNat] else []) }
  matInstr q (fun g => [(g.regs.readS a.toNat).toNat % 64]) s fun g k =>
    let w := g.regs.readS a.toNat
    let o := (g.regs.readS (a.toNat + 1)).toNat
    let cap := getAt 0 g.regs.c c.toNat
    let lay := getAt 0 g.regs.lay l.toNat
    let t := w.toNat % 64
    (tileIoFailures s q g k [2, 5, 6] mem cap lay w o .read, if mem then [cap] else [],
     .load t (walkSide mem cap o) lay, walkFootprint mem cap lay o, [.tiles t (t + 1)])

/-- ACCST (R282, R283). -/
def execAccst (st : BitVec 3) (a : BitVec 6) (c : BitVec 4) (l : BitVec 3) (r : BitVec 2) (x f : BitVec 1) (s : State) :
    Out :=
  let mem := f = 1
  let scaled := x = 1
  let q : Desc := { word := encode (.accst st a c l r x f), op := 0xD6, st := st.toNat
                    reads := codesS a.toNat (if scaled then 3 else 2) ++ (if mem then [codeC c.toNat] else []) }
  matInstr q (fun g => [(g.regs.readS a.toNat).toNat % 64]) s fun g k =>
    let w := g.regs.readS a.toNat
    let o := (g.regs.readS (a.toNat + 1)).toNat
    let sc := (g.regs.readS (a.toNat + 2)).toNat
    let cap := getAt 0 g.regs.c c.toNat
    let lay := getAt 0 g.regs.lay l.toNat
    let t := w.toNat % 64
    (tileIoFailures s q g k [0, 2, 5, 6, 7, 9, 10] mem cap lay w o .write
        ++ (if scaled then scratchRange k.granules sc 256 4 else []),
     if mem then [cap] else [],
     .store t (walkSide mem cap o) lay (if scaled then some sc else none) r.toNat,
     .tiles t (t + 1) :: (if scaled then sideSpan (.scratch sc) 256 else []), walkFootprint mem cap lay o)

/-! ### Allocation (R284, R285) -/

/-- A crew's reservation, with its launch sequence number. -/
def reserveOf (n : Nat) (k : Crew) : Option (Nat × Nat) := some (n, k.launch)

/-- ACCALLOC (R284, R285). -/
def execAccalloc (st : BitVec 3) (d : BitVec 6) (n : BitVec 3) (p : BitVec 5) (s : State) : Out :=
  let q : Desc := { word := encode (.accalloc st d n p), op := 0xD7, st := st.toNat
                    writes := [codeS d.toNat, codeP p.toNat] }
  issue q s fun g _ =>
    match s.crew? s.cur.core s.cur.slot with
    | none => .next s
    | some k =>
      let c := s.core s.cur.core
      let size := 2 ^ n.toNat
      let oldest := c.oldestReserve = some s.cur.slot
      let same := match k.reserve with | some r => r.1 = size | none => false
      let c1 := if oldest && !same then { c with setAside := 0 } else c
      let (id, s1) := s.fresh
      let m := g.regs.act
      let out (w : Word) (bits : Mask) : Group :=
        g.outValue id [(codeS d.toNat, .scal w), (codeP p.toNat, .pred m bits)] g.pc
      match c1.findBlock k.ctx (oldest && same) size with
      | some b =>
        let k1 := { k with held := k.held ||| tileMask b size, reserve := none }
        let c2 := (c1.claimBlock k.ctx b size)
        let c3 := { c2 with crews := setAt none c2.crews s.cur.slot (some k1) }
        .next (finish (s1.setCore s.cur.core c3.endAside) q (out (BitVec.ofNat 32 b) m))
      | none =>
        let k1 := { k with reserve := reserveOf size k }
        let c2 := { c1 with crews := setAt none c1.crews s.cur.slot (some k1) }
        let w : Word := if c2.oldestReserve = some s.cur.slot then 0xFFFFFFFF else 0xFFFFFFFE
        .next (finish (s1.setCore s.cur.core c2) q (out w 0))

/-- ACCALLOC.Q (R284). -/
def execAccallocQ (st : BitVec 3) (d : BitVec 6) (s : State) : Out :=
  let q : Desc := { word := encode (.accallocQ st d), op := 0xD7, st := st.toNat
                    writes := [codeS d.toNat, codeS (d.toNat + 1)] }
  issue q s fun g _ =>
    let held := match s.crew? s.cur.core s.cur.slot with | some k => k.held | none => 0
    let (id, s1) := s.fresh
    .next (finish s1 q (g.outValue id [(codeS d.toNat, .scal (held.extractLsb' 0 32)),
      (codeS (d.toNat + 1), .scal (held.extractLsb' 32 32))] g.pc))

/-- Whether matrix jobs of a crew touch tiles b to b + n - 1. -/
def tilesBusy (c : Core) (launch crew b n : Nat) : Bool :=
  c.mats.any fun j => j.launch = launch && j.crew = crew && (j.reads ++ j.writes).any (Span.tiles b (b + n)).meets

/-- ACCFREE (R284): it holds its group until the crew's matrix jobs on the tiles are complete. -/
def execAccfree (st : BitVec 3) (a : BitVec 6) (n : BitVec 3) (s : State) : Out :=
  let q : Desc := { word := encode (.accfree st a n), op := 0xD8, st := st.toNat, reads := [codeS a.toNat] }
  issue q s fun g _ =>
    match s.crew? s.cur.core s.cur.slot with
    | none => .next s
    | some k =>
      let c := s.core s.cur.core
      let b := (g.regs.readS a.toNat).toNat
      let size := 2 ^ n.toNat
      let ts := (List.range size).map fun i => b + i
      if b < 64 && tilesLocked c ts then .next (holdIssue s)
      else
        let fails := (if b % size ≠ 0 then [(0x0A, BitVec.ofNat 32 b)] else [])
          ++ (if b < 64 && c.owner (b / 16) ≠ k.ctx then [(0x30, BitVec.ofNat 32 b)] else [])
          ++ (match ts.find? fun t => !(k.held.getLsbD t) with | some t => [(0x31, BitVec.ofNat 32 t)] | none => [])
        match firstFailure fails with
        | some (cause, tval) => .next (trapFailure s cause tval)
        | none =>
          if tilesBusy c k.launch k.index b size then .next (holdIssue s)
          else
            let m := tileMask b size
            let c1 := { c with crews := setAt none c.crews s.cur.slot (some { k with held := k.held &&& ~~~ m }) }
            .next (finish (s.setCore s.cur.core (c1.freeTiles k.ctx m)) q g)

/-! ### Matrix jobs at work (R272, R279 to R283, R286) -/

/-- A matrix job of a core changed. -/
def State.modMat (s : State) (core id : Nat) (f : MatJob → MatJob) : State :=
  let c := s.core core
  s.setCore core { c with mats := c.mats.map fun j => if j.id = id then f j else j }

/-- The element places of a walked side. -/
def walkBytes (x : Side) (l : BitVec 256) : List (List Side) :=
  (layWalk l).map fun d => (List.range (layEs l)).map fun b =>
    match x with
    | .scratch o => .scratch ((o + d : Int).toNat + b)
    | .mem obj y => .mem obj ((y + d : Int).toNat + b)

/-- The memory bytes that a matrix job touches, true for those it writes. -/
def matTouches (j : MatJob) : List (Side × Bool) :=
  match j.kind with
  | .load _ src lay => ((walkBytes src lay).flatMap id).map fun x => (x, false)
  | .store _ dst lay _ _ => ((walkBytes dst lay).flatMap id).map fun x => (x, true)
  | _ => []

/-- The pages that a matrix job misses and may not skip. -/
def matMisses (s : State) (core : Nat) (j : MatJob) : List (Nat × Bool) :=
  ((matTouches j).filterMap fun x =>
    match x.1.miss s core j.part x.2 with
    | some p => if j.skipped.contains p then none else some (p, x.2)
    | none => none).dedup

/-- Whether a window line that a matrix job touches waits for other matrix jobs (R287). -/
def matTileBusy (s : State) (core : Nat) (j : MatJob) : Bool :=
  let c := s.core core
  let s1 := s.setCore core { c with mats := c.mats.filter fun x => x.id ≠ j.id }
  (matTouches j).any fun x => match x.1.loc s core j.part j.skipped x.2 with
    | some (.mem a _ _) => isAccAddr a && tileBusy s1 (lineOf a)
    | _ => false

/-- Whether a matrix job may start, but for its pages (R191, R192, R274). -/
def matReady (s : State) (core : Nat) (j : MatJob) : Bool :=
  !j.started && j.page.isNone && !(mustFollow (s.core core) j.launch j.crew j.id j.reads j.writes)
    && !(j.owners.any fun o => storesPending s ⟨core, j.slot, o.1⟩ j.after) && !(matTileBusy s core j)

/-- The bits of the elements of B, by k row and n; a record that no group of a gang has checked gives free bytes
(DESIGN CHOICE log 2). -/
def bElements (s : State) (core : Nat) (j : MatJob) (x : MatOp) : List Nat :=
  let c := s.core core
  let es := etWidth x.etype / 8
  if (recordFailures j.granules x 0).isEmpty then
    (layWalk x.lay).map fun d => natLE (scratchRead c j.granules (layBase x.lay + d : Int).toNat es)
  else (List.range (32 * x.depth)).map fun i => natLE ((List.range es).map fun b => freeByte (s.free + es * i + b))

/-- The first poisoned line among the bytes that a matrix job reads as an operand (R266). -/
def matPoison (s : State) (core : Nat) (j : MatJob) : Option Nat :=
  let granulesOf (o n : Nat) : Option Nat := scratchPoison s core j.granules o n
  match j.kind with
  | .mma x _ => (layWalk x.lay).findSome? fun d => granulesOf (layBase x.lay + d : Int).toNat (layEs x.lay)
  | .load _ src lay =>
    ((walkBytes src lay).flatMap id).findSome? fun b => match b.loc s core j.part j.skipped false with
      | some p => if s.poison.contains (p.line core j.granules) then some (p.line core j.granules) else none
      | none => none
  | .store _ _ _ (some sc) _ => granulesOf sc 256
  | _ => none

/-- The value of a tile's element as `ACCST` stores it (R283). -/
def storedBits (etype rnd : Nat) (vs : List FVal) : Nat :=
  let v := vs.foldl (fun a v => match a with
    | none => none
    | some a => FVal.mul a v) (some (.fin false 1 0))
  let v := v.getD (.nan false)
  match etFmt etype with
  | some f => (convFloat f rnd false v).1
  | none => (convToInt etype rnd v).1

/-- The owner that resumes counting: BCC of the group that opened the operation (R272). -/
def addConflicts (s : State) (core : Nat) (j : MatJob) (n : Nat) : State :=
  match j.owners with
  | [] => s
  | o :: _ =>
    match jobGroup s ⟨core, j.slot, o.1⟩ j.id with
    | some g => s.setGroup ⟨core, j.slot, o.1⟩
        (some { g with regs := { g.regs with bcc := BitVec.ofNat 32 (min 0xFFFFFFFF (g.regs.bcc.toNat + n)) } })
    | none => s

/-- A matrix job performed (R279, R281 to R283). -/
def runMat (s : State) (core : Nat) (j : MatJob) : State :=
  let c := s.core core
  let started (s : State) (n : Nat) : State := s.modMat core j.id fun j => { j with started := true, acks := n }
  match j.kind with
  | .mma x ts =>
    let bs := bElements s core j x
    let s1 := s.setCore core { c with acc := ts.foldl (tileResult x fun k n => getAt 0 bs (32 * k + n)) c.acc }
    let s2 := if (recordFailures j.granules x 0).isEmpty then s1
      else { s1 with free := s1.free + 32 * x.depth * (etWidth x.etype / 8) }
    started (addConflicts s2 core j (bankConflicts x.lay)) 0
  | .zero first count =>
    started (s.setCore core { c with acc := c.acc.filter fun e =>
      !(1024 * first ≤ e.1 && e.1 < 1024 * (first + count)) }) 0
  | .load t src lay =>
    let acc := ((walkBytes src lay).zipIdx).foldl (fun acc p =>
      let ls := p.1.filterMap fun b => b.loc s core j.part j.skipped false
      if ls.length = layEs lay then
        let bits := natLE (ls.map fun x => x.read s core j.granules)
        accSet acc (1024 * t + p.2)
          (BitVec.ofNat 32 (if layEtype lay = 2 then bits else (convert (layEtype lay) 2 0 false false bits).1))
      else acc) c.acc
    started (s.setCore core { c with acc := acc }) 0
  | .store t dst lay scale rnd =>
    let sc (i : Nat) : List FVal := match scale with
      | some o => [decodeFloat .f32 (scratchWord c j.granules (o + 4 * i)).toNat]
      | none => []
    let ms := ((walkBytes dst lay).zipIdx).flatMap fun p =>
      let v := decodeFloat .f32 (accGet c.acc (1024 * t + p.2)).toNat
      let bits := storedBits (layEtype lay) rnd (v :: (sc (p.2 / 32) ++ sc (32 + p.2 % 32)))
      (p.1.zipIdx).filterMap fun b => (b.1.loc s core j.part j.skipped true).map fun d => (⟨d, byteOf bits b.2, false⟩ : Moved)
    let (n, s1) := applyMoves s core j.part (.mat core j.id) j.granules ms
    started s1 n

/-- Pages that a matrix job may not use are skipped as a copy job skips them (R230). -/
def refuseMatPages (s : State) (core : Nat) (j : MatJob) (pages : List Nat) : State :=
  let s1 := s.modMat core j.id fun j => { j with skipped := j.skipped ++ pages }
  let s2 := j.owners.foldl (fun s o => raiseCstat s ⟨core, j.slot, o.1⟩ j.id 2) s1
  let grp := (j.owners.head?.map Prod.fst).getD 0
  pages.foldl (fun s q => s.postEvent j.part
    { kind := 7, core := core, slot := j.slot, grp := grp, ctx := j.ctx.toNat, info := q * 4096 }) s2

/-- Poison consumed for a group that has retired: no group is left that could take the trap, but the core is fenced and the
events are posted as with it (R266, DESIGN CHOICE log 37). The crew that stands in the slot goes on only where it is the
job's. -/
def lateCheck (s : State) (core : Nat) (j : MatJob) (lane line : Nat) : State :=
  let mine := match s.crew? core j.slot with
    | some k => decide (k.launch = j.launch) && decide (k.index = j.crew)
    | none => false
  let e : Event := { kind := 8, core := core, slot := j.slot, grp := (j.owners.head?.map Prod.fst).getD 0, cause := 0x50
                     ctx := j.ctx.toNat, tpc := j.pc.toNat, tval := lane, info := 128 * line }
  ((s.fence core (if mine then some j.slot else none)).postEvent j.part e).packageEvent e

/-- A matrix job that consumes poison: nothing is written, and the first of its groups that is still resident takes the
machine check (R266). -/
def poisonedMat (s : State) (core : Nat) (j : MatJob) (line : Nat) : State :=
  let s1 := s.modMat core j.id fun j => { j with started := true }
  let lane := match j.kind with
    | .mma _ (t :: _) => (lowestLane t.act).getD 0
    | _ => 0
  match j.owners.find? fun o => (jobGroup s ⟨core, j.slot, o.1⟩ j.id).isSome with
  | some o => machineCheck s1 ⟨core, j.slot, o.1⟩ j.pc lane line
  | none => lateCheck s1 core j lane line

/-- MATRIX_JOB_START (R280). -/
def execMatrixJobStart (core job : Nat) (s : State) : Out :=
  match (s.core core).mats.find? fun j => j.id = job with
  | none => .refused (.notEnabled "MATRIX_JOB_START")
  | some j =>
    if !(matReady s core j) then .refused (.notEnabled "MATRIX_JOB_START")
    else
      match matMisses s core j with
      | [] =>
        match matPoison s core j with
        | some line => .next (poisonedMat s core j line)
        | none => .next (runMat s core j)
      | miss =>
        let grp := (j.owners.head?.map Prod.fst).getD 0
        if !(bitOf (s.part j.part).pctl.toNat 7) then .next (refuseMatPages s core j (miss.map Prod.fst).dedup)
        else match sendJobPages s j.part ⟨core, j.slot, grp⟩ ⟨j.launch, j.crew, grp⟩ j.ctx j.id miss with
          | none => .refused (.notEnabled "MATRIX_JOB_START")
          | some (i, s1) => .next (s1.modMat core j.id fun j => { j with page := some i })

/-- MATRIX_JOB_COMPLETE (R280). -/
def execMatrixJobComplete (core job : Nat) (s : State) : Out :=
  match (s.core core).mats.find? fun j => j.id = job with
  | none => .refused (.notEnabled "MATRIX_JOB_COMPLETE")
  | some j =>
    if !(j.started && j.acks = 0) then .refused (.notEnabled "MATRIX_JOB_COMPLETE")
    else
      let c := s.core core
      let s0 := tellTokens (s.setCore core { c with mats := c.mats.filter fun x => x.id ≠ j.id }) core j.id j.gwct
      let s1 := drainUntil s0 j.launch j.gwct
      .next (j.owners.foldl (fun s o => tellGroup s ⟨core, j.slot, o.1⟩ j.id j.gwct) s1)

/-- ACCOWN_TAKE_EFFECT: a write of ACCOWNk that waited for matrix jobs takes effect, and its instruction retires (R286). -/
def execAccownTakeEffect (core region : Nat) (s : State) : Out :=
  let c := s.core core
  match getAt none c.ownWrite region with
  | none => .refused (.notEnabled "ACCOWN_TAKE_EFFECT")
  | some (v, st) =>
    if regionBusy c region then .refused (.notEnabled "ACCOWN_TAKE_EFFECT")
    else
      let s1 := s.setCore core (setOwner c region v)
      match getAt none c.ownWriter region with
      | none => .next s1
      | some gid => .next (s1.modGroup gid fun g => { (g.settle.endChain.retire st (g.pc + 4)) with since := s.gt })

end Sys2Proof.Machine
end

