-- ==== Sys2Proof/Machine/Special.lean ====
section
/-! DEFINITION. The special functions of FSPEC (R159): exact cases apart, a value is a series summed to 256 fraction bits and then rounded once; DEDUCED log 18 says what the 256 bits stand for. -/

namespace Sys2Proof.Machine

/-- Fraction bits of the fixed-point series. -/
def fxBits : Nat := 256

/-- 1.0 in fixed point. -/
def fxOne : Nat := 2 ^ fxBits

/-- Sum of t^(2k+1)/(2k+1): the inverse hyperbolic tangent; `pw` is t^(2k+1). -/
def fxAtanhLoop : Nat → Nat → Nat → Nat → Nat → Nat
  | 0, _, _, _, acc => acc
  | n + 1, k, pw, t2, acc => fxAtanhLoop n (k + 1) (pw * t2 / fxOne) t2 (acc + pw / (2 * k + 1))

/-- atanh of a fixed-point t below 1/2. -/
def fxAtanh (t : Nat) : Nat := fxAtanhLoop 100 0 t (t * t / fxOne) 0

/-- The natural logarithm of 2. -/
def fxLn2 : Nat := 2 * fxAtanh (fxOne / 3)

/-- Sum of (-1)^k·t^(2k+1)/(2k+1): the inverse tangent. -/
def fxAtanLoop : Nat → Nat → Nat → Nat → Int → Int
  | 0, _, _, _, acc => acc
  | n + 1, k, pw, t2, acc =>
    let term : Int := pw / (2 * k + 1)
    fxAtanLoop n (k + 1) (pw * t2 / fxOne) t2 (if k % 2 = 0 then acc + term else acc - term)

/-- atan of a fixed-point t below 1/2. -/
def fxAtan (t : Nat) : Int := fxAtanLoop 120 0 t (t * t / fxOne) 0

/-- The circle constant, by Machin's formula. -/
def fxPi : Nat := (16 * fxAtan (fxOne / 5) - 4 * fxAtan (fxOne / 239)).toNat

/-- Sum of y^n/n!; `term` is y^n/n!. -/
def fxExpLoop : Nat → Nat → Nat → Nat → Nat → Nat
  | 0, _, _, _, acc => acc
  | f + 1, n, term, y, acc => fxExpLoop f (n + 1) (term * y / fxOne / (n + 1)) y (acc + term)

/-- e^y for a fixed-point y below 1. -/
def fxExp (y : Nat) : Nat := fxExpLoop 80 0 fxOne y 0

/-- Sum of (-1)^k·y^(2k+1)/(2k+1)!. -/
def fxSinLoop : Nat → Nat → Nat → Nat → Int → Int
  | 0, _, _, _, acc => acc
  | f + 1, k, term, y2, acc =>
    fxSinLoop f (k + 1) (term * y2 / fxOne / ((2 * k + 2) * (2 * k + 3))) y2
      (if k % 2 = 0 then acc + term else acc - term)

/-- sin of a fixed-point y below 2. -/
def fxSin (y : Nat) : Nat := (fxSinLoop 50 0 y (y * y / fxOne) 0).toNat

/-- sin(π·r/2^D) for r/2^D strictly between 0 and 1/2 or at 1/2, as an exact or sticky fixed-point value. -/
def fxSinPi (r d : Nat) : Nat × Bool :=
  if 2 * r = 2 ^ d then (fxOne, false)
  else (fxSin (fxPi * (r * 2 ^ fxBits / 2 ^ d) / fxOne), true)

/-- 1 / √x (R159). -/
def specRsq (ftz : Bool) : FVal → FRes
  | .nan s => nanRes .f32 s
  | .inf neg => if neg then nanRes .f32 true else (0, 0)
  | .fin neg m e =>
    if m = 0 then ((infRes .f32 neg).1, flagDZ)
    else if neg then nanRes .f32 true
    else
      let (m', e') : Nat × Int := if e % 2 = 0 then (m, e) else (2 * m, e - 1)
      let k := 40 + m'.log2
      let r := natRoot (2 ^ (2 * k) / m')
      roundSticky .f32 0 ftz false r (-(k : Int) - e' / 2) (r * r * m' ≠ 2 ^ (2 * k))

/-- 2^x (R159). -/
def specExp2 (ftz : Bool) : FVal → FRes
  | .nan s => nanRes .f32 s
  | .inf neg => if neg then (0, 0) else infRes .f32 false
  | .fin neg m e =>
    if m ≠ 0 ∧ 12 < (m.log2 : Int) + e then roundFin .f32 0 ftz false 1 (if neg then -5000 else 5000)
    else
      let d := (-e).toNat
      let x : Int := if 0 ≤ e then m * 2 ^ e.toNat else m
      let sx := if neg then -x else x
      let n : Int := sx / (2 ^ d : Nat)
      let f : Nat := (sx % (2 ^ d : Nat)).toNat
      if f = 0 then roundFin .f32 0 ftz false 1 n
      else roundSticky .f32 0 ftz false (fxExp (f * 2 ^ fxBits / 2 ^ d * fxLn2 / fxOne)) (n - fxBits) true

/-- log₂ x (R159). -/
def specLog2 (ftz : Bool) : FVal → FRes
  | .nan s => nanRes .f32 s
  | .inf neg => if neg then nanRes .f32 true else infRes .f32 false
  | .fin neg m e =>
    if m = 0 then ((infRes .f32 true).1, flagDZ)
    else if neg then nanRes .f32 true
    else
      let ex : Int := (m.log2 : Int) + e
      if m = 2 ^ m.log2 then roundVal .f32 0 ftz (ex < 0) ex.natAbs 0
      else
        let x := m * fxOne / 2 ^ m.log2
        let frac := 2 * fxAtanh ((x - fxOne) * fxOne / (x + fxOne)) * fxOne / fxLn2
        let tot : Int := 2 * (ex * fxOne + frac) + 1
        roundVal .f32 0 ftz (tot < 0) tot.natAbs (-(fxBits : Int) - 1)

/-- sin(π·x) (R159). -/
def specSinPi (ftz : Bool) : FVal → FRes
  | .nan s => nanRes .f32 s
  | .inf _ => nanRes .f32 true
  | .fin neg m e =>
    let d := (-e).toNat
    if 0 ≤ e ∨ m % 2 ^ d = 0 then (signBits .f32 neg, 0)
    else
      let r := m % 2 ^ (d + 1)
      let flip := decide (2 ^ d ≤ r)
      let r1 := r % 2 ^ d
      let r2 := if 2 ^ d < 2 * r1 then 2 ^ d - r1 else r1
      let (v, sticky) := fxSinPi r2 d
      roundSticky .f32 0 ftz (neg != flip) v (-(fxBits : Int)) sticky

/-- cos(π·x) (R159). -/
def specCosPi (ftz : Bool) : FVal → FRes
  | .nan s => nanRes .f32 s
  | .inf _ => nanRes .f32 true
  | .fin _ m e =>
    let d := (-e).toNat
    let mm := if 0 ≤ e then m * 2 ^ (min e.toNat 2) else m
    let r := mm % 2 ^ (d + 1)
    let r1 := if 2 ^ d < r then 2 ^ (d + 1) - r else r
    let neg := decide (2 ^ d < 2 * r1)
    let r2 := if neg then 2 ^ d - r1 else r1
    if 2 * r2 = 2 ^ d then (0, 0)
    else
      let (v, sticky) := fxSinPi (2 ^ d - 2 * r2) (d + 1)
      roundSticky .f32 0 ftz neg v (-(fxBits : Int)) sticky

/-- FSPEC's function f of an input after R111, rounded to nearest-even (R159). -/
def fSpec (fn : Nat) (ftz : Bool) (x : FVal) : FRes :=
  match fn with
  | 0 => fDiv .f32 0 ftz (.fin false 1 0) x
  | 1 => specRsq ftz x
  | 2 => specExp2 ftz x
  | 3 => specLog2 ftz x
  | 4 => specSinPi ftz x
  | _ => specCosPi ftz x

end Sys2Proof.Machine
end

