-- ==== Sys2Proof/Machine/VecFloat.lean ====
section
/-! DEFINITION. Float vector instructions, chains, tables, conversions, dot products and packing: opcodes 0x80 to 0x98 (R117, R155 to R168). -/

namespace Sys2Proof.Machine

open Sys2Proof

/-! ### Arithmetic and chains (R117, R155) -/

/-- An exact operation on values, rounded once into a format (R155). -/
abbrev FloatOp := Fmt → RndMode → Bool → List FVal → FRes

/-- a + b. -/
def opAdd : FloatOp := fun f m z xs => match xs with | [a, b] => fAdd f m z a b | _ => (0, 0)
/-- a - b. -/
def opSub : FloatOp := fun f m z xs => match xs with | [a, b] => fAdd f m z a b.negate | _ => (0, 0)
/-- a · b. -/
def opMul : FloatOp := fun f m z xs => match xs with | [a, b] => fMul f m z a b | _ => (0, 0)
/-- a · b + c. -/
def opFma : FloatOp := fun f m z xs => match xs with | [a, b, c] => fFma f m z a b c | _ => (0, 0)
/-- a / b. -/
def opDiv : FloatOp := fun f m z xs => match xs with | [a, b] => fDiv f m z a b | _ => (0, 0)
/-- The square root of a. -/
def opSqrt : FloatOp := fun f m z xs => match xs with | [a] => fSqrt f m z a | _ => (0, 0)

/-- One lane of an element-wise float instruction on its source registers (R143, R155). -/
def arithLane (op : FloatOp) (rs : List Nat) (s : State) (g : Group) (l : Nat) : Word × FlagBits :=
  let z := mwFtz g.regs.mw
  floatLane (effType s g) (rs.map fun r => g.regs.readV r l) fun f xs => op f (effRnd s g) z (xs.map (readFloat f z))

/-- A result of a register in a lane. -/
def RegVal.covers (v : RegVal) (l : Nat) : Bool :=
  match v with
  | .vec m _ => m.getLsbD l
  | _ => false

/-- What a member of a chain reads for a register in a lane: W where the previous member wrote it and its result is
ready, else the register (R117). An older result of the lane that is not ready has lost it to the member's (R84), so that
one that still has it is the member's own. -/
def memberRead (g : Group) (r l : Nat) : FVal :=
  if g.regs.wv.getLsbD l && r = g.regs.prevDest && !(mwPsr g.regs.mw)
      && !(g.pend.any fun p => p.reg = r && p.val.covers l) then
    decodeFloat .b64 (laneGet64 g.regs.w l).toNat
  else readFloat .f32 (mwFtz g.regs.mw) (g.regs.readV r l).toNat

/-- One lane of a member: the value of W, the F32 result, the flags of both roundings (R117). Under MW.PSR the result is
that of the instruction without a chain (DEDUCED log 19). -/
def memberLane (op : FloatOp) (rs : List Nat) (s : State) (g : Group) (l : Nat) : DWord × Word × FlagBits :=
  let xs := rs.map fun r => memberRead g r l
  let w := op .b64 0 false xs
  let r := if mwPsr g.regs.mw then op .f32 (effRnd s g) (mwFtz g.regs.mw) xs
    else convFloat .f32 (effRnd s g) (mwFtz g.regs.mw) (decodeFloat .b64 w.1)
  (BitVec.ofNat 64 w.1, BitVec.ofNat 32 r.1, w.2 ||| r.2)

/-- The group after a member whose active lanes are m and whose results are given (R117). -/
def Group.member (g : Group) (m : Mask) (d : Nat) (ws : List DWord) : Group :=
  { g with regs := { g.regs with
      w := laneMerge64 m g.regs.w (laneGet64 ws), wv := m, cc := g.regs.cc - 1, prevDest := d } }

/-- FADD, FSUB, FMUL and FFMA: members of an open chain under F32, else element-wise (R117, R155). -/
def chainOp (q : Desc) (d : Nat) (rs : List Nat) (op : FloatOp) (s : State) : Out :=
  let q := { q with masked := true, writes := [d] }
  issue q s fun g m =>
    if g.regs.cc ≠ 0 && effType s g = 2 then
      if m = 0 then .next (finishMember s q (g.member 0 d []))
      else
        let xs := laneResults (0, 0, 0) m (memberLane op rs s g)
        withFlags s g (laneFlags (xs.map fun x => x.2.2)) fun g1 =>
          .next (finishMember s q ((g1.member m d (xs.map fun x => x.1)).result 1 d
            (.vec (m ||| zeroLanes s g m) (xs.map fun x => x.2.1))))
    else if m = 0 then .next (finish s q g)
    else
      let xs := laneResults (0, 0) m (arithLane op rs s g)
      withFlags s g (laneFlags (xs.map Prod.snd)) fun g1 =>
        .next (finish s q (g1.result 1 d (.vec (m ||| zeroLanes s g m) (xs.map Prod.fst))))

/-- FADD (R155). -/
def execFadd (st : BitVec 3) (d a b : BitVec 7) (s : State) : Out :=
  chainOp (vDesc (encode (.fadd st d a b)) 0x80 st.toNat 1 setF d.toNat [a.toNat, b.toNat]) d.toNat [a.toNat, b.toNat] opAdd s

/-- FSUB (R155). -/
def execFsub (st : BitVec 3) (d a b : BitVec 7) (s : State) : Out :=
  chainOp (vDesc (encode (.fsub st d a b)) 0x81 st.toNat 1 setF d.toNat [a.toNat, b.toNat]) d.toNat [a.toNat, b.toNat] opSub s

/-- FMUL (R155). -/
def execFmul (st : BitVec 3) (d a b : BitVec 7) (s : State) : Out :=
  chainOp (vDesc (encode (.fmul st d a b)) 0x82 st.toNat 1 setF d.toNat [a.toNat, b.toNat]) d.toNat [a.toNat, b.toNat] opMul s

/-- FFMA (R96, R155). -/
def execFfma (st : BitVec 3) (d a b : BitVec 7) (s : State) : Out :=
  let rs := [a.toNat, b.toNat, accReg s d.toNat]
  chainOp (vDesc (encode (.ffma st d a b)) 0x83 st.toNat 1 setF d.toNat rs) d.toNat rs opFma s

/-- FMIN and FMAX: element-wise, not rounded (R155). -/
def minMaxOp (w : Word) (op st d a b : Nat) (less : Bool) (s : State) : Out :=
  flagOp (vDesc w op st 0 setF d [a, b]) d (fun s g l =>
    floatLane (effType s g) [g.regs.readV a l, g.regs.readV b l] fun f xs =>
      match xs with
      | [x, y] => fMinMax f (mwFtz g.regs.mw) less x y
      | _ => (0, 0)) s

/-- FMIN (R155). -/
def execFmin (st : BitVec 3) (d a b : BitVec 7) (s : State) : Out :=
  minMaxOp (encode (.fmin st d a b)) 0x84 st.toNat d.toNat a.toNat b.toNat true s

/-- FMAX (R155). -/
def execFmax (st : BitVec 3) (d a b : BitVec 7) (s : State) : Out :=
  minMaxOp (encode (.fmax st d a b)) 0x85 st.toNat d.toNat a.toNat b.toNat false s

/-- The bits of a register's sign bits under a type (R156). -/
def signMask (t : ETypeCode) : Word := elemMap t fun _ => 2 ^ (etWidth t - 1)

/-- FABS (R156). -/
def execFabs (st : BitVec 3) (d a : BitVec 7) (s : State) : Out :=
  vecOp (vDesc (encode (.fabs st d a)) 0x86 st.toNat 0 setH d.toNat [a.toNat]) d.toNat (fun g l =>
    g.regs.readV a.toNat l &&& ~~~ (signMask (effType s g))) s

/-- FNEG (R156). -/
def execFneg (st : BitVec 3) (d a : BitVec 7) (s : State) : Out :=
  vecOp (vDesc (encode (.fneg st d a)) 0x87 st.toNat 0 setH d.toNat [a.toNat]) d.toNat (fun g l =>
    g.regs.readV a.toNat l ^^^ signMask (effType s g)) s

/-- The relations of FCMP and FCMPX (cond + 4) on two values, and whether a quiet NaN sets IV (R157). -/
def floatRel (c : Nat) (a b : FVal) : Bool × Bool :=
  let un := a.isNan || b.isNan
  match c with
  | 0 => (!un && FVal.eqv a b, false)
  | 1 => (un || !(FVal.eqv a b), false)
  | 2 => (!un && FVal.lt a b, true)
  | 3 => (!un && !(FVal.lt b a), true)
  | 4 => (!un && FVal.lt b a, true)
  | 5 => (!un && !(FVal.lt a b), true)
  | 6 => (un, false)
  | _ => (!un, false)

/-- FCMP and FCMPX (R157). -/
def floatCompare (w : Word) (op st p c a b : Nat) (s : State) : Out :=
  let q : Desc := { word := w, op := op, st := st, vtop := topOf [a, b], types := setG, reads := [a, b], masked := true
                    writes := [codeP p] }
  issue q s fun g m =>
    if m = 0 then .next (finish s q g)
    else
      let z := mwFtz g.regs.mw
      let rs := laneResults (false, (0 : FlagBits)) m fun l =>
        let x := readFloat .f32 z (g.regs.readV a l).toNat
        let y := readFloat .f32 z (g.regs.readV b l).toNat
        let r := floatRel c x y
        (r.1, flagIf (x.snan || y.snan || (r.2 && (x.isNan || y.isNan))) flagIV)
      withFlags s g (laneFlags (rs.map Prod.snd)) fun g1 =>
        .next (finish s q (g1.result 0 (codeP p)
          (.pred (m ||| zeroLanes s g m) (maskOf fun l => getAt false (rs.map Prod.fst) l))))

/-- FCMP (R157). -/
def execFcmp (st : BitVec 3) (p : BitVec 5) (c : BitVec 2) (a b : BitVec 7) (s : State) : Out :=
  floatCompare (encode (.fcmp st p c a b)) 0x88 st.toNat p.toNat c.toNat a.toNat b.toNat s

/-- FCMPX (R157). -/
def execFcmpx (st : BitVec 3) (p : BitVec 5) (c : BitVec 2) (a b : BitVec 7) (s : State) : Out :=
  floatCompare (encode (.fcmpx st p c a b)) 0x89 st.toNat p.toNat (c.toNat + 4) a.toNat b.toNat s

/-- FCLASS: no flush, no flag (R158). -/
def execFclass (st : BitVec 3) (d a : BitVec 7) (s : State) : Out :=
  vecOp (vDesc (encode (.fclass st d a)) 0x8A st.toNat 0 setG d.toNat [a.toNat]) d.toNat (fun g l =>
    BitVec.ofNat 32 (fClass (g.regs.readV a.toNat l).toNat)) s

/-- FRND (R155). -/
def execFrnd (st : BitVec 3) (d a : BitVec 7) (s : State) : Out :=
  flagOp (vDesc (encode (.frnd st d a)) 0x8B st.toNat 1 setF d.toNat [a.toNat]) d.toNat (fun s g l =>
    floatLane (effType s g) [g.regs.readV a.toNat l] fun f xs =>
      match xs with
      | [x] => fRnd f (effRnd s g) (mwFtz g.regs.mw) x
      | _ => (0, 0)) s

/-- A lane-by-lane instruction of variable latency, with flags: its results join the outstanding ones (R85). -/
def flagOut (q : Desc) (ds : List Nat) (f : State → Group → Nat → List Word × FlagBits) (s : State) : Out :=
  let q := { q with masked := true, writes := ds }
  issue q s fun g m =>
    if m = 0 then .next (finish s q g)
    else
      let rs := laneResults ([], 0) m (f s g)
      withFlags s g (laneFlags (rs.map Prod.snd)) fun g1 =>
        let (id, s1) := s.fresh
        .next (finish s1 q (g1.outValue id
          (ds.zipIdx.map fun x => (x.1, .vec (m ||| zeroLanes s g m) (rs.map fun r => getAt 0 r.1 x.2))) g.pc))

/-- A float instruction of variable latency with one destination. -/
def floatOut (q : Desc) (d : Nat) (f : State → Group → Nat → Word × FlagBits) (s : State) : Out :=
  flagOut q [d] (fun s g l => let r := f s g l; ([r.1], r.2)) s

/-- FDIV (R155). -/
def execFdiv (st : BitVec 3) (d a b : BitVec 7) (s : State) : Out :=
  floatOut (vDesc (encode (.fdiv st d a b)) 0x8C st.toNat 0 setG d.toNat [a.toNat, b.toNat]) d.toNat
    (arithLane opDiv [a.toNat, b.toNat]) s

/-- FSQRT (R155). -/
def execFsqrt (st : BitVec 3) (d a : BitVec 7) (s : State) : Out :=
  floatOut (vDesc (encode (.fsqrt st d a)) 0x8D st.toNat 0 setG d.toNat [a.toNat]) d.toNat
    (arithLane opSqrt [a.toNat]) s

/-- FSPEC (R159). -/
def execFspec (st : BitVec 3) (d a f : BitVec 7) (s : State) : Out :=
  flagOp (vDesc (encode (.fspec st d a f)) 0x8E st.toNat 5 setG d.toNat [a.toNat]) d.toNat (fun _ g l =>
    let z := mwFtz g.regs.mw
    let r := fSpec f.toNat z (readFloat .f32 z (g.regs.readV a.toNat l).toNat)
    (BitVec.ofNat 32 r.1, r.2)) s

/-! ### Programmable tables (R160 to R163) -/

/-- Table t of a core. -/
def Core.table (c : Core) (t : Nat) : Table := getAt Table.reset c.tables t

/-- A core with a table replaced. -/
def Core.setTable (c : Core) (t : Nat) (x : Table) : Core := { c with tables := setAt Table.reset c.tables t x }

/-- i·2^e as a value, for the segment index i. -/
def scaledIndex (i : Nat) (e : Int) : FVal := .fin false i e

/-- The segment index of x: floor((x - lo)·2^(-e)) clamped to 0 to 255; an infinity goes to its end (R161). -/
def segIndex (x lo : FVal) (e : Int) : Nat :=
  match x with
  | .inf neg => if neg then 0 else 255
  | .fin n m k =>
    let ts := [FVal.fin n m k, lo.negate]
    let g := (minExp ts).getD 0
    let y := ts.foldl (fun a t => a + scaledTo g t) 0
    let i : Int := if e ≤ g then y * (2 ^ (g - e).toNat : Nat) else y / (2 ^ (e - g).toNat : Nat)
    (clampTo 0 255 i).toNat
  | .nan _ => 0

/-- An evaluation of a table copy (R161). -/
def tableEval (c : TableCopy) (ftz : Bool) (bits : Nat) : FRes :=
  match readFloat .f32 ftz bits with
  | .nan s => nanRes .f32 s
  | x =>
    let lo := decodeFloat .f32 c.lo.toNat
    let i := segIndex x lo c.e.toInt
    let seg := getAt (0, 0) c.segs i
    let value := decodeFloat .f32 seg.1.toNat
    let slope := decodeFloat .f32 seg.2.toNat
    match x with
    | .inf _ =>
      let p := productTerms [(slope, x)]
      sumRound .f32 0 ftz p.2 (p.1 ++ [value])
    | _ =>
      let ts := [x, lo.negate, (scaledIndex i c.e.toInt).negate]
      let g := (minExp ts).getD 0
      let y := ts.foldl (fun a t => a + scaledTo g t) 0
      let p := productTerms [(slope, .fin (y < 0) y.natAbs g)]
      sumRound .f32 0 ftz p.2 (p.1 ++ [value])

/-- TBLEV: the active copy; it waits while an exchange of its table is under way (R161, R163). -/
def execTblev (st : BitVec 3) (d a : BitVec 7) (t : BitVec 1) (s : State) : Out :=
  let q := { vDesc (encode (.tblev st d a t)) 0x8F st.toNat 5 setG d.toNat [a.toNat] with
    masked := true, writes := [d.toNat] }
  issue q s fun g m =>
    let tb := (s.core s.cur.core).table t.toNat
    if m = 0 then .next (finish s q g)
    else if tb.swaps ≠ 0 then .next (holdIssue s)
    else
      let rs := laneResults (0, 0) m fun l =>
        let r := tableEval tb.active (mwFtz g.regs.mw) (g.regs.readV a.toNat l).toNat
        (BitVec.ofNat 32 r.1, r.2)
      withFlags s g (laneFlags (rs.map Prod.snd)) fun g1 =>
        .next (finish s q (g1.result 5 d.toNat (.vec (m ||| zeroLanes s g m) (rs.map Prod.fst))))

/-- A table copy read from scratchpad (R162). -/
def tableRead (c : Core) (granules : List Nat) (o : Nat) (lo e : Word) : TableCopy :=
  ⟨lo, e, (List.range 256).map fun j => (scratchWord c granules (o + 8 * j), scratchWord c granules (o + 8 * j + 4))⟩

/-- TBLLD (R162): it waits while an exchange of its table is under way, and, as an access, for what an acquire covers
(R187). What the spec leaves open is the model's choice (DESIGN CHOICE log 59): TVAL is 0 for trap 0x20, which no lane raises
(R120), and the offset for trap 0x0A; poisoned scratchpad takes the machine check before a bad exponent or bound counts. -/
def execTblld (st : BitVec 3) (a b : BitVec 6) (t : BitVec 1) (s : State) : Out :=
  let q : Desc := { word := encode (.tblld st a b t), op := 0x90, st := st.toNat, masked := true
                    reads := [codeS a.toNat, codeS b.toNat, codeS (b.toNat + 1)] }
  issue q s fun g m =>
    if m = 0 then .next (finish s q g)
    else
      let o := g.regs.readS a.toNat
      let lo := g.regs.readS b.toNat
      let e := g.regs.readS (b.toNat + 1)
      let c := s.core s.cur.core
      let granules := match s.crew? s.cur.core s.cur.slot with | some k => k.granules | none => []
      if o.toNat % 8 ≠ 0 then .next (takeTrap s 0x0A o)
      else if scratchBytes granules < o.toNat + 2048 then .next (takeTrap s 0x0B o)
      else if acquirePending g then .next (holdIssue s)
      else
        let finite := match decodeFloat .f32 lo.toNat with | .fin _ _ _ => true | _ => false
        match scratchPoison s s.cur.core granules o.toNat 2048 with
        | some line => .next (machineCheck s s.cur g.pc 0 line)
        | none =>
          if e.toInt < -126 || 119 < e.toInt || !finite then
            if mwTeiv g.regs.mw then .next (takeTrap s 0x20 0) else .next (finish s q (g.raise flagIV))
          else
            let tb := c.table t.toNat
            if tb.swaps ≠ 0 then .next (holdIssue s)
            else
              let s1 := s.setCore s.cur.core (c.setTable t.toNat { tb with shadow := tableRead c granules o.toNat lo e })
              .next (finish s1 q g)

/-- TBLSW: an exchange that TABLE_SWAP carries out (R163). -/
def execTblsw (st : BitVec 3) (t : BitVec 1) (s : State) : Out :=
  let q : Desc := { word := encode (.tblsw st t), op := 0x91, st := st.toNat, masked := true }
  issue q s fun g m =>
    if m = 0 then .next (finish s q g)
    else
      let c := s.core s.cur.core
      let tb := c.table t.toNat
      .next (finish (s.setCore s.cur.core (c.setTable t.toNat { tb with swaps := tb.swaps + 1 })) q g)

/-- TABLE_SWAP: the copies exchange and the version rises by one, modulo 2^16 (R163). An evaluation of the model is
complete when it issues, so none of the old version is in flight. -/
def execTableSwap (core table : Nat) (s : State) : Out :=
  let c := s.core core
  let tb := c.table table
  if tb.swaps = 0 then .refused (.notEnabled "TABLE_SWAP")
  else .next (s.setCore core (c.setTable table
    { active := tb.shadow, shadow := tb.active, version := tb.version + 1, swaps := tb.swaps - 1 }))

/-! ### Conversion and requantisation (R164, R165) -/

/-- The source bits of element i of lane l in a field of S: a 64-bit type reads its pair (R164). -/
def convSource (g : Group) (t : ETypeCode) (a l i : Nat) : Nat :=
  if 14 ≤ t then (g.regs.readPair (2 * a) l).toNat else elemAt t (g.regs.readV a l) i

/-- The words of a destination of type D from its elements' bits (R164). -/
def convWords (t : ETypeCode) (xs : List Nat) : List Word :=
  if 14 ≤ t then
    let x := getAt 0 xs 0
    [BitVec.ofNat 32 x, BitVec.ofNat 32 (x / 2 ^ 32)]
  else [packElems (etWidth t) xs]

/-- CVT (R164). -/
def execCvt (st : BitVec 3) (d a : BitVec 7) (t : BitVec 4) (r : BitVec 3) (s : State) : Out :=
  let src := match s.group? s.cur with | some g => effType s g.settle | none => 0
  let dt := t.toNat
  let ds := if 14 ≤ dt then regsFrom (2 * d.toNat) 2 else [d.toNat]
  let as := if 14 ≤ src then regsFrom (2 * a.toNat) 2 else [a.toNat]
  flagMulti { word := encode (.cvt st d a t r), op := 0x92, st := st.toNat, vtop := topOf (ds ++ as), reads := as, min := 1 }
    ds (fun s g l =>
      let sT := effType s g
      let k := min (etCount sT) (etCount dt)
      let rs := (List.range k).map fun i =>
        convert sT dt r.toNat (mwSat g.regs.mw) (mwFtz g.regs.mw) (convSource g sT a.toNat l i)
      (convWords dt (rs.map Prod.fst), rs.foldl (fun f x => f ||| x.2) 0)) s

/-- RQNT: each element in place (R114, R165). -/
def execRqnt (st : BitVec 3) (v : BitVec 7) (a : BitVec 6) (s : State) : Out :=
  flagOp { vDesc (encode (.rqnt st v a)) 0x93 st.toNat 1 setQ v.toNat [v.toNat] with reads := [v.toNat, codeS a.toNat] }
    v.toNat (fun s g l =>
      let t := effType s g
      let w := g.regs.readV v.toNat l
      let rs := (List.range (etCount t)).map fun i =>
        requant t (effRnd s g) (mwFtz g.regs.mw) (sWord (g.regs.readS a.toNat)) (elemAt t w i)
      (packElems (etWidth t) (rs.map Prod.fst), rs.foldl (fun f x => f ||| x.2) 0)) s

/-! ### Dot products and packing (R166 to R168) -/

/-- One lane of a dot product (R115, R166). -/
def dotLane (t : ETypeCode) (sat ftz : Bool) (rnd : RndMode) (a b c : Word) : Word × FlagBits :=
  let is := List.range (etCount t)
  match etFmt t with
  | some f =>
    let p := productTerms (is.map fun i => (readFloat f ftz (elemAt t a i), readFloat f ftz (elemAt t b i)))
    let r := sumRound .f32 rnd ftz p.2 (p.1 ++ [readFloat .f32 ftz c.toNat])
    (BitVec.ofNat 32 r.1, r.2)
  | none =>
    let acc : ETypeCode := if etSigned t then 0 else 1
    let x := is.foldl (fun x i => x + elemVal t a i * elemVal t b i) (etInt? acc c.toNat)
    (BitVec.ofNat 32 (fit sat acc x), 0)

/-- DOT4, DOT8 and DOT2 (R166). -/
def dotOp (w : Word) (op st : Nat) (types : List ETypeCode) (d a b : Nat) (s : State) : Out :=
  let c := accReg s d
  flagOp (vDesc w op st 2 types d [a, b, c]) d (fun s g l =>
    dotLane (effType s g) (mwSat g.regs.mw) (mwFtz g.regs.mw) (effRnd s g) (g.regs.readV a l) (g.regs.readV b l)
      (g.regs.readV c l)) s

/-- DOT4 (R166). -/
def execDot4 (st : BitVec 3) (d a b : BitVec 7) (s : State) : Out :=
  dotOp (encode (.dot4 st d a b)) 0x94 st.toNat [7, 8, 9, 10] d.toNat a.toNat b.toNat s

/-- DOT8 (R166). -/
def execDot8 (st : BitVec 3) (d a b : BitVec 7) (s : State) : Out :=
  dotOp (encode (.dot8 st d a b)) 0x95 st.toNat [11, 12, 13] d.toNat a.toNat b.toNat s

/-- DOT2 (R166). -/
def execDot2 (st : BitVec 3) (d a b : BitVec 7) (s : State) : Out :=
  dotOp (encode (.dot2 st d a b)) 0x96 st.toNat [3, 4, 5, 6] d.toNat a.toNat b.toNat s

/-- One source element of PACK narrowed to the type (R167). -/
def packElem (t : ETypeCode) (sat : Bool) (x : Nat) : Nat :=
  let w := etWidth t
  if sat && etInt t then
    wrapTo w (clampTo (etRange t).1 (etRange t).2 (if etSigned t then signedOf (2 * w) x else (x : Int)))
  else x % 2 ^ w

/-- PACK (R167). -/
def execPack (st : BitVec 3) (d a b : BitVec 7) (s : State) : Out :=
  vecOp (vDesc (encode (.pack st d a b)) 0x97 st.toNat 1 setP d.toNat [a.toNat, b.toNat]) d.toNat (fun g l =>
    let t := effType s g
    let w := etWidth t
    let half (x : Word) : List Nat := (List.range (16 / w)).map fun i =>
      packElem t (mwSat g.regs.mw) (bitsOf x.toNat (2 * w * (i + 1) - 1) (2 * w * i))
    packElems w (half (g.regs.readV a.toNat l) ++ half (g.regs.readV b.toNat l))) s

/-- UNPK (R168). -/
def execUnpk (st : BitVec 3) (d a : BitVec 7) (h : BitVec 1) (s : State) : Out :=
  vecOp (vDesc (encode (.unpk st d a h)) 0x98 st.toNat 1 setU d.toNat [a.toNat]) d.toNat (fun g l =>
    let t := effType s g
    let m := etCount t / 2
    let x := g.regs.readV a.toNat l
    packElems (2 * etWidth t) ((List.range m).map fun i =>
      wrapTo (2 * etWidth t) (elemVal t x (h.toNat * m + i)))) s

end Sys2Proof.Machine
end

