-- ==== Sys2Proof/Machine/Modular.lean ====
section
/-! DEFINITION. Modular arithmetic and the butterfly network: opcodes 0xA0 to 0xAF (R214 to R226). -/

namespace Sys2Proof.Machine

open Sys2Proof

/-- The number of bits of q. -/
def bitLength (q : Nat) : Nat := if q = 0 then 0 else q.log2 + 1

/-- A well-formed modulus and Barrett constant (R215). -/
def modWellFormed (q mu : Nat) : Bool :=
  q % 2 = 1 && 3 ≤ q && q < 2 ^ 61 && mu = 2 ^ (2 * bitLength q) / q

/-- What is stored of a modulus and its constant: zeros where they are not well-formed (R215). -/
def modChecked (q mu : DWord) : DWord × DWord := if modWellFormed q.toNat mu.toNat then (q, mu) else (0, 0)

/-- qm and qb with the pairs that R215 does not allow replaced by zero. -/
def Regs.checkMod (r : Regs) : Regs :=
  let q (l : Nat) : DWord × DWord := modChecked (laneGet64 r.qm l) (laneGet64 r.qb l)
  { r with qm := lanes.map fun l => (q l).1, qb := lanes.map fun l => (q l).2 }

/-- An operand reduced below q, with MQR where it was not (R217). -/
def modReduce (q x : Nat) : Nat × FlagBits := (x % q, flagIf (q ≤ x) flagMQR)

/-- Barrett reduction (R220). -/
def barrett (q mu x : Nat) : Nat :=
  let n := bitLength q
  let t := x / 2 ^ (n - 1) * mu / 2 ^ (n + 1)
  let r := x - t * q
  let r := if q ≤ r then r - q else r
  if q ≤ r then r - q else r

/-- Shoup multiplication (R221). -/
def shoup (q w w2 y : Nat) : Nat × FlagBits :=
  if q ≤ w || w2 ≠ w * 2 ^ 64 / q then (w * y % q, flagMQR)
  else
    let t := w2 * y / 2 ^ 64
    let r := (w * y + 2 ^ 64 * t * q - t * q) % 2 ^ 64
    (if q ≤ r then r - q else r, 0)

/-- qm of a lane. -/
def Regs.qmOf (r : Regs) (l : Nat) : Nat := (laneGet64 r.qm l).toNat
/-- qb of a lane. -/
def Regs.qbOf (r : Regs) (l : Nat) : Nat := (laneGet64 r.qb l).toNat

/-- The words of a value of n registers, lowest first (R214). -/
def wordsOf (n x : Nat) : List Word := (List.range n).map fun i => BitVec.ofNat 32 (x / 2 ^ (32 * i))

/-- The registers of pair n, and of quad n (R99). -/
def pairRegs (n : Nat) : List Nat := regsFrom (2 * n) 2
/-- The registers of quad n. -/
def quadRegs (n : Nat) : List Nat := regsFrom (4 * n) 4

/-- The value of pair n of a lane. -/
def Regs.pairVal (r : Regs) (n l : Nat) : Nat := (r.readPair (2 * n) l).toNat
/-- Coefficient i, 0 or 1, of quad n of a lane. -/
def Regs.quadVal (r : Regs) (n i l : Nat) : Nat := (r.readPair (4 * n + 2 * i) l).toNat

/-- The description of a modular instruction: its destination and source registers (R222). -/
def modDesc (w : Word) (op st min : Nat) (ds rs : List Nat) : Desc :=
  { word := w, op := op, st := st, vtop := topOf (ds ++ rs), reads := rs, min := min }

/-- One lane of an instruction that uses q: all-ones and MQC where the lane is invalid (R216). -/
def modLane (n : Nat) (f : Group → Nat → Nat → Nat → Nat × FlagBits) (g : Group) (l : Nat) : List Word × FlagBits :=
  let q := g.regs.qmOf l
  if q = 0 then (wordsOf n (2 ^ 128 - 1), flagMQC)
  else
    let r := f g q (g.regs.qbOf l) l
    (wordsOf n r.1, r.2)

/-- An instruction that uses q, with a pair as its destination. -/
def modOp (w : Word) (op st min d : Nat) (rs : List Nat) (f : Group → Nat → Nat → Nat → Nat × FlagBits) (s : State) : Out :=
  let q := modDesc w op st min (pairRegs d) rs
  flagMulti { q with reads := codeQ :: rs } (pairRegs d) (fun _ g l => modLane 2 f g l) s

/-- An instruction that moves or multiplies pairs without q: each destination register's words. -/
def pairOp (w : Word) (op st min : Nat) (ds rs : List Nat) (f : Group → Nat → Nat) (s : State) : Out :=
  vecMulti (modDesc w op st min ds rs) ds (fun g i l => BitVec.ofNat 32 (f g l / 2 ^ (32 * i))) s

/-- SETQ (R223): a pair that is not well-formed sets MQC. -/
def execSetq (st : BitVec 3) (w : BitVec 5) (s : State) : Out :=
  let q := { modDesc (encode (.setq st w)) 0xA0 st.toNat 1 [] (quadRegs w.toNat) with masked := true, writes := [codeQ] }
  issue q s fun g m =>
    if m = 0 then .next (finish s q g)
    else
      let rs := laneResults ((0 : DWord), (0 : DWord), (0 : FlagBits)) m fun l =>
        let a := g.regs.quadVal w.toNat 0 l
        let b := g.regs.quadVal w.toNat 1 l
        let x := modChecked (BitVec.ofNat 64 a) (BitVec.ofNat 64 b)
        (x.1, x.2, flagIf (!(modWellFormed a b)) flagMQC)
      withFlags s g (laneFlags (rs.map fun r => r.2.2)) fun g1 =>
        .next (finish s q (g1.result 1 codeQ
          (.modq (m ||| zeroLanes s g m) (rs.map fun r => r.1) (rs.map fun r => r.2.1))))

/-- GETQ (R223). -/
def execGetq (st : BitVec 3) (w : BitVec 5) (s : State) : Out :=
  let ds := quadRegs w.toNat
  vecMulti { modDesc (encode (.getq st w)) 0xA1 st.toNat 0 ds [] with reads := [codeQ] } ds
    (fun g i l => BitVec.ofNat 32 ((g.regs.qmOf l + 2 ^ 64 * g.regs.qbOf l) / 2 ^ (32 * i))) s

/-- Two reduced pairs combined. -/
def modTwo (a b : Nat) (f : Nat → Nat → Nat → Nat → Nat) (g : Group) (q mu l : Nat) : Nat × FlagBits :=
  let x := modReduce q (g.regs.pairVal a l)
  let y := modReduce q (g.regs.pairVal b l)
  (f q mu x.1 y.1, x.2 ||| y.2)

/-- MADDQ (R224). -/
def execMaddq (st : BitVec 3) (d a b : BitVec 7) (s : State) : Out :=
  modOp (encode (.maddq st d a b)) 0xA2 st.toNat 1 d.toNat (pairRegs a.toNat ++ pairRegs b.toNat)
    (modTwo a.toNat b.toNat fun q _ x y => (x + y) % q) s

/-- MSUBQ (R224). -/
def execMsubq (st : BitVec 3) (d a b : BitVec 7) (s : State) : Out :=
  modOp (encode (.msubq st d a b)) 0xA3 st.toNat 1 d.toNat (pairRegs a.toNat ++ pairRegs b.toNat)
    (modTwo a.toNat b.toNat fun q _ x y => (x + q - y) % q) s

/-- MNEGQ (R224). -/
def execMnegq (st : BitVec 3) (d a : BitVec 7) (s : State) : Out :=
  modOp (encode (.mnegq st d a)) 0xA4 st.toNat 1 d.toNat (pairRegs a.toNat) (fun g q _ l =>
    let x := modReduce q (g.regs.pairVal a.toNat l)
    ((q - x.1) % q, x.2)) s

/-- MMULQ (R224). -/
def execMmulq (st : BitVec 3) (d a b : BitVec 7) (s : State) : Out :=
  modOp (encode (.mmulq st d a b)) 0xA5 st.toNat 3 d.toNat (pairRegs a.toNat ++ pairRegs b.toNat)
    (modTwo a.toNat b.toNat fun q mu x y => barrett q mu (x * y)) s

/-- A twiddle w(r) with its companion times y, with the flags of both (R221, R224). -/
def modTwiddle (g : Group) (w q y l : Nat) : Nat × FlagBits :=
  let t := modReduce q (g.regs.quadVal w 0 l)
  let p := shoup q t.1 (g.regs.quadVal w 1 l) y
  (p.1, t.2 ||| p.2)

/-- MMULS (R224): vd and vs are pairs, vw a quad of twiddle and companion. -/
def execMmuls (st : BitVec 3) (d e : BitVec 6) (w : BitVec 5) (s : State) : Out :=
  modOp (encode (.mmuls st d e w)) 0xA6 st.toNat 3 d.toNat (pairRegs e.toNat ++ quadRegs w.toNat) (fun g q _ l =>
    let y := modReduce q (g.regs.pairVal e.toNat l)
    let p := modTwiddle g w.toNat q y.1 l
    (p.1, y.2 ||| p.2)) s

/-- MFMAQ (R96, R224). -/
def execMfmaq (st : BitVec 3) (d a b : BitVec 7) (s : State) : Out :=
  let c := accReg s d.toNat
  modOp (encode (.mfmaq st d a b)) 0xA7 st.toNat 3 d.toNat (pairRegs a.toNat ++ pairRegs b.toNat ++ pairRegs c)
    (fun g q mu l =>
      let x := modReduce q (g.regs.pairVal a.toNat l)
      let y := modReduce q (g.regs.pairVal b.toNat l)
      let z := modReduce q (g.regs.pairVal c l)
      (barrett q mu (x.1 * y.1 + z.1), x.2 ||| y.2 ||| z.2)) s

/-- MREDQ (R224): a 128-bit value of a quad. -/
def execMredq (st : BitVec 3) (d a : BitVec 7) (s : State) : Out :=
  modOp (encode (.mredq st d a)) 0xA8 st.toNat 3 d.toNat (quadRegs a.toNat) (fun g q mu l =>
    let x := g.regs.quadVal a.toNat 0 l + 2 ^ 64 * g.regs.quadVal a.toNat 1 l
    if q * q ≤ x then (x % q, flagMQR) else (barrett q mu x, 0)) s

/-- MCTRQ (R224). -/
def execMctrq (st : BitVec 3) (d a : BitVec 7) (s : State) : Out :=
  modOp (encode (.mctrq st d a)) 0xA9 st.toNat 1 d.toNat (pairRegs a.toNat) (fun g q _ l =>
    let x := modReduce q (g.regs.pairVal a.toNat l)
    (if x.1 ≤ (q - 1) / 2 then x.1 else 2 ^ 64 + x.1 - q, x.2)) s

/-- The low and the high lane of a pair at distance 2^d (R225). -/
def lowLane (l d : Nat) : Nat := if l.testBit d then l - 2 ^ d else l
/-- The high lane of a pair. -/
def highLane (l d : Nat) : Nat := if l.testBit d then l else l + 2 ^ d

/-- BFLY.CT with v = 0 and BFLY.GS with v = 1 (R225). -/
def execBfly (st : BitVec 3) (d e : BitVec 6) (w : BitVec 5) (t : BitVec 3) (v : BitVec 1) (s : State) : Out :=
  modOp (encode (.bfly st d e w t v)) 0xAA st.toNat 3 d.toNat (pairRegs e.toNat ++ quadRegs w.toNat) (fun g q _ l =>
    let isLow := !(l.testBit t.toNat)
    let x := modReduce q (g.regs.pairVal e.toNat (lowLane l t.toNat))
    let y := modReduce q (g.regs.pairVal e.toNat (highLane l t.toNat))
    let fl := x.2 ||| y.2
    if v = 0 then
      let p := modTwiddle g w.toNat q y.1 l
      (if isLow then (x.1 + p.1) % q else (x.1 + q - p.1) % q, fl ||| p.2)
    else if isLow then ((x.1 + y.1) % q, fl)
    else
      let p := modTwiddle g w.toNat q ((x.1 + q - y.1) % q) l
      (p.1, fl ||| p.2)) s

/-- PBF (R226). -/
def execPbf (st : BitVec 3) (d e : BitVec 6) (t : BitVec 3) (s : State) : Out :=
  pairOp (encode (.pbf st d e t)) 0xAB st.toNat 1 (pairRegs d.toNat) (pairRegs e.toNat)
    (fun g l => g.regs.pairVal e.toNat (Nat.xor l (2 ^ t.toNat))) s

/-- PBREV (R226). -/
def execPbrev (st : BitVec 3) (d e : BitVec 6) (k : BitVec 3) (s : State) : Out :=
  pairOp (encode (.pbrev st d e k)) 0xAC st.toNat 1 (pairRegs d.toNat) (pairRegs e.toNat)
    (fun g l =>
      let n := 2 ^ k.toNat
      g.regs.pairVal e.toNat (l / n * n + bitRev k.toNat (l % n))) s

/-- PROT.UP with v = 0 and PROT.DN with v = 1 (R226). -/
def execProt (st : BitVec 3) (d e : BitVec 6) (r : BitVec 5) (k : BitVec 3) (v : BitVec 1) (s : State) : Out :=
  pairOp (encode (.prot st d e r k v)) 0xAD st.toNat 1 (pairRegs d.toNat) (pairRegs e.toNat)
    (fun g l =>
      let n := 2 ^ k.toNat
      let j := l % n
      let i := if v = 0 then (j + n - r.toNat % n) % n else (j + r.toNat) % n
      g.regs.pairVal e.toNat (l / n * n + i)) s

/-- MULW: a 128-bit product into a quad, whatever the lane's modulus (R224). -/
def execMulw (st : BitVec 3) (d a b : BitVec 7) (s : State) : Out :=
  pairOp (encode (.mulw st d a b)) 0xAE st.toNat 3 (quadRegs d.toNat) (pairRegs a.toNat ++ pairRegs b.toNat)
    (fun g l => g.regs.pairVal a.toNat l * g.regs.pairVal b.toNat l) s

/-- MSHOUP: the companion of a value, of variable latency (R224). -/
def execMshoup (st : BitVec 3) (d a : BitVec 7) (s : State) : Out :=
  let q := modDesc (encode (.mshoup st d a)) 0xAF st.toNat 0 (pairRegs d.toNat) (pairRegs a.toNat)
  flagOut { q with reads := codeQ :: pairRegs a.toNat } (pairRegs d.toNat) (fun _ g l =>
    modLane 2 (fun g q _ l =>
      let x := modReduce q (g.regs.pairVal a.toNat l)
      (x.1 * 2 ^ 64 / q, x.2)) g l) s

end Sys2Proof.Machine
end

