-- ==== Sys2Proof/Machine/Window.lean ====
section
/-! DEFINITION. Window and post instructions: opcodes 0xE0 to 0xE8 (R305 to R310), EXIT (R37, R306), posts and their credits (R309, R344), node bins (R325). -/

namespace Sys2Proof.Machine

open Sys2Proof

/-! ### The wake of a group (R51, R306) -/

/-- A group's wake lane. -/
def Group.lane (g : Group) (l : Nat) : WakeLane :=
  match g.wake with
  | some (_, xs) => getAt ⟨none, none, false, false, none, none⟩ xs l
  | none => ⟨none, none, false, false, none, none⟩

/-- A window wake group. -/
def Group.windowWake (g : Group) : Option WakeKind :=
  match g.wake with
  | some (.node, _) => none
  | some (k, _) => some k
  | none => none

/-- The launch and the window descriptor of the issuing group. -/
def curWindow (s : State) : Option (Crew × WinDesc) :=
  match s.crew? s.cur.core s.cur.slot with
  | none => none
  | some k => (s.win? k.launch).map fun w => (k, w)

/-- The frame registers that the issuing group's slates have. -/
def frameRegs (s : State) : List Nat :=
  match curWindow s with
  | some (_, w) => List.range w.frame
  | none => []

/-- A group whose unbacked lanes among some have been given slots; those that found none (R302). -/
def placeLanes : List Nat → Dormer × List WakeLane × List Nat → Dormer × List WakeLane × List Nat
  | [], a => a
  | l :: ls, (d, xs, left) =>
    let x := getAt ⟨none, none, false, false, none, none⟩ xs l
    match x.unbacked, x.slate with
    | true, some id =>
      match d.freeBank with
      | some b => placeLanes ls (d.modSlate id fun y => { y with backed := true, bank := some b },
          setAt ⟨none, none, false, false, none, none⟩ xs l { x with unbacked := false }, left)
      | none => placeLanes ls (d, xs, left ++ [l])
    | _, _ => placeLanes ls (d, xs, left)

/-- The wake lanes with those that have ended holding no slate. -/
def endedLanes (xs : List WakeLane) (e : Mask) : List WakeLane :=
  xs.zipIdx.map fun x => if e.getLsbD x.2 then { x.1 with slate := none, partner := none } else x.1

/-- The lanes of a mask end their slates (R306); an unbacked lane's slate is dropped. -/
def endSlates (s : State) (g : Group) (kind : WakeKind) (how : LaneEnd) (e : Mask) : State × Group :=
  match curWindow s, g.wake with
  | some (k, w), some (wk, xs) =>
    let s1 := (activeLanes e).foldl (fun s l =>
      let x := g.lane l
      s.modDormer s.cur.core k.launch fun w d =>
        match x.unbacked, x.slate with
        | true, some id => d.free id
        | _, _ => d.endLane w kind how x ((List.range w.frame).map fun i => g.regs.readV i l)) s
    let s2 := s1.modDormer s.cur.core k.launch fun _ d => d.tidy w
    (wakeSlots s2 s.cur.core s.cur.slot, { g with wake := some (wk, endedLanes xs e) })
  | _, _ => (s, g)

/-- Lanes leave the group (R306, R37): they join XM, and a group without active lanes resumes or retires. It first waits
for its outstanding results where it would retire (R86). -/
def leaveLanes (s : State) (q : Desc) (g : Group) (e : Mask) (k : State → Group → State × Group) : Out :=
  let xm := g.regs.xm ||| e
  let act := g.regs.act &&& ~~~ e
  if act = 0 && (popLive xm g.stack).isNone && !g.outst.isEmpty then .next (waitIssue s .drain)
  else
    let (s1, g1) := k s g
    let y := g1.setAct act
    let g2 := { y with regs := { y.regs with xm := xm } }
    if act = 0 then resumeOrRetire s1 q g2 false else .next (finish s1 q g2)

/-- WYIELD, WCLOSE and WMERGE (R306). -/
def endWake (q : Desc) (how : LaneEnd) (node : Bool) (s : State) : Out :=
  issue { q with masked := true, reads := if how = .closes then [] else frameRegs s, writes := codesAct } s fun g m =>
    if m = 0 then .next (finish s q g)
    else
      match g.windowWake with
      | none =>
        if !(node && g.wake.isSome) then .next (takeTrap s 0x01 q.word)
        else if !(releasedCore g) then .next (holdIssue s)
        else leaveLanes s q g m fun s g => (s, g)
      | some kind =>
        if !(releasedCore g) then .next (holdIssue s)
        else
          match curWindow s, s.dormer? s.cur.core ((curWindow s).map (fun x => x.1.launch) |>.getD 0), g.wake with
          | some (k, _), some d, some (wk, xs) =>
            let need := if how = .closes then [] else activeLanes m
            let (d1, xs1, left) := placeLanes need (d, xs, [])
            let g1 := { g with wake := some (wk, xs1) }
            let s1 := s.modDormer s.cur.core k.launch fun _ _ => d1
            if left.isEmpty then
              leaveLanes (s1.modGroup s.cur fun x => { x with wake := some (wk, xs1) }) q g1 m fun s g => endSlates s g kind how m
            else .next (waitIssue (s1.modGroup s.cur fun x => { x with wake := some (wk, xs1) }) .slot)
          | _, _, _ => leaveLanes s q g m fun s g => (s, g)

/-- WYIELD (R306). -/
def execWyield (st : BitVec 3) (s : State) : Out :=
  endWake { word := encode (.wyield st), op := 0xE0, st := st.toNat } .yields true s

/-- WCLOSE (R306). -/
def execWclose (st : BitVec 3) (s : State) : Out :=
  endWake { word := encode (.wclose st), op := 0xE1, st := st.toNat } .closes false s

/-- WMERGE (R306). -/
def execWmerge (st : BitVec 3) (s : State) : Out :=
  endWake { word := encode (.wmerge st), op := 0xE3, st := st.toNat } .merges false s

/-- EXIT (R37): every pending result is written first (R86); a lane that still holds a slate checks it in with its frame as before the wake (R306); no step trap
follows it (R265). -/
def execExit (st : BitVec 3) (s : State) : Out :=
  let q : Desc := { word := encode (.exit st), op := 0x0C, st := st.toNat }
  issue q s fun g0 _ =>
    if !g0.outst.isEmpty then .next (waitIssue s .drain)
    else
      let g := g0.drain
      match leaveLanes s q g g.regs.act (fun s g =>
          match g.windowWake with
          | some kind => endSlates s g kind .exits g.regs.act
          | none => (s, g)) with
      | .next t => .next (t.modGroup s.cur fun x => { x with stepOwed := none })
      | o => o

/-! ### What a lane reads of its slate (R308, R310) -/

/-- The seven registers of `WINFO`. -/
def infoWords : Option SlateInfo → List Word
  | some x => [x.start.extractLsb' 0 32, x.start.extractLsb' 32 32, x.stop.extractLsb' 0 32, x.stop.extractLsb' 32 32,
               x.key, x.count, x.flags]
  | none => [0, 0, 0, 0, 0, 0, 0x80000000]

/-- WINFO and WINFO.P (R308). -/
def execWinfo (st : BitVec 3) (d : BitVec 7) (p : BitVec 1) (s : State) : Out :=
  let ds := regsFrom d.toNat 7
  let q : Desc := { word := encode (.winfo st d p), op := 0xE4, st := st.toNat, vtop := topOf ds, writes := ds
                    masked := true }
  issue q s fun g m =>
    if m = 0 then .next (finish s q g)
    else if g.windowWake.isNone then .next (takeTrap s 0x01 q.word)
    else
      let word (l i : Nat) : Word :=
        let x := g.lane l
        getAt 0 (infoWords (if p = 1 then x.infoP else x.info)) i
      let (id, s1) := s.fresh
      .next (finish s1 q (g.outValue id (ds.zipIdx.map fun r => (r.1, vecVal m 0 fun l => word l r.2)) g.pc))

/-- WMARK (R308): W of the group's stream at its core, as it stands at issue. -/
def execWmark (st : BitVec 3) (d : BitVec 6) (s : State) : Out :=
  let q : Desc := { word := encode (.wmark st d), op := 0xE5, st := st.toNat
                    writes := [codeS d.toNat, codeS (d.toNat + 1)] }
  issue q s fun g _ =>
    match curWindow s with
    | none => .next (takeTrap s 0x01 q.word)
    | some (k, _) =>
      let w : DWord := match s.dormer? s.cur.core k.launch with
        | some d => BitVec.ofInt 64 (d.mark g.stream).wmark
        | none => 0
      let (id, s1) := s.fresh
      .next (finish s1 q (g.outValue id
        [(codeS d.toNat, .scal (w.extractLsb' 0 32)), (codeS (d.toNat + 1), .scal (w.extractLsb' 32 32))] g.pc))

/-- The slate that a lane's instructions act on: none for an unbacked lane. -/
def WakeLane.live (x : WakeLane) : Option Nat := if x.unbacked then none else x.slate

/-- WEXT (R310). -/
def execWext (st : BitVec 3) (a : BitVec 7) (s : State) : Out :=
  let q : Desc := { word := encode (.wext st a), op := 0xE8, st := st.toNat, vtop := topOf [a.toNat + 1]
                    reads := [a.toNat, a.toNat + 1], masked := true }
  issue q s fun g m =>
    if m = 0 then .next (finish s q g)
    else if g.windowWake.isNone then .next (takeTrap s 0x01 q.word)
    else
      match curWindow s, g.wake with
      | some (k, _), some (wk, xs) =>
        let s1 := (activeLanes m).foldl (fun s l =>
          match (g.lane l).live with
          | none => s
          | some id => s.modDormer s.cur.core k.launch fun _ d =>
            d.modSlate id fun x => { x with stop := (g.regs.readPair a.toNat l).toInt, flags := x.flags ||| 1 }) s
        let xs1 := xs.zipIdx.map fun x =>
          if m.getLsbD x.2 && x.1.live.isSome then { x.1 with moved := true } else x.1
        .next (finish s1 q { g with wake := some (wk, xs1) })
      | _, _ => .next (finish s q g)

/-! ### Posts (R309, R344) -/

/-- The credits of a core for each ingress node (R344). -/
def coreCredits : Nat := 16

/-- A core has a credit for its stack's ingress node. -/
def hasCredit (s : State) (core : Nat) : Bool :=
  (s.recs.filter fun m => m.phase = .toIngress && m.credit && m.poster.core = core && m.node = stackOf core).length
    < coreCredits

/-- The launch that a stream of a partition is bound to. -/
def boundLaunch (s : State) (part stream : Nat) : Option Nat :=
  ((s.part part).bindings.find? fun b => b.stream = stream).map Binding.launch

/-- One record posted: a message toward the ingress node of the poster's stack (R290, R309). -/
def sendRecord (s : State) (gid : Gid) (part : Nat) (waits : Bool) (r : BitVec 512) : Nat × State :=
  let (id, s1) := s.fresh
  let bound := boundLaunch s part (recStream r)
  let m : RecMsg :=
    { id := id, record := ⟨r, part⟩, poster := gid, waits := waits, parent := none, phase := .toIngress, status := 0
      node := stackOf gid.core, credit := true, launch := bound
      ctx := match s.crew? gid.core gid.slot with | some k => k.ctx | none => 0
      posterPart := part }
  let s2 := { s1 with recs := s1.recs ++ [m] }
  (id, match bound with
    | some n => s2.modLaunch n fun l => { l with posted := l.posted + 1 }
    | none => s2)

/-- Plain lanes posted while there are credits; the lanes that are left. -/
def postPlain (gid : Gid) (part : Nat) : List (Nat × BitVec 512) → State → State × List (Nat × BitVec 512)
  | [], s => (s, [])
  | x :: xs, s =>
    if hasCredit s gid.core then postPlain gid part xs (sendRecord s gid part false x.2).2
    else (s, x :: xs)

/-- The end of a post: the instruction retires with the statuses, and trap 0x38 for a late lane under `.TL` (R309). -/
def postDone (s : State) (gid : Gid) (p : Post) : State :=
  match s.group? gid with
  | none => s
  | some g =>
    let status (l : Nat) : Word := BitVec.ofNat 32 (((p.done.find? fun x => x.1 = l).map Prod.snd).getD 0)
    let m := maskOf fun l => p.done.any fun x => x.1 = l
    let g1 := if p.ord then g.result 0 p.va (vecVal m 0 status) else g
    let s1 := s.setGroup gid (some { g1.endChain.retire p.st (p.pc + 4) with since := s.gt })
    match (if p.tl then lanes.find? fun l => p.done.any fun x => x.1 = l && x.2 = 1 else none) with
    | some l => takeTrapAt s1 gid 0x38 p.pc (BitVec.ofNat 32 l)
    | none => s1

/-- A post goes on: plain lanes while there are credits; the next ordered lane when none waits for acceptance. Until it is
over its instruction is held at issue (R309, R344). -/
def advancePost (s : State) (gid : Gid) (part : Nat) (p : Post) : State :=
  let wait (s : State) (p : Post) : State := s.modGroup gid fun g => { g with wait := .post p }
  if p.ord then
    match p.msg, p.todo with
    | some _, _ => wait s p
    | none, [] => postDone s gid p
    | none, x :: xs =>
      if hasCredit s gid.core then
        let (id, s1) := sendRecord s gid part true x.2
        wait s1 { p with todo := xs, done := p.done ++ [(x.1, 0)], msg := some id }
      else wait s p
  else
    let (s1, rest) := postPlain gid part p.todo s
    if rest.isEmpty then postDone s1 gid p else wait s1 { p with todo := rest }

/-- The groups of a core whose posts wait for credits go on. -/
def servePosts (s : State) (core : Nat) : State :=
  ((s.core core).crews.zipIdx).foldl (fun s x =>
    match x.1 with
    | none => s
    | some k => k.members.foldl (fun s y =>
      match y.2.wait with
      | .post p => if y.2.halt = .cancelled then s else advancePost s ⟨core, x.2, y.1⟩ k.part p
      | _ => s) s) s

/-- The free word that begins at the n-th free byte. -/
def freeWord (n : Nat) : Word := BitVec.ofNat 32 (natLE ((List.range 4).map fun i => freeByte (n + i)))

/-- Records posted by the lanes of a mask (R309); nothing is posted while the partition is disabled (R355), and the spec
gives the statuses no value then. -/
def startPost (s : State) (q : Desc) (g : Group) (ord tl : Bool) (va : Nat) (rs : List (Nat × BitVec 512)) : Out :=
  match s.crew? s.cur.core s.cur.slot with
  | none => .next s
  | some k =>
    if acquirePending g then .next (holdIssue s)
    else match rs.find? fun x => recReserved x.2 ≠ 0 with
    | some (l, _) => .next (takeTrap s 0x02 (BitVec.ofNat 32 l))
    | none =>
      if !(bitOf (s.part k.part).pctl.toNat 0) then
        let m := maskOf fun l => rs.any fun x => x.1 = l
        let g1 := if ord then g.result 0 va (vecVal m 0 fun l => freeWord (s.free + 4 * l)) else g
        .next (finish { s with free := s.free + 512 } q g1)
      else
        .next (advancePost { s.setGroup s.cur (some g) with pfx := none } s.cur k.part
          { ord := ord, tl := tl, va := va, pc := g.pc, done := [], msg := none, st := q.st
            todo := rs.map fun x => (x.1, recPut x.2 18 1 (if ord then 1 else 0)) })

/-- The record in registers v(d) to v(d + 15) of a lane. -/
def laneRecord (g : Group) (d l : Nat) : BitVec 512 := BitVec.ofNat 512 (regsValue g (regsFrom d 16) l)

/-- WEMIT (R307). -/
def execWemit (st : BitVec 3) (d : BitVec 7) (t k : BitVec 1) (s : State) : Out :=
  let ds := regsFrom d.toNat 16
  let q : Desc := { word := encode (.wemit st d t k), op := 0xE2, st := st.toNat, vtop := topOf ds, reads := ds
                    masked := true }
  issue q s fun g m =>
    if m = 0 then .next (finish s q g)
    else if g.windowWake.isNone then .next (takeTrap s 0x01 q.word)
    else
      let record (l : Nat) : BitVec 512 :=
        let r := laneRecord g d.toNat l
        match curWindow s, (g.lane l).live with
        | some (c, _), some id =>
          match (s.dormer? s.cur.core c.launch).bind fun x => x.slate? id with
          | some x =>
            let r1 := if k = 1 then r else recPut r 32 32 x.key.toNat
            if t = 1 then r1 else recPut r1 64 64 (BitVec.ofInt 64 x.stop).toNat
          | none => r
        | _, _ => r
      startPost s q g false false 0 ((activeLanes m).map fun l => (l, record l))

/-- RPOST, RPOST.ORD and RPOST.ORD.TL (R309): the device sets ORD of an ordered record. -/
def execRpost (st : BitVec 3) (d a m : BitVec 7) (s : State) : Out :=
  let ds := regsFrom d.toNat 16
  let ord := m ≠ 0
  let q : Desc := { word := encode (.rpost st d a m), op := 0xE6, st := st.toNat
                    vtop := topOf (if ord then a.toNat :: ds else ds), reads := ds
                    writes := if ord then [a.toNat] else [], masked := true }
  issue q s fun g e =>
    if e = 0 then .next (finish s q g)
    else startPost s q g ord (m = 3) a.toNat ((activeLanes e).map fun l => (l, laneRecord g d.toNat l))

/-! ### Node bins (R325) -/

/-- The bins of a partition and the records that a bin holds at most. -/
def binRecords : Nat := 1024

/-- A bin of a partition replaced. -/
def Partition.setBin (p : Partition) (b : Bin) : Partition :=
  { p with bins := p.bins.map fun x => if x.bin = b.bin then b else x }

/-- A node group of the oldest min(C, n) records of a bin waits in the gatherer. -/
def Partition.formNode (p : Partition) (b : Bin) : Partition :=
  { (p.setBin { b with records := b.records.drop b.count }) with
    nodeGroups := p.nodeGroups ++ [⟨b.launch, (b.records.take b.count).map Prod.snd⟩] }

/-- A record appended to a bin; with C records there, a node group forms. -/
def Partition.binAppend (p : Partition) (gt : Nat) (b : Bin) (r : BitVec 512) : Partition :=
  let b1 := { b with records := b.records ++ [(gt, r)] }
  if b1.count ≤ b1.records.length then p.formNode b1 else p.setBin b1

/-- The attached bin of a number. -/
def Partition.bin? (p : Partition) (n : Nat) : Option Bin := p.bins.find? fun b => b.bin = n && b.attached

/-- The records of a `BPOST` lane by lane: those of bins that are not attached are refused, with event kind 6; none when
a lane finds its bin full. -/
def binPosts (gid : Gid) (part : Nat) : List (Nat × BitVec 512) → State → Option State
  | [], s => some s
  | (n, r) :: xs, s =>
    match (s.part part).bin? n with
    | none => binPosts gid part xs (s.groupEvent gid 6 0 0 0 n)
    | some b =>
      if binRecords ≤ b.records.length then none
      else binPosts gid part xs ((s.setPart part ((s.part part).binAppend s.gt b r)).modLaunch b.launch fun l =>
        { l with posted := l.posted + 1, taken := l.taken + 1 })

/-- A list in an order that free values give: the order of `BPOST`'s lanes is open (R309, DESIGN CHOICE log 2). -/
def anyOrder {α : Type} (n : Nat) : List α → List α
  | [] => []
  | [x] => [x]
  | x :: xs =>
    let ys := anyOrder (n + 1) xs
    let k := (freeByte n).toNat % (ys.length + 1)
    ys.take k ++ x :: ys.drop k

/-- BPOST (R309, R325). -/
def execBpost (st : BitVec 3) (d a : BitVec 7) (s : State) : Out :=
  let ds := regsFrom d.toNat 16
  let q : Desc := { word := encode (.bpost st d a), op := 0xE7, st := st.toNat, vtop := topOf (a.toNat :: ds)
                    reads := a.toNat :: ds, masked := true }
  issue q s fun g m =>
    match s.crew? s.cur.core s.cur.slot with
    | none => .next s
    | some k =>
      let rs := (activeLanes m).map fun l => (l, laneRecord g d.toNat l)
      if m = 0 then .next (finish s q g)
      else if acquirePending g then .next (holdIssue s)
      else if !(bitOf (s.part k.part).pctl.toNat 0) then .next (finish s q g)
      else
        let bs := rs.map fun x => ((g.regs.readV a.toNat x.1).toNat, x.2)
        let any := bs.any fun x => ((s.part k.part).bin? x.1).isSome
        match binPosts s.cur k.part (if any then anyOrder s.free bs else bs) { s with free := s.free + bs.length } with
      | none => .next (holdIssue s)
      | some s1 => .next (finish s1 q g)

end Sys2Proof.Machine
end

