-- ==== Sys2Proof/Machine/Launches.lean ====
section
/-! DEFINITION. Launches (R43 to R46, R311 to R328): counters (R320), the launch block and its acceptance (R318, R319), completion and cancel, the retirement of contexts (R316), and the stops of a pre-emption (R56, R259). -/

namespace Sys2Proof.Machine

open Sys2Proof

/-! ### Counters (R44, R45, R320) -/

/-- The HDM offset of counter table entry id. -/
def counterAt (p : Partition) (id : Nat) : Nat := p.cnt.toNat / 4096 * 4096 + 16 * id

/-- The entries of the counter table. -/
def counterCount (p : Partition) : Nat := p.cnt.toNat % 4096 * 256

/-- VALUE of a counter. -/
def counterValue (s : State) (part id : Nat) : DWord :=
  BitVec.ofNat 64 (hdmNat s (s.part part) (counterAt (s.part part) id) 8)

/-- STATUS of a counter. -/
def counterStatus (s : State) (part id : Nat) : BitVec 2 :=
  BitVec.ofNat 2 (hdmNat s (s.part part) (counterAt (s.part part) id + 8) 1)

/-- An id is valid for a context (R320). -/
def counterValid (s : State) (part : Nat) (ctx : Word) (id : Nat) : Bool :=
  let p := s.part part
  id < counterCount p && ctx ≠ 0 && hdmNat s p (counterAt p id + 12) 4 = ctx.toNat

/-- A wait on a counter is met (R45). -/
def counterMet (s : State) (part id value : Nat) : Bool :=
  value ≤ (counterValue s part id).toNat || (counterStatus s part id).getLsbD 0

/-- An id that names no counter. -/
def noCounter : Nat := 0xFFFFFFFF

/-- The end of a `CNTWAIT` (R333). -/
def Group.cntDone (g : Group) (sd : Nat) (status : BitVec 2) : Group :=
  { g.acquire.result 0 (codeS sd) (.scal (1 ||| (status.zeroExtend 32 <<< 1))) with wait := .none }

/-- The groups whose wait on a counter is met go on (R54, R333). -/
def wakeCounters (s : State) (part : Nat) : State :=
  s.allGroups.foldl (fun s gid =>
    match s.crew? gid.core gid.slot, s.group? gid with
    | some k, some g =>
      match g.wait with
      | .cntwait sd id v =>
        if k.part = part && counterMet s part id v then
          s.setGroup gid (some (g.cntDone sd (counterStatus s part id)))
        else s
      | _ => s
    | _, _ => s) s

/-- VALUE and STATUS of a counter written; an id that names no counter is passed over. -/
def counterSet (s : State) (part id : Nat) (v : DWord) (status : BitVec 2) : State :=
  if id = noCounter then s
  else
    let a := counterAt (s.part part) id
    s.writeHdm part a (bytesLE 8 v.toNat ++ bytesLE 1 status.toNat)

/-- A counter raised by an amount, with status bits joined, where the context owns it. -/
def counterRaise (s : State) (part : Nat) (ctx : Word) (n : DWord) (bits : BitVec 2) (id : Nat) : State :=
  if counterValid s part ctx id then
    counterSet s part id (counterValue s part id + n) (counterStatus s part id ||| bits)
  else s

/-- The counters that a launch's completion increments (R45). -/
def Block.counted (b : Block) : List Nat := b.graph :: b.phase :: b.job :: b.sigs

/-- The counters of a launch that has completed, or, with bits, has completed as cancelled (R45, R46). -/
def countLaunch (s : State) (l : Launch) (own member : BitVec 2) : State :=
  let s1 := if counterValid s l.part l.ctx l.block.self then
      counterSet s l.part l.block.self 1 (counterStatus s l.part l.block.self ||| own)
    else s
  wakeCounters (l.block.counted.foldl (fun s id => counterRaise s l.part l.ctx 1 member id) s1) l.part

/-! ### The launch block (R318, R319) -/

/-- The roles by code (R319). -/
def roleOf : Nat → Role
  | 0 => .general
  | 1 => .copy
  | 2 => .matrix
  | _ => .vector

/-- Role entry i of a block's bits. -/
def blockRole (b i : Nat) : RoleEntry :=
  let x := bitsOf b (127 + 64 * i) (64 + 64 * i)
  ⟨bitsOf x 31 0, roleOf (bitsOf x 33 32), bitsOf x 47 40, bitsOf x 52 48⟩

/-- The reserved fields of role entry i are zero. -/
def blockRoleClean (b i : Nat) : Bool :=
  let x := bitsOf b (127 + 64 * i) (64 + 64 * i)
  bitsOf x 39 34 = 0 && bitsOf x 63 53 = 0

/-- A window descriptor of its bits (R292). -/
def winDesc (x : Nat) : WinDesc where
  kind := bitsOf x 2 0
  size := bitsOf x 127 64
  slide := bitsOf x 191 128
  gap := bitsOf x 255 192
  lateness := bitsOf x 319 256
  frame := bitsOf x 12 8
  dbanks := bitsOf x 17 13
  spill := bitsOf x 55 32
  openE := bitsOf x 351 320
  resumeE := bitsOf x 383 352
  mergeE := bitsOf x 415 384
  closeE := bitsOf x 447 416
  lateE := bitsOf x 479 448

/-- An entry offset that is not given. -/
def noEntry : Nat := 0xFFFFFFFF

/-- A value from 1 to 2⁶³ − 1 where a kind uses it, else zero. -/
def usedField (use : Bool) (v : Nat) : Bool := if use then 1 ≤ v && v < 2 ^ 63 else v = 0

/-- An entry offset of a descriptor names an instruction of the code: a `.text` label lies on a multiple of 4 (R75, R80). -/
def entryOk (codeSize e : Nat) : Bool := e % 4 = 0 && e < codeSize

/-- A descriptor breaks no rule of R75 and R292. -/
def winDescOk (s : State) (part codeSize x : Nat) : Bool :=
  let w := winDesc x
  let e := objEntry s part w.spill
  bitsOf x 1023 480 = 0 && bitsOf x 63 56 = 0 && bitsOf x 31 18 = 0 && bitsOf x 7 3 = 0 && w.kind ≤ 5
    && usedField (w.kind ≤ 2 || w.kind = 4) w.size && usedField (w.kind = 1 || w.kind = 2) w.slide
    && usedField (w.kind = 3) w.gap && w.lateness < 2 ^ 63
    && (w.kind ≠ 1 && w.kind ≠ 2 || w.slide ≤ w.size)
    && (w.kind ≠ 2 || (w.size % w.slide = 0 && w.size / w.slide ≤ 128))
    && 1 ≤ w.frame && w.frame ≤ 24 && 1 ≤ w.dbanks && w.dbanks ≤ 24
    && entryOk codeSize w.openE && entryOk codeSize w.resumeE && entryOk codeSize w.closeE
    && (if w.kind = 3 then entryOk codeSize w.mergeE else w.mergeE = noEntry)
    && (w.lateE = noEntry || entryOk codeSize w.lateE)
    && (w.spill = 0 || (!(entryMalformed (s.part part) e) && entryKind e = 0 && !(entryCapb e)
      && entrySize e % 128 = 0))

/-- A block of its bits, without what its addresses name. -/
def blockOf (b : Nat) : Block where
  kind := bitsOf b 7 0
  prio := bitsOf b 15 8
  roles := (List.range (min 3 (bitsOf b 23 16))).map (blockRole b)
  ringArr := (List.range 4).map fun r => bitsOf b (51 + 4 * r) (48 + 4 * r) + 1
  crews := bitsOf b 287 256
  scratch := bitsOf b 319 288
  accTiles := bitsOf b 326 320
  deadline := bitsOf b 351 336
  fifos := bitsOf b 354 352
  peers := bitsOf b 367 360
  bind := (List.range 16).map fun k => bitsOf b (671 + 32 * k) (640 + 32 * k)
  capList := []
  code := bitsOf b 639 576
  codeSize := bitsOf b 511 480
  trapTab := bitsOf b 575 512
  graph := bitsOf b 1183 1152
  phase := bitsOf b 1215 1184
  job := bitsOf b 1247 1216
  waits := ((List.range 4).map fun i =>
    (bitsOf b (1279 + 96 * i) (1248 + 96 * i), bitsOf b (1343 + 96 * i) (1280 + 96 * i))).filter fun w => w.1 ≠ noCounter
  sigs := ((List.range 8).map fun i => bitsOf b (1663 + 32 * i) (1632 + 32 * i)).filter fun c => c ≠ noCounter
  self := bitsOf b 1983 1952
  gridX := if bitsOf b 7 0 = 1 then bitsOf b 1903 1888 else 0
  gridY := if bitsOf b 7 0 = 1 then bitsOf b 1919 1904 else 0
  win := none
  saveOff := bitsOf b 2047 1984
  quiesce := bitOf b 32

/-- KSPEC. -/
def blockSpec (b : Nat) : Nat := bitsOf b 1951 1888

/-- The image size of a crew: R261's with 262,144 bytes for each FIFO (R213), rounded up to 4 KiB (R324). A standing crew
can hold 16 groups. -/
def imageBytes (b : Block) : Nat :=
  let groups := if 2 ≤ b.kind then List.replicate 16 ((b.roles.head?.map RoleEntry.budget).getD 0)
    else b.roles.flatMap fun r => List.replicate r.count r.budget
  let n := 4096 + ((groups.map fun x => 512 * x + 16384).sum) + b.scratch + 262144 * b.fifos
  (n + 4095) / 4096 * 4096

/-- The words of a trap table, at a virtual address. -/
def trapTable (s : State) (part addr : Nat) : Option (List Nat) :=
  (vaNat? s (s.part part).homeStack part addr 1024).map fun x =>
    (List.range 256).map fun i => x / 2 ^ (32 * i) % 2 ^ 32

/-- The roles obey R47 and R51. -/
def rolesOk (b : Block) : Bool :=
  let kinds := b.roles.map RoleEntry.role
  let general := kinds.contains .general
  b.roles.all (fun r => r.offset % 4 = 0 && r.offset < b.codeSize && r.budget % 8 = 0 && 16 ≤ r.budget && r.budget ≤ 128
      && 1 ≤ r.count)
    && (if general then kinds.length = 1 else kinds.dedup.length = kinds.length)
    && (b.roles.map RoleEntry.count).sum ≤ 16
    && (b.kind < 2 || (general && b.roles.all fun r => 64 ≤ r.budget))

/-- The capability list of a block, at a virtual address. -/
def capListAt (s : State) (part addr n : Nat) : Option (List (BitVec 128)) :=
  (vaNat? s (s.part part).homeStack part addr (16 * n)).map fun x =>
    (List.range n).map fun i => BitVec.ofNat 128 (x / 2 ^ (128 * i))

/-- The checks of R319 that the block's own bits and the partition decide. -/
def blockOk (s : State) (part : Nat) (ctx : Word) (saveBytes : Nat) (x : Nat) : Bool :=
  let b := blockOf x
  let ids := b.self :: (b.graph :: b.phase :: b.job :: (b.sigs ++ b.waits.map Prod.fst)).filter fun i => i ≠ noCounter
  let named := b.bind.take b.peers
  bitsOf x 479 464 = 0 && bitsOf x 383 368 = 0 && bitsOf x 359 355 = 0 && bitsOf x 335 327 = 0 && bitsOf x 47 33 = 0
    && b.kind ≤ 3 && bitsOf x 31 24 = 1 && 1 ≤ bitsOf x 23 16 && bitsOf x 23 16 ≤ 3
    && (List.range (min 3 (bitsOf x 23 16))).all (blockRoleClean x) && rolesOk b
    && 1 ≤ b.crews && b.scratch % 128 = 0 && b.scratch ≤ 8388608 && b.accTiles ≤ 64 && 1 ≤ b.deadline
    && b.fifos ≤ 4 && (b.kind < 2 || b.fifos = 0) && b.peers ≤ 16 && b.peers ≤ b.crews
    && named.dedup.length = named.length && named.all (fun c => c < b.crews)
    && 1 ≤ b.codeSize && b.codeSize % 4 = 0 && b.code % 128 = 0 && b.code + b.codeSize ≤ (s.part part).hdmSize
    && bitsOf x 463 448 ≤ 256 && bitsOf x 447 384 % 16 = 0 && b.trapTab % 128 = 0
    && (match b.kind with
      | 1 => decide (blockSpec x / 2 ^ 32 = 0)
      | 2 => decide (blockSpec x % 128 = 0)
      | _ => decide (blockSpec x = 0))
    && ids.all (counterValid s part ctx)
    && 0x40000 + b.saveOff + b.crews * imageBytes b ≤ saveBytes

/-- Every entry of a trap table that names a handler lies in the code (R319). -/
def tableOk (b : Block) (ts : List Nat) : Bool := ts.all fun e => e = noEntry || e < b.codeSize

/-- The block with what its addresses name, where every check of R319 passes. -/
def acceptedBlock (s : State) (part : Nat) (ctx : Word) (saveBytes x : Nat) : Option Block :=
  if !(blockOk s part ctx saveBytes x) then none
  else
    let b := blockOf x
    let p := s.part part
    let table := if b.trapTab = 0 then some [] else trapTable s part b.trapTab
    match capListAt s part (bitsOf x 447 384) (bitsOf x 463 448), table with
    | some caps, some ts =>
      if !(tableOk b ts) then none
      else if b.kind ≠ 2 then some { b with capList := caps }
      else match vaNat? s p.homeStack part (blockSpec x) 128 with
        | none => none
        | some d =>
          if winDescOk s part b.codeSize d then some { b with capList := caps, win := some (winDesc d) } else none
    | _, _ => none

/-- A launch as it is accepted (R319). -/
def Launch.start (seq part : Nat) (ctx : Word) (b : Block) (addr saveArea saveBytes : Nat) : Launch where
  seq := seq
  part := part
  ctx := ctx
  block := b
  addr := addr
  state := .waiting
  waited := 0
  raised := 0
  placed := []
  places := []
  finished := []
  saved := []
  cursor := 0
  cores := []
  saveArea := saveArea
  saveBytes := saveBytes
  detached := false
  cancelSelf := false
  drainAt := 0
  posted := 0
  taken := 0

/-- A launch submitted (R319): accepted, or refused with its event; true for acceptance. `x` is the block where it can be
read; `cap` bounds its priority; `tag` is the entry's SEQ. -/
def submitLaunch (s : State) (part : Nat) (ctx : Word) (saveArea saveBytes addr cap tag : Nat) (x : Option Nat) :
    Bool × State :=
  match x.bind (acceptedBlock s part ctx saveBytes) with
  | some b =>
    let l := Launch.start s.nextSeq part ctx { b with prio := min b.prio cap } addr saveArea saveBytes
    let s1 := counterSet s part b.self 0 0
    (true, { s1 with launches := s1.launches ++ [l], nextSeq := s1.nextSeq + 1 })
  | none =>
    let s1 := match x with
      | some b =>
        let id := (blockOf b).self
        if counterValid s part ctx id then
          counterSet s part id (counterValue s part id) (counterStatus s part id ||| 1)
        else s
      | none => s
    (false, (wakeCounters s1 part).postEvent part { kind := 4, ctx := ctx.toNat, seq := tag, info := addr })

/-- A launch that is accepted and not completed. -/
def Launch.live (l : Launch) : Bool := l.state = .waiting || l.state = .eligible || l.state = .cancelling

/-- A context serial is retired once no queue names it and no launch of it is live (R316). -/
def retireContext (s : State) (part : Nat) (ctx : Word) : State :=
  let p := s.part part
  if ctx = 0 || p.retired.contains ctx || (p.queues.any fun q => q.2.ctx = ctx)
      || (s.launches.any fun l => l.part = part && l.ctx = ctx && l.live) then s
  else s.setPart part { p with retired := p.retired ++ [ctx] }

/-! ### Cancel (R46) -/

/-- A group halted by a cancel. -/
def Group.cancelHalt (g : Group) : Group := { g with halt := .cancelled }

/-- A core on which a crew's reservation has ended (R285). -/
def State.endAside (s : State) (core : Nat) : State := s.setCore core (s.core core).endAside

/-- A launch cancelled (R46): it places nothing more, its crews halt, its saved crews are dropped, its slates are freed; the
page request groups of its groups, saved ones among them, are those of groups halted by a cancel (R258). -/
def cancelLaunch (s : State) (own : Bool) (l : Launch) : State :=
  if l.state ≠ .waiting && l.state ≠ .eligible then s
  else
    let s1 := s.modLaunch l.seq fun l => { l with state := .cancelling, cancelSelf := own, saved := [] }
    let s2 := l.places.foldl (fun s p =>
      match s.crew? p.2.1 p.2.2 with
      | none => s
      | some k =>
        (s.setCrew p.2.1 p.2.2 (some { k with
          reserve := none, gang := none, groups := k.groups.map fun o => o.map Group.cancelHalt })).endAside p.2.1) s1
    let s3 := l.cores.foldl (fun s c => s.modDormer c l.seq fun _ d =>
      { d with slates := [], ready := [], due := [], closing := [] }) s2
    let p := s3.part l.part
    s3.setPart l.part { p with
      nodeGroups := p.nodeGroups.filter fun g => g.launch ≠ l.seq
      pages := p.pages.map fun g => if g.name.launch = l.seq && g.job.isNone then { g with fate := .cancelled } else g }

/-- The launches that a level's counter names (R44): level 0 launch, 1 graph, 2 phase, 3 job. -/
def atLevel (level id : Nat) (l : Launch) : Bool :=
  match level with
  | 0 => l.block.self = id
  | 1 => l.block.graph = id
  | 2 => l.block.phase = id
  | _ => l.block.job = id

/-- A level of a partition cancelled (R46): the level's counter takes status bit 0, but for a launch that has completed,
and every launch of it is cancelled. The id that names no counter names no level (R318). -/
def cancelLevel (s : State) (part level id : Nat) : State :=
  let mine := s.launches.filter fun l => l.part = part && id ≠ noCounter && atLevel level id l
  let mark := level ≠ 0 || mine.any Launch.live
  let s1 := if mark && id < counterCount (s.part part) then
      counterSet s part id (counterValue s part id) (counterStatus s part id ||| 1)
    else s
  wakeCounters (mine.foldl (fun s l => cancelLaunch s (level = 0) l) s1) part

/-! ### Pre-emption (R54, R56, R259) -/

/-- A parked group (R54, R85, R213, R256, R257, R302). -/
def Group.parked (g : Group) : Bool :=
  match g.wait with
  | .result rs ws => g.outst.any fun o => o.kind.parks && o.regs.any fun r => rs.contains r || ws.contains r
  | .drain => g.outst.any fun o => o.kind.parks
  | .trap _ _ _ => g.outst.any fun o => o.kind.parks
  | .slot => true
  | .barrier _ => true
  | .ring _ _ _ => true
  | .gang => true
  | .gangBusy => true
  | .cwait _ _ _ => true
  | .bowait _ => true
  | .cntwait _ _ _ => true
  | .fifo _ => true
  | .page _ => true
  | .pageIndex _ _ _ => true
  | _ => false

/-- A fully parked crew (R54). A standing crew that holds no group at the moment is none, so that it is never evicted (R323;
DESIGN CHOICE log 63). -/
def Crew.fullyParked (k : Crew) : Bool := !k.members.isEmpty && k.members.all fun x => x.2.parked

/-- A crew with a group in handler state, or on its way into it (R250). -/
def Crew.inHandler (k : Crew) : Bool := k.members.any fun x => x.2.handling

/-- A wait that ends with the supervisor core's completion (R134, R247). -/
def Wait.escalated : Wait → Bool
  | .esc _ => true
  | .doubleFault _ => true
  | _ => false

/-- A group that counts as stopped for a save: at a `PHINT`, parked, or in `ESC`, a double fault or `WAITGT` (R56, R131,
R134, R138, R259). A group that its crew's halt or the debug node stopped counts only in a forced save. -/
def Group.stopped (forced : Bool) (g : Group) : Bool :=
  g.parked || g.wait.escalated || (match g.wait with | .gt _ => true | _ => false) || g.halt = .saving
    || (forced && g.halt ≠ .running)

/-- A pre-emption of a crew requested (R259); of one already being saved, nothing. -/
def requestPreempt (s : State) (core slot : Nat) : State :=
  match s.crew? core slot with
  | none => s
  | some k =>
    if k.preemptAt.isSome then s
    else s.setCrew core slot (some { k with
      preemptAt := some s.gt, forced := false, hints := [] })

end Sys2Proof.Machine
end

