-- ==== Sys2Proof/Machine/Sched.lean ====
section
/-! DEFINITION. Scheduling instructions: opcodes 0xE9 to 0xEE (R330 to R335), and the work distributor's answers (R326). -/

namespace Sys2Proof.Machine

open Sys2Proof

/-- The launch of the issuing group. -/
def curLaunch (s : State) : Option Launch :=
  (s.crew? s.cur.core s.cur.slot).bind fun k => s.launch? k.launch

/-- WDQ (R331): a query is a job of the group's open batch. -/
def execWdq (st : BitVec 3) (a : BitVec 6) (s : State) : Out :=
  let q : Desc := { word := encode (.wdq st a), op := 0xE9, st := st.toNat, reads := [codeS a.toNat] }
  jobInstr q s fun g k =>
    let o := (g.regs.readS a.toNat).toNat
    let persistent : Bool := match curLaunch s with | some l => decide (l.block.kind = 1) | none => false
    ((if persistent then [] else [(0x01, q.word)]) ++ scratchRange k.granules o 4 4, [],
     some ⟨.query o, [], sideSpan (.scratch o) 4⟩)

/-! ### Stage rings (R49, R332) -/

/-- A wait on a slot of a ring for a phase. -/
def ringWait (q : Desc) (s : State) (r : Nat) (at' : Group → Nat × Bool) : Out :=
  issue q s fun g _ =>
    let (sl, ph) := at' g
    crewOp s q g fun k x =>
      if (k.ringSlot r sl).1 = ph then k.setGroup s.cur.grp (some x.acquire)
      else k.setGroup s.cur.grp (some { x with wait := .ring r sl ph })

/-- A signal to a slot of a ring, after release(crew). -/
def ringSignal (q : Desc) (s : State) (r : Nat) (at' : Group → Nat) : Out :=
  issue q s fun g _ =>
    if !(releasedCore g) then .next (holdIssue s)
    else crewOp s q g fun k _ => k.signal r (at' g)

/-- SRWAIT (R332). -/
def execSrwait (st : BitVec 3) (h : BitVec 1) (r : BitVec 2) (l : BitVec 3) (s : State) : Out :=
  ringWait { word := encode (.srwait st h r l), op := 0xEA, st := st.toNat } s r.toNat fun _ => (l.toNat, h = 1)

/-- SRWAIT.R (R332). -/
def execSrwaitR (st : BitVec 3) (a : BitVec 6) (r : BitVec 2) (s : State) : Out :=
  ringWait { word := encode (.srwaitR st a r), op := 0xEA, st := st.toNat, reads := [codeS a.toNat] } s r.toNat
    fun g => let w := (g.regs.readS a.toNat).toNat; (w % 8, bitOf w 3)

/-- SRSIG (R332). -/
def execSrsig (st : BitVec 3) (r : BitVec 2) (l : BitVec 3) (s : State) : Out :=
  ringSignal { word := encode (.srsig st r l), op := 0xEB, st := st.toNat } s r.toNat fun _ => l.toNat

/-- SRSIG.R (R332). -/
def execSrsigR (st : BitVec 3) (a : BitVec 6) (r : BitVec 2) (s : State) : Out :=
  ringSignal { word := encode (.srsigR st a r), op := 0xEB, st := st.toNat, reads := [codeS a.toNat] } s r.toNat
    fun g => (g.regs.readS a.toNat).toNat % 8

/-! ### Counters, cancel and launches from device code (R333 to R335) -/

/-- CNTWAIT and CNTWAIT.T (R333). -/
def execCntwait (st : BitVec 3) (d a : BitVec 6) (f : BitVec 3) (s : State) : Out :=
  let q : Desc := { word := encode (.cntwait st d a f), op := 0xEC, st := st.toNat, reads := codesS a.toNat 3
                    writes := [codeS d.toNat] }
  issue q s fun g _ =>
    match s.crew? s.cur.core s.cur.slot with
    | none => .next s
    | some k =>
      let w := g.regs.readS a.toNat
      let v := (pairOf (g.regs.readS (a.toNat + 1)) (g.regs.readS (a.toNat + 2))).toNat
      if !(counterValid s k.part k.ctx w.toNat) then .next (takeTrap s 0x02 w)
      else
        let met := counterMet s k.part w.toNat v
        let r : Word := if met then 1 ||| ((counterStatus s k.part w.toNat).zeroExtend 32 <<< 1) else 0
        if met || f = 1 then
          let (id, s1) := s.fresh
          .next (finish s1 q ((if met then g.acquire else g).outValue id [(codeS d.toNat, .scal r)] g.pc))
        else .next ((finish s q g).modGroup s.cur fun x => { x with wait := .cntwait d.toNat w.toNat v })

/-- CANCEL (R334). -/
def execCancel (st : BitVec 3) (a : BitVec 6) (f : BitVec 3) (s : State) : Out :=
  let q : Desc := { word := encode (.cancel st a f), op := 0xED, st := st.toNat, reads := [codeS a.toNat] }
  issue q s fun g _ =>
    match s.crew? s.cur.core s.cur.slot with
    | none => .next s
    | some k =>
      let w := g.regs.readS a.toNat
      if !(counterValid s k.part k.ctx w.toNat) then .next (takeTrap s 0x04 w)
      else .next (cancelLevel (finish s q g) k.part f.toNat w.toNat)

/-- The address of a launch block in an object: of a shared object its virtual address, else its offset. -/
def blockAddr (s : State) (part : Nat) (cap : BitVec 128) (o : Nat) : Nat :=
  let e := objEntry s part (capObj cap)
  capBase cap + o + (if (accWindow? (capObj cap)).isNone && entryKind e = 1 then entryVbase e else 0)

/-- LAUNCHQ (R335): release(dev), then the block is checked as from a queue of the issuing context, under the issuing
launch's priority. -/
def execLaunchq (st : BitVec 3) (d a : BitVec 6) (c : BitVec 4) (s : State) : Out :=
  let q : Desc := { word := encode (.launchq st d a c), op := 0xEE, st := st.toNat
                    reads := [codeS a.toNat, codeC c.toNat], writes := [codeS d.toNat] }
  issue q s fun g _ =>
    let o := (g.regs.readS a.toNat).toNat
    let cap := getAt 0 g.regs.c c.toNat
    let part := match s.crew? s.cur.core s.cur.slot with | some k => k.part | none => 0
    let causes := (if o % 256 ≠ 0 then [0x0A] else []) ++ accessCauses s part g.state cap o 256 .read
    match leastCause causes with
    | some cause => .next (takeTrap s cause (BitVec.ofNat 32 o))
    | none =>
      withAccess s g { lanes := [(0, o)], cap := cap, size := 256, right := .read, writes := [codeS d.toNat]
                       uniform := true } fun s1 k xs =>
        if !(releasedDev s1 g) then .next (holdIssue s1)
        else
          let x := natLE (xs.flatMap fun y => y.2.map fun b => physByte s1 b.1)
          let (area, bytes, prio) := match curLaunch s with
            | some l => (l.saveArea, l.saveBytes, l.block.prio)
            | none => (0, 0, 0)
          let (ok, s2) := submitLaunch s1 k.part k.ctx area bytes (blockAddr s1 k.part cap o) prio 0 (some x)
          .next (finish s2 q (g.result 0 (codeS d.toNat) (.scal (if ok then 0 else 1))))

/-! ### The work distributor (R326) -/

/-- The end-of-work token. -/
def endOfWork : Word := 0xFFFFFFFF

/-- The answer of a launch's distributor, and the launch after it (R326). -/
def Launch.answer (l : Launch) : Word × Launch :=
  if l.cursor < l.block.gridX * l.block.gridY then
    (BitVec.ofNat 32 (l.cursor % l.block.gridX + 65536 * (l.cursor / l.block.gridX)), { l with cursor := l.cursor + 1 })
  else (endOfWork, l)

/-- An earlier query of the same group is still to be answered. -/
def earlierQuery (c : Core) (j : Job) : Bool :=
  c.jobs.any fun x => x.launch = j.launch && x.crew = j.crew && x.grp = j.grp && x.id < j.id
    && (match x.kind with | .query _ => true | _ => false)

/-- WD_QUERY (R326, R331). -/
def execWdQuery (core job : Nat) (s : State) : Out :=
  match (s.core core).jobs.find? fun j => j.id = job with
  | none => .refused (.notEnabled "WD_QUERY")
  | some j =>
    match j.kind, s.launch? j.launch with
    | .query o, some l =>
      if earlierQuery (s.core core) j || mustFollow (s.core core) j.launch j.crew j.id j.reads j.writes
          || storesPending s ⟨core, j.slot, j.grp⟩ j.after then .refused (.notEnabled "WD_QUERY")
      else
        let (w, l1) := l.answer
        let s1 := putScratch s core j.granules ((bytesLE 4 w.toNat).zipIdx.map fun b => (o + b.2, b.1, false))
        .next (jobFinish (s1.modLaunch l.seq fun _ => l1) core j)
    | _, _ => .refused (.notEnabled "WD_QUERY")

end Sys2Proof.Machine
end

