-- ==== Sys2Proof/Machine/EvLaunch.lean ====
section
/-! DEFINITION. The life of a launch and its crews: eligibility and placement (R321), aging and eviction (R55), completion (R45) and the end of a cancel (R46), saving and restoring a crew (R259 to R262). -/

namespace Sys2Proof.Machine

open Sys2Proof

/-- LAUNCH_ELIGIBLE (R321): every wait is met, and a placement pass runs. -/
def execLaunchEligible (launch : Nat) (s : State) : Out :=
  match s.launch? launch with
  | none => .refused (.notEnabled "LAUNCH_ELIGIBLE")
  | some l =>
    if l.state = .waiting && l.block.waits.all (fun w => counterMet s l.part w.1 w.2) then
      .next (placementPass (s.modLaunch launch fun l => { l with state := .eligible, waited := 0 }) l.part)
    else .refused (.notEnabled "LAUNCH_ELIGIBLE")

/-- The clocks after which a waiting launch rises by one level (R55), in twelfths of a nominal clock. -/
def agingTicks : Nat := 16384 * 12

/-- PRIORITY_AGING (R55). -/
def execPriorityAging (launch : Nat) (s : State) : Out :=
  match s.launch? launch with
  | none => .refused (.notEnabled "PRIORITY_AGING")
  | some l =>
    if l.wants && l.prio < 255 && agingTicks ≤ l.waited then
      .next (s.modLaunch launch fun l => { l with raised := l.raised + 1, waited := l.waited - agingTicks })
    else .refused (.notEnabled "PRIORITY_AGING")

/-- The clocks after which a fully parked crew may be saved (R55), in twelfths of a nominal clock. -/
def parkTicks : Nat := 65536 * 12

/-- A crew that has been fully parked, and not held, for the clocks of R55 (R250). -/
def Crew.longParked (k : Crew) : Bool := k.fullyParked && !k.inHandler && parkTicks ≤ k.parked

/-- Runnable work of a partition waits for a place (R55). -/
def workQueued (s : State) (part : Nat) : Bool := s.launches.any fun l => l.part = part && l.wants

/-- EVICTION (R55): runnable work of the partition waits for a place. -/
def execEviction (core slot : Nat) (s : State) : Out :=
  match s.crew? core slot with
  | none => .refused (.notEnabled "EVICTION")
  | some k =>
    if k.preemptAt.isNone && k.longParked && workQueued s k.part then
      .next (requestPreempt s core slot)
    else .refused (.notEnabled "EVICTION")

/-! ### Completion (R45, R46) -/

/-- Work of a launch that is not over: jobs, matrix jobs, stores of retired groups, times not reached (R45). -/
def workLeft (s : State) (l : Launch) : Bool :=
  (s.cores.any fun c => (c.jobs.any fun j => j.launch = l.seq) || c.mats.any fun j => j.launch = l.seq)
    || (s.ghosts.any fun x => x.launch = l.seq && !(x.ids.isEmpty && x.buf.isEmpty && x.lgwct ≤ s.gt))
    || (s.casts.any fun m => m.launch = l.seq) || s.gt < l.drainAt

/-- The Dormers of a launch. -/
def dormersOf (s : State) (l : Launch) : List Dormer :=
  l.cores.filterMap fun c => s.dormer? c l.seq

/-- The groups of a launch that are resident. -/
def residentGroups (s : State) (l : Launch) : Nat :=
  (l.places.map fun p => match s.crew? p.2.1 p.2.2 with | some k => k.size | none => 0).sum

/-- A window launch is over: its streams are detached, or have ended at every core, and every slate is freed (R45). -/
def windowDone (s : State) (l : Launch) : Bool :=
  let ds := dormersOf s l
  let bound := (s.part l.part).bindings.filter fun b => b.launch = l.seq
  ((if bound.isEmpty then l.detached
      else l.unplaced = 0 && ds.all fun d => bound.all fun b => (d.mark (BitVec.ofNat 16 b.stream)).ended))
    && ds.all (fun d => d.slates.isEmpty && d.ready.isEmpty) && residentGroups s l = 0 && l.saved.isEmpty

/-- A node launch is over: its bins are detached and empty and no group of it is left (R325). -/
def nodeDone (s : State) (l : Launch) : Bool :=
  let p := s.part l.part
  l.detached && !(p.bins.any fun b => b.launch = l.seq) && !(p.nodeGroups.any fun g => g.launch = l.seq)
    && residentGroups s l = 0 && l.saved.isEmpty

/-- The slots of a launch's crews freed, and its Dormer banks released (R42, R322). -/
def freeLaunch (s : State) (l : Launch) : State :=
  let s1 := l.places.foldl (fun s p =>
    match s.crew? p.2.1 p.2.2 with
    | none => s
    | some k =>
      freeCrewSlot (k.members.foldl (fun s x => leaveGhost s l.seq ⟨p.2.1, p.2.2, x.1⟩ x.2) s) p.2.1 p.2.2) s
  let s2 := if l.block.win.isSome then
      l.cores.foldl (fun s c => s.setCore c ((s.core c).releaseDormer l.seq).returnBanks) s1
    else s1
  s2.modLaunch l.seq fun l => { l with places := [] }

/-- LAUNCH_COMPLETE (R45). -/
def execLaunchComplete (launch : Nat) (s : State) : Out :=
  match s.launch? launch with
  | none => .refused (.notEnabled "LAUNCH_COMPLETE")
  | some l =>
    let done := match l.block.kind with
      | 2 => windowDone s l
      | 3 => nodeDone s l
      | _ => decide (l.finished.length = l.block.crews)
    if l.state = .eligible && done && !(workLeft s l) then
      let s1 := freeLaunch (s.modLaunch launch fun l => { l with state := .complete }) l
      let s2 := countLaunch { s1 with ghosts := s1.ghosts.filter fun x => x.launch ≠ launch } l 0 0
      .next (placementPass (retireContext s2 l.part l.ctx) l.part)
    else .refused (.notEnabled "LAUNCH_COMPLETE")

/-- CANCEL_COMPLETE (R46): the crews have halted, which each does once the matrix jobs already created are over (R280);
their slots free, and the launch completes as cancelled. -/
def execCancelComplete (launch : Nat) (s : State) : Out :=
  match s.launch? launch with
  | none => .refused (.notEnabled "CANCEL_COMPLETE")
  | some l =>
    if l.state = .cancelling && !(s.cores.any fun c => c.mats.any fun j => j.launch = l.seq) then
      let s1 := freeLaunch (s.modLaunch launch fun l => { l with state := .cancelled }) l
      let s2 := countLaunch s1 l (if l.cancelSelf then 1 else 2) 2
      .next (placementPass (retireContext s2 l.part l.ctx) l.part)
    else .refused (.notEnabled "CANCEL_COMPLETE")

/-! ### Saving a crew (R259 to R261) -/

/-- The ticks of a microsecond (R259). -/
def microTicks : Nat := 1200

/-- A group frozen for a save, at an instruction boundary or where it waits. -/
def Group.freeze (g : Group) : Group := if g.halt = .cancelled then g else { g with halt := .saving }

/-- A crew whose every group is frozen for a save: it issues nothing until it has been restored (R259, R260). -/
def Crew.freeze (k : Crew) : Crew := { k with groups := k.groups.map fun o => o.map Group.freeze }

/-- Every group is frozen. -/
def Crew.frozen (k : Crew) : Bool := k.members.all fun x => x.2.halt = .saving || x.2.halt = .cancelled

/-- FORCED_SAVE (R259): the launch's deadline has passed before every group has stopped; every group stops at its next
instruction boundary, a parked one where it waits, and everything is live. -/
def execForcedSave (core slot : Nat) (s : State) : Out :=
  match s.crew? core slot with
  | none => .refused (.notEnabled "FORCED_SAVE")
  | some k =>
    match k.preemptAt, s.launch? k.launch with
    | some t, some l =>
      if t + l.block.deadline * microTicks ≤ s.gt && !k.forced && k.members.any (fun x => !(x.2.stopped false)) then
        .next (s.setCrew core slot (some { k.freeze with forced := true, hints := [] }))
      else .refused (.notEnabled "FORCED_SAVE")
    | _, _ => .refused (.notEnabled "FORCED_SAVE")

/-- Work of a crew that the save engine still waits for (R260): results other than a `WAITM`'s, copy and matrix jobs,
line writes and atomics in flight, posts; and the line writes of other crews that a group of it has read and that are not
performed, so that it reads no older value wherever it is restored (R184; DESIGN CHOICE log 8). -/
def saveWaits (s : State) (core slot : Nat) (k : Crew) : Bool :=
  (k.members.any fun x =>
      x.2.outst.any (fun o => match o.kind with | .waitm _ => false | _ => true)
        || (match x.2.wait with | .post _ => true | _ => false))
    || ((s.core core).jobs.any fun j => j.launch = k.launch && j.crew = k.index)
    || ((s.core core).mats.any fun j => j.launch = k.launch && j.crew = k.index)
    || (s.writes.any fun w => (match w.issuer with | .group g => g.core = core && g.slot = slot | _ => false)
      || (w.phase ≠ .ack && w.seenBy.any fun x => x.1.core = core && x.1.slot = slot))
    || (s.atoms.any fun a => match a.issuer with | .group g => g.core = core && g.slot = slot | _ => false)

/-- The vector registers that a save keeps: those that the hints name, or every one (R131). -/
def liveVectors (k : Crew) : Mask :=
  if k.hints.isEmpty then BitVec.allOnes 128 else k.hints.foldl (fun m h => m ||| h.2.1) 0

/-- A crew that its launch's binding table names (R237). -/
def Launch.names (l : Launch) (index : Nat) : Bool := (l.block.bind.take l.block.peers).contains index

/-- The scratchpad ranges that a save keeps: those that the hints name, or all, as for a crew that a binding table names
(R131, R237). -/
def liveRanges (s : State) (k : Crew) : List (Nat × Nat) :=
  let named := match s.launch? k.launch with | some l => l.names k.index | none => false
  if k.hints.isEmpty || named then [(0, scratchBytes k.granules)] else k.hints.flatMap fun h => h.2.2

/-- A group as the save image holds it: results written, page waits rolled back, registers that are not live zero; it is
no longer halted by the save or the debug node, but with its crew where that is held (R131, R250, R259 to R262). It takes
along the versions of bytes that its core's
stores had made, and how long it has been in user handler state. -/
def Group.saved (live : Mask) (held : Bool) (gt : Nat) (vers : List (Nat × Nat)) (g : Group) : Group :=
  let g1 := g.drain
  { g1 with
    seen := vers.foldl (fun vs x => joinVer vs x.1 x.2) g.seen, userSince := gt - g.userSince
    regs := { g1.regs with v := g1.regs.v.zipIdx.map fun x => if live.getLsbD x.2 then x.1 else [] }
    usc := BitVec.ofNat 32 g.buf.length
    held := none, granted := [], starved := false, ready := 0
    wait := match g.wait with
      | .page _ => .none
      | .pageIndex _ _ _ => .none
      | w => w
    halt := match g.halt with
      | .saving => if held && !g.handling then .halted 0 true else .running
      | .debug => if held && !g.handling then .halted 0 true else .running
      | h => h }

/-- The poisoned granules of a crew's scratchpad that a save keeps (R230). -/
def liveBad (s : State) (core : Nat) (k : Crew) : List Nat :=
  (List.range k.granules.length).filter fun i =>
    s.poison.contains (sramLine core (getAt 0 k.granules i))
      && (liveRanges s k).any fun r => 128 * i < r.1 + r.2 && r.1 < 128 * i + 128

/-- A crew's save image (R260). Its tiles are not saved (R288). How long the crew has been fully parked is kept, so that a
restored crew that is still parked can be evicted again at once: R55 does not say that its clocks start anew (DESIGN CHOICE
log 63). -/
def saveImage (s : State) (core slot : Nat) (k : Crew) : Saved :=
  let c := s.core core
  let held := k.inHandler
  { crew := { k with
      groups := k.groups.map fun o => o.map (Group.saved (liveVectors k) held s.gt c.seen)
      granules := List.replicate k.granules.length 0, preemptAt := none, hints := [] }
    scratch := (liveRanges s k).foldl (fun m r => cellsWrite m r.1 (scratchRead c k.granules r.1 r.2)) []
    bad := liveBad s core k
    fifos := k.fifos.map fun b => (c.bank b).fifo
    esc := c.slotEntries slot }

/-- The header of an image (R261): version, size, context serial, group count: that of the groups which have not retired
(R261 does not say whether retired ones count; DESIGN CHOICE log 35). -/
def imageHeader (l : Launch) (k : Crew) : List (BitVec 8) :=
  bytesLE 4 1 ++ bytesLE 4 (imageBytes l.block) ++ bytesLE 8 k.ctx.toNat ++ bytesLE 4 k.size ++ bytesLE 108 0

/-- Free bytes at a physical address, within one page. -/
def freeFill (s : State) (a n : Nat) : State :=
  { s with
    mem := cellsWrite s.mem a ((List.range n).map fun i => freeByte (s.free + i)), free := s.free + n
    hostCopies := s.hostCopies.filter fun l => !(lineOf a ≤ l && l ≤ lineOf (a + n - 1)) }.newVer a n

/-- The body of a save image, in a layout that only the save engine reads: the bytes behind the header are free values, page
by page where the page translates (R260, R261). -/
def imageBody (s : State) (stack part va n : Nat) : State :=
  (List.range ((va + n + 4095) / 4096 - va / 4096)).foldl (fun s i =>
    let lo := max va (4096 * (va / 4096 + i))
    let hi := min (va + n) (4096 * (va / 4096 + i + 1))
    match vaPlace s stack part lo true with
    | some a => freeFill s a (hi - lo)
    | none => s) s

/-- CREW_SAVE (R260): every group has stopped. While there is something to wait for, the groups are frozen where they stand,
so that a result which arrives lets none go on; then the image is written. The slot goes to the work that waits; the
crew then waits for a place with its launch's priority (R55). The clocks that its launch has waited short of a level count on
while others of its crews wait, and else start anew (R55 does not say; DESIGN CHOICE log 35). -/
def execCrewSave (core slot : Nat) (s : State) : Out :=
  match s.crew? core slot with
  | none => .refused (.notEnabled "CREW_SAVE")
  | some k =>
    match s.launch? k.launch with
    | none => .refused (.notEnabled "CREW_SAVE")
    | some l =>
      if k.preemptAt.isNone || l.state ≠ .eligible || k.members.any (fun x => !(x.2.stopped k.forced)) then
        .refused (.notEnabled "CREW_SAVE")
      else if saveWaits s core slot k then
        (if k.frozen then .refused (.notEnabled "CREW_SAVE") else .next (s.setCrew core slot (some k.freeze)))
      else
        let s1 := k.members.foldl (fun s x => s.losePages k.part ⟨core, slot, x.1⟩ .saved) s
        let base := l.saveArea + 0x40000 + l.block.saveOff + k.index * imageBytes l.block
        let s2 := imageBody (vaWrite s1 (stackOf core) k.part base (imageHeader l k)) (stackOf core) k.part (base + 128)
          (imageBytes l.block - 128)
        let s3 := (emptySlot s2 core slot).modLaunch l.seq fun l =>
          { l with places := l.places.filter fun q => q.1 ≠ k.index, waited := if l.wants then l.waited else 0 }
        .next ((placementPass s3 k.part).modLaunch l.seq fun l => { l with saved := l.saved ++ [(k.index, saveImage s core slot k)] })

/-- A restored crew: the pairs of its groups' qm and qb that the supervisor core had written are checked (R215), the
watchdog's counts go on from where they stood (R251), and each `WAITM` restarts its loop (R262). -/
def Group.restored (gt : Nat) (g : Group) : Group :=
  { g with
    regs := if g.windowed.contains codeQ then g.regs.checkMod else g.regs
    windowed := g.windowed.filter fun c => c ≠ codeQ
    userSince := gt - g.userSince
    outst := g.outst.map fun o => { o with kind := match o.kind with
      | .waitm w => .waitm { w with readAt := none, page := none, granted := false }
      | k => k } }

/-- The poison of a restored crew's granules is that of its image (R230, R262). -/
def State.restorePoison (s : State) (core : Nat) (granules bad : List Nat) : State :=
  let mine := granules.map (sramLine core)
  { s with poison := (s.poison.filter fun l => !(mine.contains l)) ++ bad.map fun i => sramLine core (getAt 0 granules i) }

/-- The buffered line writes of a restored group are sent again (R262). -/
def resend (s : State) (gid : Gid) : State :=
  match s.group? gid with
  | some g => ((g.buf.map BufWrite.line).dedup).foldl (fun s line => sendNext s gid line) s
  | none => s

/-- The escalation entries of a restored crew's groups join the core's queue: what waits in `ESC` or a double fault goes on
waiting, and the core's own firmware finds the entry, as R368 has it of firmware that starts anew (DESIGN CHOICE log 35: R252
and R262 do not say). -/
def Core.restoreEntries (c : Core) (slot : Nat) (es : List EscEntry) : Core :=
  { c with escQueue := c.escQueue ++ es.map fun e => e.moved slot }

/-- A saved crew is restored to a slot of a core: its state is reloaded, its buffered writes are sent again, and a wait on a
counter or a barrier object that has been met meanwhile is over (R45, R241, R262). -/
def restoreCrew (s : State) (l : Launch) (index : Nat) (v : Saved) (core slot : Nat) (c : Core) : State :=
  let s1 := ((s.bankPoison core c).setCore core (c.restoreEntries slot v.esc)).modLaunch l.seq fun l =>
    { l with saved := l.saved.filter fun x => x.1 ≠ index, places := l.places ++ [(index, core, slot)] }
  let s2 := match s1.crew? core slot with
    | some k =>
      let k1 := { k with groups := k.groups.map fun o => o.map (Group.restored s.gt) }
      (s1.setCrew core slot (some ((List.range 8).foldl (fun k o => k.wakeObj o) k1))).restorePoison core k.granules v.bad
    | none => s1
  wakeCounters (v.crew.members.foldl (fun s x => resend s ⟨core, slot, x.1⟩) s2) l.part

/-- CREW_RESTORE (R262): the saved crew that comes next in the order of placement (R55, R321) is restored to the core that
R321 gives. -/
def execCrewRestore (launch crew core : Nat) (s : State) : Out :=
  match s.launch? launch with
  | none => .refused (.notEnabled "CREW_RESTORE")
  | some l0 =>
    let (s1, next) := passRun s l0.part
    match (if next = some launch then s1.launch? launch else none) with
    | none => .refused (.notEnabled "CREW_RESTORE")
    | some l =>
      match l.nextSaved with
      | none => .refused (.notEnabled "CREW_RESTORE")
      | some (i, v) =>
        match pickReplace s1 l i v with
        | none => .refused (.notEnabled "CREW_RESTORE")
        | some (c, slot, x) =>
          if i = crew && c = core then .next (placementPass (restoreCrew s1 l i v c slot x) l.part)
          else .refused (.notEnabled "CREW_RESTORE")

end Sys2Proof.Machine
end

