-- ==== Sys2Proof/Machine/EvQueue.lean ====
section
/-! DEFINITION. LQI queues: kicks and the taking of entries (R311 to R317). An entry whose kind no step names is stopped by the launch entry's step. -/

namespace Sys2Proof.Machine

open Sys2Proof

/-- A queue of a partition. -/
def Partition.queue? (p : Partition) (q : Nat) : Option Queue := (p.queues.find? fun x => x.1 = q).map Prod.snd

/-- A queue of a partition replaced. -/
def State.setQueue (s : State) (part q : Nat) (x : Queue) : State :=
  let p := s.part part
  s.setPart part { p with queues := (q, x) :: p.queues.filter fun y => y.1 ≠ q }

/-- The privileged queue's number (R311). -/
def privQueue : Nat := 1024

/-- A queue stopped, with its event (R315). -/
def stopQueue (s : State) (part q : Nat) (x : Queue) (tag : Nat) : State :=
  (s.setQueue part q { x with stopped := true }).postEvent part { kind := 3, ctx := x.ctx.toNat, seq := tag, info := q }

/-- KICK (R311): writes at other offsets or of other sizes are ignored, as is a kick of a disabled partition (R355). -/
def execKick (part queue off size : Nat) (val : BitVec 32) (s : State) : Out :=
  match (s.part part).queue? queue with
  | none => .next s
  | some x =>
    if off ≠ 0 || size ≠ 4 || !(bitOf (s.part part).pctl.toNat 0) || x.stopped then .next s
    else
      let ahead := (val - BitVec.ofNat 32 x.head).toNat
      if 2 ^ x.log2n < ahead then .next (stopQueue s part queue x 0)
      else .next (s.setQueue part queue { x with tail := x.head + ahead })

/-- The entry at the head of a queue, at its virtual address. -/
def headEntry (s : State) (part : Nat) (x : Queue) : Option Nat :=
  vaNat? s (s.part part).homeStack part (x.ring + 64 * (x.head % 2 ^ x.log2n)) 64

/-- KIND of an entry. -/
def entKind (e : Nat) : Nat := bitsOf e 7 0
/-- BIN of an entry. -/
def entBin (e : Nat) : Bool := bitOf e 8
/-- SEQ of an entry. -/
def entSeq (e : Nat) : Nat := bitsOf e 63 32
/-- Argument i of an entry. -/
def entArg (e i : Nat) : Nat := bitsOf e (127 + 64 * i) (64 + 64 * i)

/-- The bits of an argument outside a mask are zero. -/
def onlyBits (x mask : Nat) : Bool := Nat.land x mask = x

/-- The bits that the arguments of an entry may set (R313). -/
def entMasks (e : Nat) : List Nat :=
  let all := 2 ^ 64 - 1
  match entKind e with
  | 1 => [all, 0, 0, 0, 0, 0]
  | 2 => [0xFFFFFFFF, all, 0, 0, 0, 0]
  | 3 => [0xFFFFFFFF, all, 0, 0, 0, 0]
  | 4 => if entBin e then [0x0000FFFF00FF0FFF, all, 0, 0, 0, 0] else [0x0000001F0000FFFF, all, all, 0, 0, 0]
  | 5 => if entBin e then [0x0FFF, 0, 0, 0, 0, 0] else [0xFFFF, 0, 0, 0, 0, 0]
  | 8 => [all, 0xFFFFFFFF000F03FF, all, all, all, 0]
  | 9 => [0x3FF, 0, 0, 0, 0, 0]
  | 10 => [0x3, 0xFFFFFFFF, 0, 0, 0, 0]
  | 11 => [0x3F, 0xF, 0, 0, 0, 0]
  | _ => []

/-- An entry that R313 and R315 allow in a queue, before what its kind checks. -/
def entOk (q e : Nat) : Bool :=
  let k := entKind e
  let masks := entMasks e
  !masks.isEmpty && (k < 8 || q = privQueue) && bitsOf e 31 16 = 1 && bitsOf e 511 448 = 0 && bitsOf e 15 9 = 0
    && (!(entBin e) || k = 4 || k = 5)
    && masks.zipIdx.all fun m => onlyBits (entArg e m.2) m.1

/-- An entry taken: the head moves on, and the head write-back word holds it; the queue has had its turn (R314). -/
def takeEntry (s : State) (part q : Nat) : State :=
  match (s.part part).queue? q with
  | none => s
  | some x =>
    let h := (x.head + 1) % 2 ^ 32
    let t := if x.head + 1 = 2 ^ 32 then x.tail - 2 ^ 32 else x.tail
    let p := s.part part
    let s1 := s.setQueue part q { x with head := h, tail := t }
    vaWrite (s1.setPart part { s1.part part with turn := q }) p.homeStack part x.headAddr (bytesLE 4 h)

/-- The step of an entry kind: while the queues are served and the queue has an entry of the kind at its head. `f` gives
the state in which the entry is taken, a wait, or a stop of the queue. -/
def entryStep (name : String) (kind part q : Nat) (s : State) (f : Queue → Nat → Option (Option State)) : Out :=
  match (s.part part).queue? q with
  | none => .refused (.notEnabled name)
  | some x =>
    if !(bitOf (s.part part).pctl.toNat 6) || x.stopped || x.head = x.tail then .refused (.notEnabled name)
    else match headEntry s part x with
    | none => .refused (.notEnabled name)
    | some e =>
      let mine := entKind e = kind || (kind = 1 && (entMasks e).isEmpty)
      if !mine then .refused (.notEnabled name)
      else if !(entOk q e) then .next (stopQueue s part q x (entSeq e))
      else match f x e with
      | none => .next (stopQueue s part q x (entSeq e))
      | some none => .refused (.notEnabled name)
      | some (some s1) => .next (takeEntry s1 part q)

/-- LAUNCH_ENTRY (R314, R319). -/
def execLaunchEntry (part queue : Nat) (s : State) : Out :=
  entryStep "LAUNCH_ENTRY" 1 part queue s fun x e =>
    let a := entArg e 0
    let p := s.part part
    let b := if a % 256 = 0 then vaNat? s p.homeStack part a 256 else none
    some (some (submitLaunch s part x.ctx x.saveArea x.saveBytes a 255 (entSeq e) b).2)

/-- WAIT_COUNTER_ENTRY (R314). -/
def execWaitCounterEntry (part queue : Nat) (s : State) : Out :=
  entryStep "WAIT_COUNTER_ENTRY" 2 part queue s fun x e =>
    if !(counterValid s part x.ctx (entArg e 0)) then none
    else if counterMet s part (entArg e 0) (entArg e 1) then some (some s) else some none

/-- SIGNAL_COUNTER_ENTRY (R313). -/
def execSignalCounterEntry (part queue : Nat) (s : State) : Out :=
  entryStep "SIGNAL_COUNTER_ENTRY" 3 part queue s fun x e =>
    if !(counterValid s part x.ctx (entArg e 0)) then none
    else some (some (wakeCounters (counterRaise s part x.ctx (BitVec.ofNat 64 (entArg e 1)) 0 (entArg e 0)) part))

/-- The launch that an attach entry names: of the queue's context, accepted and not completed. -/
def attachLaunch (s : State) (part : Nat) (ctx : Word) (addr : Nat) : Option Launch :=
  s.launches.reverse.find? fun l => l.part = part && l.ctx = ctx && l.addr = addr && l.live

/-- A stream attached to a window launch starts anew at its partition cores: W is −2⁶³, and it has not ended (R291, DEDUCED
log 54). -/
def startStream (s : State) (l : Launch) (stream : Nat) : State :=
  l.cores.foldl (fun s c => s.modDormer c l.seq fun _ d => d.setMark ⟨BitVec.ofNat 16 stream, -(2 ^ 63), false⟩) s

/-- STREAM_ATTACH (R315, R317, R325). -/
def execStreamAttach (part queue : Nat) (s : State) : Out :=
  entryStep "STREAM_ATTACH" 4 part queue s fun x e =>
    let p := s.part part
    let a := entArg e 0
    match attachLaunch s part x.ctx (entArg e 1) with
    | none => none
    | some l =>
      if entBin e then
        let n := a % 4096
        let c := bitsOf a 23 16 + 1
        if l.block.kind ≠ 3 || 128 < c || (p.bin? n).isSome then none
        else some (some (s.setPart part { p with
          bins := ⟨n, l.seq, c, bitsOf a 47 32, [], true⟩ :: p.bins.filter fun b => b.bin ≠ n }))
      else
        let n := a % 65536
        let lg := bitsOf a 36 32
        if l.block.kind ≠ 2 || lg < 4 || 20 < lg || entArg e 2 % 4096 ≠ 0 || (p.bindings.any fun b => b.stream = n) then none
        else some (some (startStream (s.setPart part { p with bindings := ⟨n, l.seq, lg, entArg e 2⟩ :: p.bindings }) l n))

/-- What a detached bin still holds forms node groups (R325). -/
def Partition.emptyBin (p : Partition) (b : Bin) : Partition :=
  { p with
    bins := p.bins.filter fun x => x.bin ≠ b.bin
    nodeGroups := if b.records.isEmpty then p.nodeGroups
      else p.nodeGroups ++ [⟨b.launch, (b.records.take b.count).map Prod.snd⟩] }

/-- A bin detached. -/
def detachBin (s : State) (part : Nat) (b : Bin) : State :=
  (s.setPart part ((s.part part).emptyBin b)).modLaunch b.launch fun l => { l with detached := true }

/-- A stream detached. -/
def detachStream (s : State) (part : Nat) (b : Binding) : State :=
  let p := s.part part
  (s.setPart part { p with bindings := p.bindings.filter fun x => x.stream ≠ b.stream }).modLaunch b.launch
    fun l => { l with detached := true }

/-- Whether a launch belongs to a context. -/
def ofContext (s : State) (launch : Nat) (ctx : Word) : Bool :=
  match s.launch? launch with
  | some l => l.ctx = ctx
  | none => false

/-- STREAM_DETACH (R315, R317, R325). -/
def execStreamDetach (part queue : Nat) (s : State) : Out :=
  entryStep "STREAM_DETACH" 5 part queue s fun x e =>
    let p := s.part part
    if entBin e then
      match p.bin? (entArg e 0) with
      | some b => if ofContext s b.launch x.ctx then some (some (detachBin s part b)) else none
      | none => none
    else match p.bindings.find? fun b => b.stream = entArg e 0 with
      | some b => if ofContext s b.launch x.ctx then some (some (detachStream s part b)) else none
      | none => none

/-- A context's serial given to a queue: it is live again (R316). -/
def reviveContext (s : State) (part : Nat) (ctx : Word) : State :=
  let p := s.part part
  s.setPart part { p with retired := p.retired.filter fun c => c ≠ ctx }

/-- QUEUE_CREATE (R313, R316). -/
def execQueueCreate (part queue : Nat) (s : State) : Out :=
  entryStep "QUEUE_CREATE" 8 part queue s fun _ e =>
    let a := entArg e 1
    let m := bitsOf a 19 16
    let ctx : Word := BitVec.ofNat 32 (a / 2 ^ 32)
    if ctx = 0 || 10 < m || entArg e 0 % 4096 ≠ 0 || entArg e 2 % 8 ≠ 0 || entArg e 3 % 4096 ≠ 0 then none
    else some (some ((reviveContext s part ctx).setQueue part (a % 1024)
      { ring := entArg e 0, log2n := m + 6, head := 0, tail := 0, ctx := ctx, headAddr := entArg e 2
        saveArea := entArg e 3, saveBytes := entArg e 4, stopped := false }))

/-- QUEUE_DESTROY (R314, R316). -/
def execQueueDestroy (part queue : Nat) (s : State) : Out :=
  entryStep "QUEUE_DESTROY" 9 part queue s fun _ e =>
    let p := s.part part
    let n := entArg e 0
    match p.queue? n with
    | none => some (some s)
    | some x =>
      some (some (retireContext (s.setPart part { p with queues := p.queues.filter fun y => y.1 ≠ n }) part x.ctx))

/-- CANCEL_ENTRY (R46, R313). -/
def execCancelEntry (part queue : Nat) (s : State) : Out :=
  entryStep "CANCEL_ENTRY" 10 part queue s fun _ e => some (some (cancelLevel s part (entArg e 0) (entArg e 1)))

/-- PRE_EMPT_ENTRY (R313 to R315). -/
def execPreEmptEntry (part queue : Nat) (s : State) : Out :=
  entryStep "PRE_EMPT_ENTRY" 11 part queue s fun _ e =>
    if !((s.part part).cores.getLsbD (entArg e 0)) then none
    else some (some (requestPreempt s (entArg e 0) (entArg e 1)))

end Sys2Proof.Machine
end

