-- ==== Sys2Proof/Machine/EvDormer.lean ====
section
/-! DEFINITION. Records on their way and at work (R289 to R304), wakes (R51, R323), node bins (R325), quiescence (R328), bridge streams (R329). -/

namespace Sys2Proof.Machine

open Sys2Proof

/-! ### The end of a post (R309) -/

/-- A message changed. -/
def State.modRec (s : State) (id : Nat) (f : RecMsg → RecMsg) : State :=
  { s with recs := s.recs.map fun m => if m.id = id then f m else m }

/-- A message removed. -/
def State.dropRec (s : State) (id : Nat) : State := { s with recs := s.recs.filter fun m => m.id ≠ id }

/-- The event of a refused record (R309, R359, R360), to the queue of its poster's partition, with its poster's context. -/
def refusedEvent (s : State) (m : RecMsg) : State :=
  s.postEvent m.posterPart
    { kind := 6, core := m.poster.core, slot := m.poster.slot, grp := m.poster.grp
      ctx := m.ctx.toNat, info := recStream m.record.bits }

/-- A record that is not a copy is done: its poster's wait or nothing is left of it, and its launch counts it (R328). -/
def recordOver (s : State) (m : RecMsg) (status : Nat) : State :=
  let s1 := if status = 2 then refusedEvent s m else s
  let s2 := match m.launch with
    | some n => s1.modLaunch n fun l => { l with taken := l.taken + 1 }
    | none => s1
  if m.waits then s2.modRec m.id fun m => { m with phase := .done, status := status } else s2.dropRec m.id

/-- A record or a copy of a control record is done; the last copy ends the record (R309). -/
def recordDone (s : State) (m : RecMsg) (status : Nat) : State :=
  match m.parent with
  | none => recordOver s m status
  | some p =>
    let s1 := s.dropRec m.id
    match s1.recs.find? fun x => x.id = p with
    | none => s1
    | some x =>
      match x.phase with
      | .control n =>
        let st := max x.status status
        if n ≤ 1 then recordOver s1 x st
        else s1.modRec p fun x => { x with phase := .control (n - 1), status := st }
      | _ => s1

/-- RPOST_ORD_ACCEPTANCE (R309): the status of the lane, then the next lane posts. -/
def execRpostOrdAcceptance (msg : Nat) (s : State) : Out :=
  match s.recs.find? fun m => m.id = msg && m.phase = .done with
  | none => .refused (.notEnabled "RPOST_ORD_ACCEPTANCE")
  | some m =>
    let s1 := s.dropRec msg
    match s1.crew? m.poster.core m.poster.slot, s1.group? m.poster with
    | some k, some g =>
      match g.wait with
      | .post p =>
        if p.msg = some msg then
          let last := p.done.getLast?.map Prod.fst
          let done := p.done.map fun x => if some x.1 = last then (x.1, m.status) else x
          .next (advancePost s1 m.poster k.part { p with done := done, msg := none })
        else .next s1
      | _ => .next s1
    | _, _ => .next s1

/-! ### Ingress and bridge (R290, R329, R344) -/

/-- The credits of an ingress node for each core (R344). -/
def nodeCredits : Nat := 64

/-- A record stands in the record input of a core: it is on its way there, or held there (R344). -/
def RecMsg.atInput (m : RecMsg) (core : Nat) : Bool :=
  match m.phase with
  | .toCore c => c = core
  | .held c _ => c = core
  | .fetchFull c => c = core
  | _ => false

/-- Whether an ingress node has a credit for a core. -/
def nodeHasCredit (s : State) (node core : Nat) : Bool :=
  (s.recs.filter fun m => m.node = node && m.atInput core).length < nodeCredits

/-- The partition cores of a launch, ascending (R290). -/
def Launch.partitionCores (l : Launch) : List Nat := (List.range 48).filter fun c => l.cores.contains c

/-- Copies of a control record, one for each partition core. -/
def sendCopies (m : RecMsg) : List Nat → State → State
  | [], s => s
  | c :: cs, s =>
    let (id, s1) := s.fresh
    let x : RecMsg := { m with id := id, waits := false, parent := some m.id, phase := .toCore c, credit := false
                               launch := none }
    sendCopies m cs { s1 with recs := s1.recs ++ [x] }

/-- The fault queue's tail and head in a stream status block (R317). -/
def faultTail (s : State) (core part : Nat) (b : Binding) : Nat :=
  (vaNat? s (stackOf core) part (b.status + 8) 4).getD 0
/-- The head, which the host writes. -/
def faultHead (s : State) (core part : Nat) (b : Binding) : Nat :=
  (vaNat? s (stackOf core) part (b.status + 12) 4).getD 0

/-- The fault queue is full. -/
def faultFull (s : State) (core part : Nat) (b : Binding) : Bool :=
  2 ^ b.log2n ≤ (BitVec.ofNat 32 (faultTail s core part b) - BitVec.ofNat 32 (faultHead s core part b)).toNat

/-- A fault queue entry (R298). -/
def faultEntry (s : State) (core reason : Nat) (w : Int) (r : BitVec 512) : List (BitVec 8) :=
  bytesLE 64 r.toNat ++ bytesLE 8 (BitVec.ofInt 64 w).toNat ++ bytesLE 8 s.gt ++ bytesLE 2 reason ++ bytesLE 2 core
    ++ bytesLE 44 0

/-- A record that the stream's fault queue takes: the entry, the late counter, and a late wake or event kind 5 (R298). -/
def faultRecord (s : State) (core part : Nat) (b : Binding) (l : Launch) (w : WinDesc) (d : Dormer) (reason : Nat)
    (r : BitVec 512) : State :=
  let st := stackOf core
  let tail := faultTail s core part b
  let late := (vaNat? s st part b.status 8).getD 0
  let s1 := vaWrite s st part (b.status + 128 + 128 * (tail % 2 ^ b.log2n)) (faultEntry s core reason (d.mark (recId r).1).wmark r)
  let s2 := vaWrite s1 st part b.status (bytesLE 8 (late + 1))
  let s3 := vaWrite s2 st part (b.status + 8) (bytesLE 4 (tail + 1))
  if w.lateE ≠ noEntry && l.state = .eligible && reason ≠ 3 then
    s3.modDormer core l.seq fun _ d => { d with ready := d.ready ++ [⟨.late, none, r⟩] }
  else s3.postEvent part { kind := 5, core := core, ctx := l.ctx.toNat, info := recStream r }

/-- A record for a launch that was cancelled before any crew of it was placed: no core judges it, and it goes to the
stream's fault queue with reason 3 and to the partition's event queue as at a core; CORE is the poster's (R46, R298; DESIGN
CHOICE log 55). A control record is done. -/
def unplacedIngress (s : State) (m : RecMsg) (l : Launch) : Out :=
  let r := m.record.bits
  let core := m.poster.core
  match (s.part m.record.part).bindings.find? fun b => b.stream = recStream r, l.block.win with
  | some b, some w =>
    if !(recControl r) && faultFull s core m.record.part b then .refused (.notEnabled "RECORD_INGRESS")
    else
      let s1 := s.modRec m.id fun m => { m with credit := false }
      let s2 := if recControl r then s1 else faultRecord s1 core m.record.part b l w (Dormer.start l.seq []) 3 r
      .next (servePosts (recordDone s2 m (if recControl r then 0 else 1)) core)
  | _, _ => .refused (.notEnabled "RECORD_INGRESS")

/-- RECORD_INGRESS (R290): to the partition core of its key, to all for a control record, to the package controller for a
bridge stream; a record of a stream that is not attached is refused. -/
def execRecordIngress (msg : Nat) (s : State) : Out :=
  match s.recs.find? fun m => m.id = msg && m.phase = .toIngress with
  | none => .refused (.notEnabled "RECORD_INGRESS")
  | some m =>
    let r := m.record.bits
    let p := s.part m.record.part
    let core := m.poster.core
    if p.bridge.contains (recStream r) then
      .next (servePosts (s.modRec msg fun m => { m with phase := .toBridge, credit := false }) core)
    else match (boundLaunch s m.record.part (recStream r)).bind s.launch? with
    | none => .next (servePosts (recordDone (s.modRec msg fun m => { m with credit := false, phase := .done }) m 2) core)
    | some l =>
      match (if l.state = .cancelling || l.state = .cancelled || l.unplaced = 0 then l.partitionCores else []) with
      | [] =>
        if l.state = .cancelling || l.state = .cancelled then unplacedIngress s m l
        else .refused (.notEnabled "RECORD_INGRESS")
      | c0 :: cs =>
        let cores := c0 :: cs
        let dests := if recControl r then cores else [getAt c0 cores (recHash (recKey r) cores.length)]
        if !(dests.all (nodeHasCredit s m.node)) then .refused (.notEnabled "RECORD_INGRESS")
        else if recControl r then
          .next (servePosts (sendCopies m cores
            (s.modRec msg fun m => { m with phase := .control cores.length, credit := false })) core)
        else
          .next (servePosts (s.modRec msg fun m =>
            { m with phase := .toCore (getAt c0 cores (recHash (recKey r) cores.length)), credit := false }) core)

/-- VALID, SPART and SSTREAM of a filter entry match. -/
def filterMatches (e : Nat) (part stream : Nat) : Bool :=
  bitOf e 0 && bitsOf e 47 40 = part && bitsOf e 63 48 = stream

/-- A filter entry passes a record's key, but for a control record. -/
def filterPasses (e : Nat) (r : BitVec 512) : Bool :=
  recControl r || Nat.land (recKey r).toNat (bitsOf e 159 128) = bitsOf e 127 96

/-- The ticks of a millisecond. -/
def milliTicks : Nat := 1200000

/-- BRIDGE_FILTER (R329): the lowest entry that matches decides; a record within its RATE is posted into the destination
stream. -/
def execBridgeFilter (msg : Nat) (s : State) : Out :=
  match s.recs.find? fun m => m.id = msg && m.phase = .toBridge with
  | none => .refused (.notEnabled "BRIDGE_FILTER")
  | some m =>
    let r := m.record.bits
    let src := m.record.part
    match s.pkg.filter.zipIdx.find? fun x => filterMatches x.1.toNat src (recStream r) with
    | none => .next (recordDone s m 2)
    | some (e, i) =>
      let x := e.toNat
      let p := s.part src
      let now := s.gt / milliTicks
      let used := ((p.rateUsed.find? fun y => y.1 = i && y.2.1 = now).map fun y => y.2.2).getD 0
      let rate := bitsOf x 191 160
      if !(filterPasses x r) || (rate ≠ 0 && rate ≤ used) then .next (recordDone s m 2)
      else
        let s1 := s.setPart src { p with rateUsed := (i, now, used + 1) :: p.rateUsed.filter fun y => y.1 ≠ i }
        let dst := bitsOf x 79 72
        let r1 := recPut r 0 16 (bitsOf x 95 80)
        let bound := boundLaunch s1 dst (recStream r1)
        let s2 := match m.launch with
          | some n => s1.modLaunch n fun l => { l with taken := l.taken + 1 }
          | none => s1
        let s3 := match bound with
          | some n => s2.modLaunch n fun l => { l with posted := l.posted + 1 }
          | none => s2
        .next (s3.modRec msg fun m =>
          { m with record := ⟨r1, dst⟩, phase := .toIngress, credit := false, launch := bound })

/-! ### Acceptance at a core (R297 to R301) -/

/-- Why a record is late (R297, R298): 3 its launch is cancelled, 5 reserved flag bits, 2 the stream has ended, 1 late; 0
when it is not. -/
def lateReason (l : Launch) (w : WinDesc) (d : Dormer) (r : BitVec 512) : Nat :=
  if l.state = .cancelling || l.state = .cancelled then 3
  else if recReserved r ≠ 0 then 5
  else if (d.mark (recId r).1).ended then 2
  else if recLate w d r then 1 else 0

/-- The records of a core at most that wait for fetches (R301). -/
def fetchLimit : Nat := 64

/-- A record that must wait at its core until an earlier one has been accepted: a held one of the core or of its stream,
or one that waits for slates of its key; a control record waits for every such one (R291, R298, R300, R301). A record that
is one too many of those that wait for fetches keeps back what comes after it, and none of those that it waits for. -/
def recBlocked (s : State) (m : RecMsg) (core : Nat) : Bool :=
  let r := m.record.bits
  let same (x : RecMsg) : Bool := x.record.part = m.record.part && recStream x.record.bits = recStream r
  let conflict (x : RecMsg) : Bool := same x && (recControl r || recKey x.record.bits = recKey r)
  let earlier := if m.phase = .fetch core then s.recs.takeWhile fun x => x.id ≠ m.id else s.recs
  (s.recs.any fun x => x.id ≠ m.id && (x.phase = .held core true || (x.phase = .held core false && same x)
      || (x.phase = .fetchFull core && m.phase = .toCore core)))
    || earlier.any fun x => x.id ≠ m.id && x.phase = .fetch core && conflict x

/-- The core at which a record stands. -/
def RecMsg.core? (m : RecMsg) : Option Nat :=
  match m.phase with
  | .toCore c => some c
  | .held c _ => some c
  | .fetch c => some c
  | .fetchFull c => some c
  | _ => none

/-- A record waits at its core in a phase; one that waits so already stays so. -/
def waitRec (s : State) (m : RecMsg) (phase : RecPhase) : Out :=
  if m.phase = phase then .refused (.notEnabled "RECORD_ACCEPT")
  else .next (s.modRec m.id fun m => { m with phase := phase })

/-- A record held at its core, and with it every record of the core, or of its stream. -/
def holdRec (s : State) (m : RecMsg) (core : Nat) (all : Bool) : Out := waitRec s m (.held core all)

/-- The spilled slates of a key are fetched back. -/
def Dormer.fetchKey (d : Dormer) (k : BitVec 16 × Word) : Dormer :=
  { d with slates := d.slates.map fun x => if x.sk = k && x.spilled then { x with fetching := true } else x }

/-- A record waits for slates of its key to be fetched back (R301); those that have been spilled again meanwhile, to open
another slate, are fetched once more. -/
def fetchRec (s : State) (m : RecMsg) (core : Nat) (l : Launch) (d : Dormer) : Out :=
  let k := recId m.record.bits
  let s1 := s.modDormer core l.seq fun _ d => d.fetchKey k
  if m.phase = .fetch core then
    (if d.fetchKey k = d then .refused (.notEnabled "RECORD_ACCEPT") else .next s1)
  else if fetchLimit ≤ (s.recs.filter fun x => x.phase = .fetch core).length then waitRec s m (.fetchFull core)
  else
    .next { s1 with recs := (s1.recs.filter fun x => x.id ≠ m.id) ++ [{ m with phase := .fetch core }] }

/-- RECORD_ACCEPT (R291, R297 to R301). -/
def execRecordAccept (msg : Nat) (s : State) : Out :=
  match (s.recs.find? fun m => m.id = msg).bind fun m => m.core?.map fun c => (m, c) with
  | none => .refused (.notEnabled "RECORD_ACCEPT")
  | some (m, core) =>
    let r := m.record.bits
    let part := m.record.part
    if recBlocked s m core then .refused (.notEnabled "RECORD_ACCEPT")
    else match (s.part part).bindings.find? fun b => b.stream = recStream r with
    | none => .next (recordDone s m 2)
    | some b =>
      match s.launch? b.launch, s.win? b.launch, s.dormer? core b.launch with
      | some l, some w, some d =>
        if faultFull s core part b then holdRec s m core false
        else if recControl r then
          let d1 := d.acceptControl w r
          if d1.overfull then holdRec s m core true
          else .next (recordDone (s.modDormer core l.seq fun _ _ => d1) m 0)
        else
          let reason := lateReason l w d r
          if reason ≠ 0 then .next (recordDone (faultRecord s core part b l w d reason r) m 1)
          else if d.slates.any fun x => x.sk = recId r && x.spilled then fetchRec s m core l d
          else
            let a := d.acceptData w (spillRoom s l w) r
            if a.waits || a.d.overfull then holdRec s m core true
            else
              let s1 := (s.modDormer core l.seq fun _ _ => a.d).settleSpills core l.seq
              if a.bad then .next (recordDone (faultRecord s1 core part b l w d 4 r) m 1)
              else .next (recordDone s1 m 0)
      | _, _, _ => .next (recordDone s m 2)

/-- The keys of the records that wait for fetches at a core, the first of them first, up to those of some key: a slate of
that key that is fetched back takes the slot of no slate that they wait for, so that the first record of all is served in the
end (R301; DESIGN CHOICE log 54). -/
def keptKeys (s : State) (core : Nat) (k : BitVec 16 × Word) : List (BitVec 16 × Word) :=
  let ks := (s.recs.filter fun x => x.phase = .fetch core).map fun x => recId x.record.bits
  ks.takeWhile (fun x => x ≠ k) ++ ks.filter fun x => x = k

/-- SLATE_FETCH_COMPLETE (R301): a slate that a record, an item of its own or a merge waits for returns to a slot, for which a
dormant one may be spilled. -/
def execSlateFetchComplete (core launch slate : Nat) (s : State) : Out :=
  match s.launch? launch, s.win? launch, s.dormer? core launch with
  | some l, some w, some d =>
    match d.slate? slate with
    | none => .refused (.notEnabled "SLATE_FETCH_COMPLETE")
    | some x =>
      if !x.spilled || (!x.fetching && x.items.isEmpty && !x.gone) then .refused (.notEnabled "SLATE_FETCH_COMPLETE")
      else match d.makeSlot w (spillRoom s l w + 1) (keptKeys s core x.sk) with
      | .at d1 _ b =>
        .next ((s.modDormer core launch fun _ _ => d1.modSlate slate fun x =>
          { x with spilled := false, fetching := false, bank := some b, place := none }).settleSpills core launch)
      | _ => .refused (.notEnabled "SLATE_FETCH_COMPLETE")
  | _, _, _ => .refused (.notEnabled "SLATE_FETCH_COMPLETE")

/-! ### Wakes (R51, R296, R299 to R303, R323, R325) -/

/-- What a lane of a new wake group starts with. -/
structure LaneStart where
  stream : BitVec 16
  lane : WakeLane
  frame : List Word
  partner : List Word
  record : BitVec 512

/-- What `WINFO` reports of a slate. -/
def Slate.info (x : Slate) : SlateInfo := ⟨BitVec.ofInt 64 x.start, BitVec.ofInt 64 x.stop, x.key, x.count, x.flags⟩

/-- A lane with a slate. -/
def slateLane (x : Slate) (partner : Option Slate) (infoP : Option SlateInfo) (r : BitVec 512) : LaneStart where
  stream := x.stream
  lane := ⟨some x.id, partner.map Slate.id, !x.backed, false, if x.backed then some x.info else none,
    match partner with | some y => some y.info | none => infoP⟩
  frame := x.frame
  partner := (partner.map Slate.frame).getD []
  record := r

/-- A lane without a slate. -/
def plainLane (stream : BitVec 16) (infoP : Option SlateInfo) (r : BitVec 512) : LaneStart :=
  ⟨stream, ⟨none, none, false, false, none, infoP⟩, [], [], r⟩

/-- The registers at the start of a wake (R51). -/
def wakeRegs (xs : List LaneStart) : List (List Word) :=
  ((List.range 24).map fun i => xs.map fun x => getAt 0 x.frame i)
    ++ ((List.range 24).map fun i => xs.map fun x => getAt 0 x.partner i)
    ++ (List.range 16).map fun i => xs.map fun x => x.record.extractLsb' (32 * i) 32

/-- A wake or node group joins the crew of its core (R323); none while it finds no place, and none on a fenced core, on which
nothing more is placed (R266). One that joins a crew which a handler holds, or which the debug node has stopped, runs at
once (DESIGN CHOICE log 52: R250 and R263 do not say). -/
def startWake (s : State) (l : Launch) (core : Nat) (kind : WakeKind) (entry : Nat) (xs : List LaneStart) :
    Option (Nat × State) :=
  match (if (s.core core).fenced then none else l.places.find? fun p => p.2.1 = core) with
  | none => none
  | some (index, _, slot) =>
    match s.crew? core slot, l.block.roles with
    | some k, r :: _ =>
      match (List.range 16).find? fun i => (getAt none k.groups i).isNone, pickLaneset (s.core core).use r.budget with
      | some i, some lane =>
        let m : Mask := maskOf fun n => n < xs.length
        let g0 := startGroup l index i lane { r with offset := entry } 16
        let g : Group :=
          { g0 with
            regs := { g0.regs with v := wakeRegs xs, act := m, xm := ~~~ m }
            since := s.gt, wake := some (kind, xs.map LaneStart.lane)
            stream := match xs with | x :: _ => x.stream | [] => 0 }
        let s1 := s.setGroup ⟨core, slot, i⟩ (some g)
        let bad := (lanes.filter fun n => (g.lane n).unbacked)
        some (i, match bad with
          | [] => s1
          | n :: _ => takeTrapAt s1 ⟨core, slot, i⟩ 0x39 (BitVec.ofNat 32 entry) (BitVec.ofNat 32 (n + 256 * bad.length)))
      | _, _ => none
    | _, _ => none

/-- A slate whose head item can start (R299, R301). -/
def Slate.startable (x : Slate) : Bool := !x.out && !x.spilled && !x.gone

/-- A slate checked out for its head item. -/
def Slate.checkOut (close : Bool) (x : Slate) : Slate := { x with out := true, shut := close, items := x.items.drop 1 }

/-- The slates among some checked out. -/
def Dormer.checkOut (d : Dormer) (close : Bool) (ids : List Nat) : Dormer :=
  { d with slates := d.slates.map fun x => if ids.contains x.id then x.checkOut close else x }

/-- The first of some wakes, and those after it of the same stream: a wake group serves one stream (R308, DEDUCED log 54). -/
def sameStream {α : Type} (stream : α → BitVec 16) : List α → List α
  | [] => []
  | x :: xs => x :: xs.filter fun y => stream y = stream x

/-- The open or late wakes that start: the lanes, and the Dormer after. -/
def readyWakes (d : Dormer) (kind : WakeKind) (n : Nat) : List LaneStart × Dormer :=
  let of (i : WakeItem) : BitVec 16 := (recId i.record).1
  let all := sameStream of (d.ready.filter fun i => i.kind = kind)
  let rest := d.ready.filter fun i => i.kind ≠ kind || !(all.any fun y => of y = of i)
  let lane (i : WakeItem) : LaneStart := match i.slate.bind d.slate? with
    | some x => slateLane x none none i.record
    | none => plainLane (of i) none i.record
  ((all.take n).map lane, { d with ready := rest ++ all.drop n })

/-- The resume wakes that start. -/
def resumeWakes (d : Dormer) (n : Nat) : List LaneStart × Dormer :=
  let mine := (sameStream (fun y => y.1.stream) (d.slates.filterMap fun x => match x.startable, x.items with
    | true, .resume r :: _ => some (x, r)
    | _, _ => none)).take n
  (mine.map fun x => slateLane x.1 none none x.2, d.checkOut false (mine.map fun x => x.1.id))

/-- The merge wakes that start: both slates are checked in (R300). -/
def mergeWakes (d : Dormer) (n : Nat) : List LaneStart × Dormer :=
  let mine := (sameStream (fun y => y.1.stream) (d.slates.filterMap fun x => match x.startable, x.items with
    | true, .merge p :: _ =>
      match d.slate? p with
      | some y => if y.out || y.spilled then none else some (x, some y)
      | none => some (x, none)
    | _, _ => none)).take n
  (mine.map fun x => slateLane x.1 x.2 none 0, d.checkOut false (mine.map fun x => x.1.id))

/-- The close wakes that start, but for kind 2. -/
def closeWakes (d : Dormer) (n : Nat) : List LaneStart × Dormer :=
  let mine := (sameStream Slate.stream
    ((closeOrder d.slates).filter fun x => x.startable && x.items.head? = some (.close none))).take n
  (mine.map fun x => slateLane x none none 0, d.checkOut true (mine.map Slate.id))

/-- The close of a kind-2 window that can start: every pane that waits for it is checked in with it at its head. -/
def readyWindow (d : Dormer) : Option ((BitVec 16 × Word) × Int) :=
  (d.closing.find? fun c => c.2.2.isNone && d.slates.all fun x =>
    !(x.waitsFor c.1 c.2.1) || (x.startable && x.items.head? = some (.close (some c.2.1)))).map fun c => (c.1, c.2.1)

/-- The lanes of a kind-2 close: pane j + i in lane i (R296), and the window for `WINFO.P` (R308). -/
def windowWakes (w : WinDesc) (d : Dormer) (k : BitVec 16 × Word) (j : Int) : List LaneStart × Dormer :=
  let mine := d.slates.filter fun x => x.waitsFor k j
  let info : SlateInfo :=
    { start := BitVec.ofInt 64 (j * w.slide), stop := BitVec.ofInt 64 (j * w.slide + w.size), key := k.2
      count := BitVec.ofNat 32 (min 0xFFFFFFFF ((mine.map fun x => x.count.toNat).sum)), flags := 0 }
  let lane (i : Nat) : LaneStart := match mine.find? fun x => x.start = (j + i) * w.slide with
    | some x => slateLane x none (some info) 0
    | none => plainLane k.1 (some info) 0
  ((List.range w.panes).map lane, d.checkOut true (mine.map Slate.id))

/-- The lanes of a wake of an entry point, and the Dormer once they have started. -/
def gatherWakes (w : WinDesc) (d : Dormer) (entry n : Nat) : WakeKind × Nat × List LaneStart × Dormer :=
  match entry with
  | 0 => (.open, w.openE, readyWakes d .open n)
  | 1 => (.resume, w.resumeE, resumeWakes d n)
  | 2 => (.merge, w.mergeE, mergeWakes d n)
  | 3 =>
    if w.kind = 2 then
      match readyWindow d with
      | some (k, j) => (.close, w.closeE, windowWakes w d k j)
      | none => (.close, w.closeE, [], d)
    else (.close, w.closeE, closeWakes d n)
  | _ => (.late, w.lateE, readyWakes d .late n)

/-- A window wake group of up to `count` items for an entry point (0 open, 1 resume, 2 merge, 3 close, 4 late). -/
def startWindow (s : State) (l : Launch) (core entry count : Nat) : Option State :=
  match l.block.win, s.dormer? core l.seq with
  | some w, some d =>
    let (kind, off, xs, d1) := gatherWakes w d entry (min count 128)
    if xs.isEmpty then none
    else
      let s1 := s.modDormer core l.seq fun _ _ => d1
      (startWake s1 l core kind off xs).map fun x =>
        match (if w.kind = 2 && entry = 3 then readyWindow d else none) with
        | some (k, j) => x.2.modDormer core l.seq fun _ d => { d with closing := d.closing.map fun c =>
            if c.1 = k && c.2.1 = j then (k, j, some x.1) else c }
        | none => x.2
  | _, _ => none

/-- The first node group of a launch that waits in the gatherer. -/
def startNode (s : State) (l : Launch) (core : Nat) : Option State :=
  let p := s.part l.part
  match p.nodeGroups.findIdx? fun g => g.launch = l.seq with
  | none => none
  | some i =>
    match p.nodeGroups[i]?, l.block.roles with
    | some g, r :: _ =>
      (startWake (s.setPart l.part { p with nodeGroups := p.nodeGroups.eraseIdx i }) l core .node r.offset
        (g.records.map (plainLane 0 none))).map Prod.snd
    | _, _ => none

/-- WAKE_START: entry points 0 to 4 of a window launch, or 5 for a node group (R51, R299, R323). -/
def execWakeStart (core launch entry count : Nat) (s : State) : Out :=
  match s.launch? launch with
  | none => .refused (.notEnabled "WAKE_START")
  | some l =>
    if l.state ≠ .eligible then .refused (.notEnabled "WAKE_START")
    else match (if entry = 5 then startNode s l core else startWindow s l core entry count) with
    | some s1 => .next s1
    | none => .refused (.notEnabled "WAKE_START")

/-! ### Node bins and quiescence (R325, R328) -/

/-- NODE_BIN_TIMER (R325). -/
def execNodeBinTimer (part bin : Nat) (s : State) : Out :=
  let p := s.part part
  match p.bin? bin with
  | none => .refused (.notEnabled "NODE_BIN_TIMER")
  | some b =>
    match b.records with
    | [] => .refused (.notEnabled "NODE_BIN_TIMER")
    | x :: _ =>
      if b.timer ≠ 0 && x.1 + b.timer ≤ s.gt then .next (s.setPart part (p.formNode b))
      else .refused (.notEnabled "NODE_BIN_TIMER")

/-- The node and window launches of a graph that end by quiescence; the id that names no counter names no graph (R318, R328). -/
def quiescentLaunches (s : State) (part counter : Nat) : List Launch :=
  s.launches.filter fun l =>
    l.part = part && l.block.quiesce && counter ≠ noCounter && l.block.graph = counter && l.standing && l.live

/-- A sample of a launch finds no work (R328). -/
def launchQuiet (s : State) (l : Launch) : Bool :=
  let p := s.part l.part
  !(p.bins.any fun b => b.launch = l.seq && !b.records.isEmpty)
    && !(p.nodeGroups.any fun g => g.launch = l.seq)
    && (dormersOf s l).all (fun d => d.ready.isEmpty && d.closing.isEmpty && d.slates.all fun x => x.items.isEmpty)
    && residentGroups s l = 0 && l.saved.all (fun x => x.2.crew.members.isEmpty)

/-- The clocks between two samples at least (R328), in twelfths of a nominal clock. -/
def sampleTicks : Nat := 1024 * 12

/-- Every stream and bin of a launch detached; one that never had any counts as detached too, so that it completes (R328). -/
def detachLaunch (s : State) (l : Launch) : State :=
  let p := s.part l.part
  let s1 := (p.bins.filter fun b => b.launch = l.seq).foldl (fun s b => detachBin s l.part b) s
  let s2 := (p.bindings.filter fun b => b.launch = l.seq).foldl (fun s b => detachStream s l.part b) s1
  s2.modLaunch l.seq fun l => { l with detached := true }

/-- QUIESCENCE_SAMPLE (R328): a second sample that agrees with a quiet first one detaches the graph's streams and bins. -/
def execQuiescenceSample (part counter : Nat) (s : State) : Out :=
  let ls := quiescentLaunches s part counter
  let p := s.part part
  let now : Sample :=
    { counter := counter, waited := 0, quiet := ls.all (launchQuiet s), posted := (ls.map Launch.posted).sum
      taken := (ls.map Launch.taken).sum }
  let keep := p.samples.filter fun x => x.counter ≠ counter
  let store : State := s.setPart part { p with samples := keep ++ [now] }
  if ls.isEmpty then .refused (.notEnabled "QUIESCENCE_SAMPLE")
  else match p.samples.find? fun x => x.counter = counter with
  | none => .next store
  | some old =>
    if old.waited < sampleTicks then .refused (.notEnabled "QUIESCENCE_SAMPLE")
    else if old.quiet && now.quiet && old.posted = now.posted && old.taken = now.taken && now.posted = now.taken then
      .next (ls.foldl detachLaunch (s.setPart part { p with samples := keep }))
    else .next store

end Sys2Proof.Machine
end

