-- ==== Sys2Proof/Machine/Crypto.lean ====
section
/-! DEFINITION. The algorithms of the security engine that R367 names: SHA-384 and SHA-256 (FIPS 180-4), ECDSA over P-384 (FIPS 186-4), LMS with its one-time signature (RFC 8554). The spec names them and states none of them: their definitions and byte encodings are those of the standards (PRESUMED log 16). -/

namespace Sys2Proof.Machine

open Sys2Proof

/-- A byte. -/
abbrev Byte := BitVec 8

/-- The value of big-endian bytes. -/
def natBE (bs : List Byte) : Nat := bs.foldl (fun x b => 256 * x + b.toNat) 0

/-- Big-endian bytes of a value. -/
def bytesBE (n x : Nat) : List Byte := (bytesLE n x).reverse

/-- `n` bytes of a message from byte `at` on. -/
def slice (bs : List Byte) (start n : Nat) : List Byte := (bs.drop start).take n

/-! ### SHA-2 -/

/-- The first 80 primes. -/
def primes : List Nat :=
  ((List.range 410).filter fun n => 2 ≤ n && (List.range n).all fun d => d < 2 || n % d ≠ 0).take 80

/-- The integer k-th root of n, one bit at a time from bit `bits - 1` down; `r` is what is already found. -/
def rootFrom (k n : Nat) : Nat → Nat → Nat
  | 0, r => r
  | b + 1, r => rootFrom k n b (if (r + 2 ^ b) ^ k ≤ n then r + 2 ^ b else r)

/-- The first `w` bits of the fraction of the k-th root of a prime. -/
def rootFraction (k w p : Nat) : BitVec w := BitVec.ofNat w (rootFrom k (p * 2 ^ (k * w)) (w + 5) 0)

/-- The widths and rotations of a SHA-2 function. -/
structure Sha where
  /-- Bits of a word. -/
  width : Nat
  /-- Rounds, one constant each. -/
  rounds : Nat
  /-- The rotations of the two sums of a round, and the two rotations and the shift of the schedule's two. -/
  sumA : Nat × Nat × Nat
  sumE : Nat × Nat × Nat
  early : Nat × Nat × Nat
  late : Nat × Nat × Nat
  /-- The eight primes whose square roots start the state, by their place in the order of the primes, and how many words
  of the state the digest has. -/
  first : Nat
  words : Nat

/-- SHA-256. -/
def sha256 : Sha := ⟨32, 64, (2, 13, 22), (6, 11, 25), (7, 18, 3), (17, 19, 10), 0, 8⟩

/-- SHA-384. -/
def sha384 : Sha := ⟨64, 80, (28, 34, 39), (14, 18, 41), (1, 8, 7), (19, 61, 6), 8, 6⟩

/-- The sum of a round: three rotations. -/
def shaSum {w : Nat} (r : Nat × Nat × Nat) (x : BitVec w) : BitVec w :=
  x.rotateRight r.1 ^^^ x.rotateRight r.2.1 ^^^ x.rotateRight r.2.2

/-- The function of the schedule: two rotations and a shift. -/
def shaMix {w : Nat} (r : Nat × Nat × Nat) (x : BitVec w) : BitVec w :=
  x.rotateRight r.1 ^^^ x.rotateRight r.2.1 ^^^ x >>> r.2.2

/-- The message schedule, newest word first: n further words after those given. -/
def Sha.schedule (v : Sha) : Nat → List (BitVec v.width) → List (BitVec v.width)
  | 0, ws => ws
  | n + 1, ws =>
    v.schedule n ((shaMix v.late (getAt 0 ws 1) + getAt 0 ws 6 + shaMix v.early (getAt 0 ws 14) + getAt 0 ws 15) :: ws)

/-- One round, with its constant and its word of the schedule. -/
def Sha.round (v : Sha) (x : List (BitVec v.width)) (k : BitVec v.width × BitVec v.width) : List (BitVec v.width) :=
  match x with
  | [a, b, c, d, e, f, g, h] =>
    let t := h + shaSum v.sumE e + ((e &&& f) ^^^ (~~~ e &&& g)) + k.1 + k.2
    [t + shaSum v.sumA a + ((a &&& b) ^^^ (a &&& c) ^^^ (b &&& c)), a, b, c, d + t, e, f, g]
  | _ => x

/-- The constants of the rounds: fractions of cube roots. -/
def Sha.constants (v : Sha) : List (BitVec v.width) := (primes.take v.rounds).map (rootFraction 3 v.width)

/-- The words of a block, newest first. -/
def Sha.block (v : Sha) (bs : List Byte) : List (BitVec v.width) :=
  ((List.range 16).map fun i => BitVec.ofNat v.width (natBE (slice bs (v.width / 8 * i) (v.width / 8)))).reverse

/-- One block added to the state. -/
def Sha.compress (v : Sha) (ks : List (BitVec v.width)) (x : List (BitVec v.width)) (bs : List Byte) : List (BitVec v.width) :=
  let ws := (v.schedule (v.rounds - 16) (v.block bs)).reverse
  ((ks.zip ws).foldl v.round x).zipWith (fun a b => a + b) x

/-- n blocks of a padded message added to the state. -/
def Sha.blocks (v : Sha) (ks : List (BitVec v.width)) : Nat → List (BitVec v.width) → List Byte → List (BitVec v.width)
  | 0, x, _ => x
  | n + 1, x, bs => v.blocks ks n (v.compress ks x (bs.take (2 * v.width))) (bs.drop (2 * v.width))

/-- A padded message: a bit 1, bits 0, and the length in bits as a number of two words. -/
def Sha.pad (v : Sha) (bs : List Byte) : List Byte :=
  let block := 2 * v.width
  let used := bs.length + 1 + v.width / 4
  bs ++ 0x80 :: List.replicate ((block - used % block) % block) 0 ++ bytesBE (v.width / 4) (8 * bs.length)

/-- The digest of a message, as bytes. -/
def Sha.digest (v : Sha) (bs : List Byte) : List Byte :=
  let m := v.pad bs
  let start := ((primes.drop v.first).take 8).map (rootFraction 2 v.width)
  ((v.blocks v.constants (m.length / (2 * v.width)) start m).take v.words).flatMap fun x => bytesBE (v.width / 8) x.toNat

/-- SHA-384 of a public key (R367). -/
def keyDigest (bs : List Byte) : BitVec 384 := BitVec.ofNat 384 (natBE (sha384.digest bs))

/-! ### ECDSA over P-384 -/

/-- The prime of the field. -/
def ecP : Nat := 2 ^ 384 - 2 ^ 128 - 2 ^ 96 + 2 ^ 32 - 1

/-- The constant of the curve y² = x³ - 3x + b. -/
def ecB : Nat := 0xb3312fa7e23ee7e4988e056be3f82d19181d9c6efe8141120314088f5013875ac656398d8a2ed19d2a85c8edd3ec2aef

/-- The order of the base point. -/
def ecN : Nat := 0xffffffffffffffffffffffffffffffffffffffffffffffffc7634d81f4372ddf581a0db248b0a77aecec196accc52973

/-- A point: `none` at infinity, else its coordinates. -/
abbrev EcPoint := Option (Nat × Nat)

/-- The base point. -/
def ecG : EcPoint := some
  (0xaa87ca22be8b05378eb1c71ef320ad746e1d3b628ba79b9859f741e082542a385502f25dbf55296c3a545e3872760ab7,
   0x3617de4a96262c6f5d9e98bf9292dc29f8f41dbd289a147ce9da3113b5f0b8c00a60b1ce1d7e819d7a431d7c90ea0e5f)

/-- A power modulo m, by the exponent's n low bits from the highest down; `r` is the power of the bits above them. -/
def powFrom (m b e : Nat) : Nat → Nat → Nat
  | 0, r => r
  | n + 1, r => powFrom m b e n (if e.testBit n then r * r % m * b % m else r * r % m)

/-- The inverse modulo a prime below 2^384. -/
def invMod (m x : Nat) : Nat := powFrom m (x % m) (m - 2) 384 1

/-- A difference modulo the prime of the field. -/
def ecSub (a b : Nat) : Nat := (a + (ecP - b % ecP)) % ecP

/-- The third point on a line of slope `k` through two points, mirrored. -/
def ecThird (k x1 y1 x2 : Nat) : Nat × Nat :=
  let x := ecSub (ecSub (k * k) x1) x2
  (x, ecSub (k * ecSub x1 x) y1)

/-- The sum of two points. -/
def ecAdd (p q : EcPoint) : EcPoint :=
  match p, q with
  | none, q => q
  | p, none => p
  | some (x1, y1), some (x2, y2) =>
    if x1 = x2 && (y1 + y2) % ecP = 0 then none
    else if x1 = x2 then some (ecThird (ecSub (3 * x1 * x1) 3 * invMod ecP (2 * y1) % ecP) x1 y1 x2)
    else some (ecThird (ecSub y2 y1 * invMod ecP (ecSub x2 x1) % ecP) x1 y1 x2)

/-- A multiple of a point, by the factor's n low bits from the highest down; `r` is the multiple by the bits above them. -/
def ecMulFrom (p : EcPoint) (k : Nat) : Nat → EcPoint → EcPoint
  | 0, r => r
  | n + 1, r => ecMulFrom p k n (if k.testBit n then ecAdd (ecAdd r r) p else ecAdd r r)

/-- A multiple of a point. -/
def ecMul (p : EcPoint) (k : Nat) : EcPoint := ecMulFrom p k 384 none

/-- A point of the curve. -/
def ecOnCurve (x y : Nat) : Bool :=
  x < ecP && y < ecP && y * y % ecP = (x * x * x + 3 * (ecP - x) + ecB) % ecP

/-- Bytes of a P-384 public key (x, y) and of its signature (r, s). -/
def ecKeyBytes : Nat := 96

/-- ECDSA P-384 over SHA-384: a signature (r, s) of a message verifies with a key (x, y); all big-endian. -/
def ecdsaVerify (key msg sig : List Byte) : Bool :=
  let x := natBE (slice key 0 48)
  let y := natBE (slice key 48 48)
  let r := natBE (slice sig 0 48)
  let s := natBE (slice sig 48 48)
  let w := invMod ecN s
  let e := natBE (sha384.digest msg)
  ecOnCurve x y && 0 < r && r < ecN && 0 < s && s < ecN
    && match ecAdd (ecMul ecG (e * w % ecN)) (ecMul (some (x, y)) (r * w % ecN)) with
      | none => false
      | some (v, _) => v % ecN = r

/-! ### LMS -/

/-- Bytes of an LMS public key: two type codes, identifier, root. -/
def lmsKeyBytes : Nat := 56

/-- Bytes of an LMS signature: leaf, one-time type code, randomizer, 67 chains, type code, a path of 10. -/
def lmsSigBytes : Nat := 4 + 4 + 32 + 67 * 32 + 4 + 10 * 32

/-- The typecodes of LMS_SHA256_M32_H10 and LMOTS_SHA256_N32_W4. -/
def lmsType : Nat := 6
/-- The one-time signature's. -/
def lmotsType : Nat := 3

/-- A digit of four bits of a string. -/
def lmsDigit (bs : List Byte) (i : Nat) : Nat :=
  let b := (getAt 0 bs (i / 2)).toNat
  if i % 2 = 0 then b / 16 else b % 16

/-- The checksum of a digest of 64 digits, shifted by 4 bits. -/
def lmsChecksum (q : List Byte) : Nat := 16 * ((List.range 64).map fun i => 15 - lmsDigit q i).sum

/-- The rest of a chain of the one-time signature: steps 15 - n to 14 of chain i, from a value on. -/
def lmsChain (pre : List Byte) (i : Nat) : Nat → List Byte → List Byte
  | 0, x => x
  | n + 1, x => lmsChain pre i n (sha256.digest (pre ++ bytesBE 2 i ++ bytesBE 1 (14 - n) ++ x))

/-- The one-time public key that a signature leads to, with `pre` the identifier and the leaf. -/
def lmotsKey (pre msg c : List Byte) (chains : List Byte) : List Byte :=
  let q := sha256.digest (pre ++ bytesBE 2 0x8181 ++ c ++ msg)
  let digits := q ++ bytesBE 2 (lmsChecksum q)
  sha256.digest (pre ++ bytesBE 2 0x8080 ++ (List.range 67).flatMap fun i =>
    lmsChain pre i (15 - lmsDigit digits i) (slice chains (32 * i) 32))

/-- The root that a node's value leads to along a path. -/
def lmsRoot (id : List Byte) (node : Nat) (x : List Byte) : List (List Byte) → List Byte
  | [] => x
  | p :: ps =>
    let pair := if node % 2 = 1 then p ++ x else x ++ p
    lmsRoot id (node / 2) (sha256.digest (id ++ bytesBE 4 (node / 2) ++ bytesBE 2 0x8383 ++ pair)) ps

/-- LMS: a signature of a message verifies with a key. -/
def lmsVerify (key msg sig : List Byte) : Bool :=
  let id := slice key 8 16
  let leaf := natBE (slice sig 0 4)
  let pre := id ++ slice sig 0 4
  let chains := slice sig 40 (67 * 32)
  let path := (List.range 10).map fun i => slice sig (44 + 67 * 32 + 32 * i) 32
  let node := 1024 + leaf
  let value := sha256.digest (id ++ bytesBE 4 node ++ bytesBE 2 0x8282 ++ lmotsKey pre msg (slice sig 8 32) chains)
  natBE (slice key 0 4) = lmsType && natBE (slice key 4 4) = lmotsType
    && natBE (slice sig 4 4) = lmotsType && natBE (slice sig (40 + 67 * 32) 4) = lmsType
    && leaf < 1024 && lmsRoot id node value path = slice key 24 32

/-! ### A firmware image's signatures (R367) -/

/-- Bytes of an image after its header and body: both keys and both signatures (the order PRESUMED log 16). -/
def trailBytes : Nat := ecKeyBytes + lmsKeyBytes + (ecKeyBytes + lmsSigBytes)

/-- Both signatures over the header and body verify with the keys that the image carries (R367). -/
def signaturesVerify (msg trail : List Byte) : Bool :=
  let ec := slice trail 0 ecKeyBytes
  let lms := slice trail ecKeyBytes lmsKeyBytes
  let sigs := trail.drop (ecKeyBytes + lmsKeyBytes)
  ecdsaVerify ec msg (slice sigs 0 ecKeyBytes) && lmsVerify lms msg (slice sigs ecKeyBytes lmsSigBytes)

end Sys2Proof.Machine
end

