-- ==== Sys2Proof/Machine/Fetch.lean ====
section
/-! DEFINITION. Fetching and issuing one instruction of a group (R79, R80, R97, R103, R124, R265), and the program slot that stands for a loaded program (DESIGN CHOICE log 6). `run` is the meaning of a decoded instruction. -/

namespace Sys2Proof.Machine

open Sys2Proof

/-- The opcodes a prefix is accepted in front of (R94). -/
def prefixable (op : Nat) : Bool :=
  (0x40 ≤ op && op ≤ 0x62) || (0x80 ≤ op && op ≤ 0x98) || (0xA0 ≤ op && op ≤ 0xAF) || (0xB0 ≤ op && op ≤ 0xB3)

/-- The code word a group fetches at an offset (R124). -/
def fetchWord (s : State) (g : Gid) (x : Group) (off : Word) : Option Word :=
  match s.crew? g.core g.slot with
  | none => none
  | some k => codeWord? s k.part x.codeBase x.codeSize off

/-- A group has fetched the code word at an offset: its line lies in the core's instruction cache (R16). -/
def State.fetched (s : State) (x : Group) (off : Word) : State :=
  match s.crew? s.cur.core s.cur.slot with
  | some k => s.fetchLine s.cur.core k.part x.codeBase off.toNat
  | none => s

/-- The trap of a reserved field (R103): a prefix whose pair is illegal takes trap 0x01 first. Of a prefix with a reserved
field whose base word lies beyond the code, R103 and R124 order neither trap first; the fetch's is taken (DESIGN CHOICE
log 45). -/
def reservedTrap (s : State) (x : Group) (w : Word) : State :=
  if opOf w = 0xFE then
    match fetchWord s s.cur x (x.pc + 4) with
    | none => takeTrap s 0x08 (x.pc + 4)
    | some b => if prefixable (opOf b) then takeTrap s 0x02 w else takeTrap s 0x01 b
  else takeTrap s 0x02 w

/-- Whether a group can issue now: it waits for nothing, and it runs, or is in the skid of its crew's halt (R249). -/
def canIssue (x : Group) : Bool :=
  x.wait == .none && (match x.halt with
    | .running => true
    | .halted spent final => !final && x.tskid.toNat < skidLimit && spent ≤ skidTime
    | _ => false)

/-- The issue of the base word of a prefix whose word has been accepted (R97). -/
def issueBase (run : Instr → State → Out) (s : State) (x : Group) : Out :=
  match fetchWord s s.cur x (x.pc + 4) with
  | none => .next (takeTrap s 0x08 (x.pc + 4))
  | some w =>
    let s1 := s.fetched x (x.pc + 4)
    match decode w with
    | .error _ => .next (takeTrap s1 0x02 w)
    | .ok i => run i s1

/-- A capability that the supervisor core wrote and that fails its check is replaced by zero (R170). -/
def capChecked (s : State) (part : Nat) (c : BitVec 128) : BitVec 128 :=
  let id := capObj c
  let named := id = 0 || match accWindow? id with
    | some n => (s.part part).cores.getLsbD n
    | none => !(entryMalformed (s.part part) (objEntry s part id))
  if capClean c && named then c else 0

/-- The checks of what the supervisor core wrote into a group, when the group next issues: the capabilities that it wrote,
and, where it wrote qm or qb, their pairs (R170, R215, R255). -/
def Group.checkWindow (s : State) (part : Nat) (g : Group) : Group :=
  if !g.windowed.isEmpty then
    let r := { g.regs with
      c := g.regs.c.zipIdx.map fun x => if g.windowed.contains (codeC x.2) then capChecked s part x.1 else x.1 }
    { g with windowed := [], regs := if g.windowed.contains codeQ then r.checkMod else r }
  else g

/-- One issue turn of a group that can issue: the single-step trap it owes, or the instruction at its pc. -/
def issueTurn (run : Instr → State → Out) (s0 : State) (g : Gid) (x : Group) : Out :=
  let s := { s0 with cur := g, pfx := none }
  match x.stepOwed with
  | some off => .next (takeTrapAt s g 0x41 x.pc off)
  | none =>
    if x.pc.toNat % 4 ≠ 0 then .next (takeTrap s 0x0A x.pc)
    else match fetchWord s g x x.pc with
      | none => run (.instructionFetchFault x.pc) s
      | some w =>
        let s1 := s.fetched x x.pc
        match decode w with
        | .error _ => .next (reservedTrap s1 x w)
        | .ok i =>
          match run i s1 with
          | .next s2 => if s2.pfx.isSome then issueBase run s2 x else .next s2
          | o => o

/-- An issue turn, where the group can take one; else nothing happens. -/
def tryIssue (run : Instr → State → Out) (s : State) (g : Gid) : Out :=
  match s.crew? g.core g.slot, s.group? g with
  | some k, some x =>
    if canIssue x then
      let y := x.checkWindow s k.part
      issueTurn run (if !x.windowed.isEmpty then s.setGroup g (some y) else s) g y
    else .next s
  | _, _ => .next s

/-! ### The program slot (DESIGN CHOICE log 6) -/

/-- The launch block of the program slot: one general role, one crew of one group with budget 128, 256 bytes of code at
HDM offset 0, 4,096 bytes of scratchpad. -/
def slotBlock : Block where
  kind := 0
  prio := 0
  roles := [⟨0, .general, 128, 1⟩]
  ringArr := [1, 1, 1, 1]
  crews := 1
  scratch := 4096
  accTiles := 0
  deadline := 1
  fifos := 0
  peers := 0
  bind := []
  capList := []
  code := 0
  codeSize := 256
  trapTab := 0
  graph := 0xFFFFFFFF
  phase := 0xFFFFFFFF
  job := 0xFFFFFFFF
  waits := []
  sigs := []
  self := 0xFFFFFFFF
  gridX := 0
  gridY := 0
  win := none
  saveOff := 0
  quiesce := false

/-- The launch of the program slot. -/
def slotLaunch (seq : Nat) : Launch where
  seq := seq
  part := 0
  ctx := 1
  block := slotBlock
  addr := 0
  state := .eligible
  waited := 0
  raised := 0
  placed := [0]
  places := [(0, 0, 0)]
  finished := []
  saved := []
  cursor := 0
  cores := []
  saveArea := 0
  saveBytes := 0
  detached := false
  cancelSelf := false
  drainAt := 0
  posted := 0
  taken := 0

/-- The group of the program slot. -/
def slotGroup : Group := { Group.start with budget := 128, codeSize := 256 }

/-- The crew of the program slot. -/
def slotCrew (seq : Nat) : Crew :=
  { Crew.start with
    launch := seq, ctx := 1, total := 1, groups := [some slotGroup]
    granules := (List.range 32).map fun i => 31 * 2048 + i
    barriers := List.replicate 16 (Barrier.start 1), rings := List.replicate 4 Ring.start
    objs := List.replicate 8 BarObj.start }

/-- A machine with a program placed on core 0, crew slot 0, group 0, where the state has no group there: partition 0 is
bound with core 0 and slice 0, enabled and served, and bank 31 of the core is in scratchpad mode. -/
def State.placeSlot (s : State) : State :=
  match s.group? ⟨0, 0, 0⟩ with
  | some _ => s
  | none =>
    let p := s.part 0
    let s1 := s.setPart 0 { p with bound := true, cores := p.cores ||| 1, slices := p.slices ||| 1, pctl := 0x41 }
    let c := s1.core 0
    let s2 := s1.setCore 0 { c with
      crews := setAt none c.crews 0 (some (slotCrew s.nextSeq))
      banks := setAt Bank.reset c.banks 31 ⟨.scratch, false, [], none⟩
      freeGranules := (List.range 2016).map fun i => 31 * 2048 + 32 + i }
    { s2 with launches := s2.launches ++ [slotLaunch s.nextSeq], nextSeq := s.nextSeq + 1 }

/-- The bytes of an instruction stored where a group fetches next; the longest instruction is a prefix and its base
word, 8 bytes. -/
def State.storeAtPc (s : State) (g : Gid) (nbits w : Nat) : State :=
  match s.crew? g.core g.slot, s.group? g with
  | some k, some x => s.writeHdm k.part (x.codeBase + x.pc.toNat) (bytesLE 8 (w % 2 ^ nbits))
  | _, _ => s

end Sys2Proof.Machine
end

