-- ==== Sys2Proof/Machine/EvHost.lean ====
section
/-! DEFINITION. What the supervisor core, the hosts and the debug node do: the escalation queue and the windows of the compute core (R252 to R255, R267), the HDM range (R350), the partition register block (R354 to R357, R365), the debug commands (R263, R264, R361) and the reset of a core (R362). -/

namespace Sys2Proof.Machine

open Sys2Proof

/-! ### The supervisor core (R252 to R255, R267) -/

/-- What the supervisor core's latest read returned. -/
def State.supRead (s : State) (core : Nat) (d : BitVec 128) : State := s.setCore core { s.core core with supData := d }

/-- An access of the supervisor core beyond its reach: a read gives zero, a write is dropped, and it is counted (R369). -/
def supOutside (s : State) (core : Nat) (write : Option (BitVec 32)) : State :=
  let s1 := s.setCore core { s.core core with supDropped := (s.core core).supDropped + 1 }
  match write with
  | none => s1.supRead core 0
  | some _ => s1

/-! ### The firmware memory (R354, R369) -/

/-- The firmware memory of the I/O die (R369). -/
def fwMemBytes : Nat := 33554432

/-- Where the mailbox windows begin in the firmware memory (DESIGN CHOICE log 43). -/
def mboxArea : Nat := fwMemBytes - 16 * 65536

/-- The place in the firmware memory of offset 0 of a partition's register block: its mailbox window begins at offset 0x1000
(R354, DESIGN CHOICE log 43). -/
def mboxBase (part : Nat) : Nat := mboxArea + 65536 * part

/-- The partition of a core. -/
def State.partOf (s : State) (core : Nat) : Option Nat := (List.range 16).find? fun p => (s.part p).cores.getLsbD core

/-- A byte of the firmware memory lies in a mailbox window (R354). -/
def mboxByte (off : Nat) : Bool := mboxArea ≤ off && 0x1000 ≤ (off - mboxArea) % 65536

/-- A word of the firmware memory that the supervisor core of a core reaches: its bytes lie outside the mailbox windows, or
in the window of the core's partition (R369). -/
def supReach (s : State) (core off : Nat) : Bool :=
  (List.range 4).all fun i =>
    off + i < fwMemBytes && (!(mboxByte (off + i)) || match s.partOf core with
      | some p => mboxBase p + 0x1000 ≤ off + i && off + i < mboxBase p + 0x10000
      | none => false)

/-- A word of the firmware memory written. -/
def State.writeFw (s : State) (off : Nat) (w : Word) : State :=
  { s with pkg := { s.pkg with fwMem := cellsWrite s.pkg.fwMem off (bytesLE 4 w.toNat) } }

/-- An access of a running supervisor core to the firmware memory (R369). -/
def supFw (s : State) (core off : Nat) (write : Option (BitVec 32)) : State :=
  if !(s.core core).supRunning then s
  else if !(supReach s core off) then supOutside s core write
  else match write with
    | some w => s.writeFw off w
    | none => s.supRead core (BitVec.ofNat 128 (cellsNat s.pkg.fwMem off 4))

/-- An access of the running package controller to the firmware memory, the mailbox windows among it; any other address
reads zero, drops its write and is counted (R369). -/
def pkgFw (s : State) (off : Nat) (write : Option (BitVec 32)) : State :=
  let p := s.pkg
  if p.fwImage.isNone then s
  else if fwMemBytes < off + 4 then
    { s with pkg := { p with dropped := p.dropped + 1, fwData := if write.isNone then 0 else p.fwData } }
  else match write with
    | some w => s.writeFw off w
    | none => { s with pkg := { p with fwData := BitVec.ofNat 32 (cellsNat p.fwMem off 4) } }

/-- ESC_QUEUE_POP (R253). -/
def execEscQueuePop (core : Nat) (s : State) : Out :=
  let c := s.core core
  if !c.supRunning then .refused (.notEnabled "ESC_QUEUE_POP")
  else match c.escQueue with
  | [] => .next (s.supRead core 0)
  | e :: es => .next (s.setCore core { c with
      escQueue := es, escTaken := c.escTaken ++ [e], escTop := some (e.gid core), supData := e.bits })

/-- ESC_COMPLETION: the entry of the group is completed and the group resumes, or takes the trap that a result has raised
meanwhile; a write that names no waiting group, or sets a reserved bit, is ignored (R253). -/
def execEscCompletion (core : Nat) (val : BitVec 64) (s : State) : Out :=
  let c := s.core core
  if !c.supRunning then .refused (.notEnabled "ESC_COMPLETION")
  else
    let gid : Gid := ⟨core, bitsOf val.toNat 7 4, bitsOf val.toNat 3 0⟩
    match s.group? gid with
    | none => .next s
    | some g =>
      if bitsOf val.toNat 63 8 ≠ 0 || !g.wait.escalated then .next s
      else
        let s1 := s.setCore core { c with
          escQueue := c.escQueue.filter fun e => e.gid core ≠ gid
          escTaken := c.escTaken.filter fun e => e.gid core ≠ gid }
        match g.wait with
        | .esc (some (c, t, v)) => .next (takeTrapAt (s1.setGroup gid (some { g with wait := .none })) gid c t v)
        | .doubleFault (some (c, t, v)) => .next (takeTrapAt (s1.setGroup gid (some { g with wait := .none })) gid c t v)
        | _ => .next (s1.setGroup gid (some { g with wait := g.drainWait }))

/-- SUPERVISOR_EVENT_POST (R253, R360): CTX is that of the crew which stands, at the time of the post, in the slot that the
popped entry names, or 0 (DESIGN CHOICE log 52: R253 says only that the device fills it). -/
def execSupervisorEventPost (core : Nat) (data : BitVec 128) (s : State) : Out :=
  let c := s.core core
  if !c.supRunning then .refused (.notEnabled "SUPERVISOR_EVENT_POST")
  else
    let x := data.toNat
    let gid := c.escTop.getD ⟨core, 0, 0⟩
    let ctx := match (if c.escTop.isSome then s.crew? core gid.slot else none) with
      | some k => k.ctx.toNat
      | none => 0
    match s.partOf core with
    | none => .next s
    | some p => .next (s.postEvent p
        { kind := 14, core := core, slot := gid.slot, grp := gid.grp, ctx := ctx
          tpc := bitsOf x 127 96, tval := bitsOf x 95 64, info := bitsOf x 63 0 })

/-- A group whose window is open: halted with its skid done, waiting in `ESC` or a double fault, stopped by the debug node
or for a save, or parked (R255). -/
def windowOpen (g : Group) : Bool :=
  g.parked || g.wait.escalated || match g.halt with
    | .running => false
    | .halted _ _ => !(canIssue g)
    | _ => true

/-- The numbers of the system registers that R136 lists, up to 0x03F. -/
def sysListed (n : Nat) : Bool :=
  n ≤ 0x014 || (0x020 ≤ n && n ≤ 0x024) || n = 0x028 || (0x030 ≤ n && n ≤ 0x033)

/-- The state's code at 0x610: 0 for normal (R254), 1 for user and 2 for core handler state (DESIGN CHOICE log 52). -/
def GState.code : GState → Nat
  | .normal => 0
  | .user => 1
  | .core => 2

/-- Entry e of the reconvergence stack, the oldest first (R254). -/
def Group.entry? (g : Group) (e : Nat) : Option StackEntry := g.stack.reverse[e]?

/-- Word j of a stack entry's 32 bytes: kind, PC, mask, MW (R254). -/
def StackEntry.word (x : StackEntry) (j : Nat) : Word :=
  match j with
  | 0 => if x.path then 1 else 0
  | 1 => x.pc
  | 2 => maskWord x.mask 0
  | 3 => maskWord x.mask 1
  | 4 => maskWord x.mask 2
  | 5 => maskWord x.mask 3
  | 6 => x.mw
  | _ => 0

/-- A stack entry with word j replaced; a reserved value of MW is dropped, so that MW never comes to hold one (R92). -/
def StackEntry.setWord (x : StackEntry) (j : Nat) (v : Word) : StackEntry :=
  match j with
  | 0 => { x with path := v.getLsbD 0 }
  | 1 => { x with pc := v }
  | 6 => if mwReserved v then x else { x with mw := v }
  | _ => if 2 ≤ j && j ≤ 5 then { x with mask := maskSetWord x.mask (j - 2) v } else x

/-- Word j of a value of 32-bit words, lowest first. -/
def wordOf (x j : Nat) : Word := BitVec.ofNat 32 (x / 2 ^ (32 * j))

/-- A value with word j replaced. -/
def setWordOf (x j : Nat) (v : Word) : Nat := x - x / 2 ^ (32 * j) % 2 ^ 32 * 2 ^ (32 * j) + v.toNat * 2 ^ (32 * j)

/-- The word at byte o of a group window (R254). A stack entry at or beyond the depth reads 0 (DESIGN CHOICE log 17). -/
def windowRead (s : State) (core : Nat) (k : Crew) (g : Group) (o : Nat) : Word :=
  if o < 0x10000 then (if o / 512 < g.budget then g.regs.readV (o / 512) (o % 512 / 4) else 0)
  else if o < 0x10100 then g.regs.readS ((o - 0x10000) / 4)
  else if o < 0x10280 then maskWord (g.regs.readP ((o - 0x10100) / 16)) (o % 16 / 4)
  else if o < 0x10400 then 0
  else if o < 0x10500 then wordOf (getAt 0 g.regs.c ((o - 0x10400) / 16)).toNat (o % 16 / 4)
  else if o < 0x10600 then (if sysListed ((o - 0x10500) / 4) then sysRead s core k g ((o - 0x10500) / 4) else 0)
  else if o < 0x10610 then maskWord g.regs.xm (o % 16 / 4)
  else if o = 0x10610 then
    BitVec.ofNat 32 (g.state.code + g.ps.code * 4 + g.regs.cc * 16 + g.stack.length * 2 ^ 8 + g.cstat.toNat * 2 ^ 16)
  else if o = 0x10614 then g.pc
  else if o < 0x10800 then 0
  else if o < 0x10C00 then
    (match g.entry? ((o - 0x10800) / 32) with | some x => x.word (o % 32 / 4) | none => 0)
  else if o < 0x11000 then 0
  else if o < 0x11800 then
    (let l := (o - 0x11000) / 16
     if o % 16 < 8 then wordOf (laneGet64 g.regs.qm l).toNat (o % 8 / 4) else wordOf (laneGet64 g.regs.qb l).toNat (o % 8 / 4))
  else if o < 0x11C00 then wordOf (laneGet64 g.regs.w ((o - 0x11800) / 8)).toNat (o % 8 / 4)
  else if o < 0x11C10 then maskWord g.regs.wv (o % 16 / 4)
  else 0

/-- A 64-bit lane value with word j replaced. -/
def setLaneWord (xs : List DWord) (l j : Nat) (v : Word) : List DWord :=
  setAt 0 xs l (BitVec.ofNat 64 (setWordOf (laneGet64 xs l).toNat j v))

/-- The registers after a write of a word at byte o of the window, but for system registers, PC and the stack (R254). -/
def Regs.windowWrite (r : Regs) (budget o : Nat) (v : Word) : Regs :=
  if o < 0x10000 then
    (if o / 512 < budget then r.writeV (o / 512) (BitVec.ofNat 128 (2 ^ (o % 512 / 4))) (fun _ => v) else r)
  else if o < 0x10100 then r.writeS ((o - 0x10000) / 4) v
  else if o < 0x10280 then
    (let n := (o - 0x10100) / 16
     { r with p := setAt 0 r.p n (maskSetWord (r.readP n) (o % 16 / 4) v) })
  else if o < 0x10400 then r
  else if o < 0x10500 then
    (let n := (o - 0x10400) / 16
     { r with c := setAt 0 r.c n (BitVec.ofNat 128 (setWordOf (getAt 0 r.c n).toNat (o % 16 / 4) v)) })
  else if o < 0x10600 then r
  else if o < 0x10610 then
    (let xm := maskSetWord r.xm (o % 16 / 4) v
     { r with xm := xm, act := r.act &&& ~~~ xm })
  else if o < 0x11000 then r
  else if o < 0x11800 then
    (let l := (o - 0x11000) / 16
     if o % 16 < 8 then { r with qm := setLaneWord r.qm l (o % 8 / 4) v } else { r with qb := setLaneWord r.qb l (o % 8 / 4) v })
  else if o < 0x11C00 then { r with w := setLaneWord r.w ((o - 0x11800) / 8) (o % 8 / 4) v }
  else if o < 0x11C10 then { r with wv := maskSetWord r.wv (o % 16 / 4) v }
  else r

/-- The codes of the registers at byte o of a window whose content is checked when the group next issues: capabilities, and
qm and qb (R170, R215). -/
def windowCode (o : Nat) : List Nat :=
  if 0x10400 ≤ o && o < 0x10500 then [codeC ((o - 0x10400) / 16)]
  else if 0x11000 ≤ o && o < 0x11800 then [codeQ]
  else []

/-- A group stands in a double fault (R247). -/
def Wait.faulted : Wait → Bool
  | .doubleFault _ => true
  | _ => false

/-- The group after a write of a word at byte o of its window (R254, R255): PC only in a double fault or a debugger stop,
a system register as R136 allows in core handler state; a write of a system register with a reserved bit set is dropped
whole, and so is one of a stack entry at or beyond the depth (DESIGN CHOICE log 17). -/
def Group.windowWrite (g : Group) (o : Nat) (v : Word) : Group :=
  if 0x10500 ≤ o && o < 0x10600 then
    (let n := (o - 0x10500) / 4
     if sysListed n && (sysAccess n).isSome && !(sysReserved n v) then sysWrite g n v else g)
  else if o = 0x10614 then (if g.wait.faulted || g.halt = .debug then { g with pc := v } else g)
  else if 0x10800 ≤ o && o < 0x10C00 then
    (let e := (o - 0x10800) / 32
     match g.entry? e with
     | some x => { g with stack := (setAt x g.stack.reverse e (x.setWord (o % 32 / 4) v)).reverse }
     | none => g)
  else { g with regs := g.regs.windowWrite g.budget o v, windowed := windowCode o ++ g.windowed }

/-- GROUP_WINDOW_ACCESS (R253 to R255): of a stopped group, once its results are written; of any other, a read gives zero
and a write is dropped. -/
def execGroupWindowAccess (core off : Nat) (write : Option (BitVec 32)) (s : State) : Out :=
  if !(s.core core).supRunning then .refused (.notEnabled "GROUP_WINDOW_ACCESS")
  else if 0x2000000 ≤ off then .next (supOutside s core write)
  else
    let slot := off / 0x200000
    let gid : Gid := ⟨core, slot, off / 0x20000 % 16⟩
    let o := off % 0x20000 / 4 * 4
    let shut := match write with
      | none => s.supRead core 0
      | some _ => s
    match s.crew? core slot, s.group? gid with
    | some k, some g =>
      if !(windowOpen g) then .next shut
      else if !g.outst.isEmpty then .refused (.notEnabled "GROUP_WINDOW_ACCESS")
      else
        let g1 := g.drain
        match write with
        | none => .next ((s.setGroup gid (some g1)).supRead core ((windowRead s core k g1 o).zeroExtend 128))
        | some v =>
          if 0x105C0 ≤ o && o < 0x105D0 then
            let r := (o - 0x105C0) / 4
            if regionBusy (s.core core) r then .refused (.notEnabled "GROUP_WINDOW_ACCESS")
            else .next ((s.setGroup gid (some g1)).setCore core
              (setOwner ((s.setGroup gid (some g1)).core core) r v))
          else .next (s.setGroup gid (some (g1.windowWrite o v)))
    | _, _ => .next shut

/-- The supervisor core stops on poisoned data: the core is fenced, every crew on it halts, and no handler is entered;
groups that wait in `ESC` stay waiting (R267, DEDUCED log 37). -/
def supervisorError (s : State) (core line : Nat) : State :=
  let c := s.core core
  let served := c.escTop.bind fun g => match s.group? g with
    | some x => if x.wait.escalated then some g else none
    | none => none
  let g := served.getD ⟨core, 0, 0⟩
  let ctx := match served.bind fun g => s.crew? core g.slot with | some k => k.ctx.toNat | none => 0
  let e : Event := { kind := 9, core := core, slot := g.slot, grp := g.grp, ctx := ctx, info := 128 * line }
  let s1 := (s.setCore core { c with supRunning := false }).fence core none
  let s2 := match (List.range 16).find? fun p => (s.part p).cores.getLsbD core with
    | some p => s1.postEvent p e
    | none => s1
  s2.packageEvent e

/-- SUPERVISOR_CORE_ERROR (R267). -/
def execSupervisorCoreError (core line : Nat) (s : State) : Out :=
  if (s.core core).supRunning then .next (supervisorError s core line)
  else .refused (.notEnabled "SUPERVISOR_CORE_ERROR")

/-- SCRATCHPAD_WINDOW_ACCESS (R253): 8 MiB for each slot; beyond the allocation a read gives zero and a write is dropped. A
read of a poisoned granule stops the supervisor core (R267). -/
def execScratchpadWindowAccess (core off : Nat) (write : Option (BitVec 32)) (s : State) : Out :=
  if !(s.core core).supRunning then .refused (.notEnabled "SCRATCHPAD_WINDOW_ACCESS")
  else if 0x8000000 ≤ off then .next (supOutside s core write)
  else
    let o := off % 0x800000 / 4 * 4
    let c := s.core core
    match s.crew? core (off / 0x800000) with
    | none => .next (match write with | none => s.supRead core 0 | some _ => s)
    | some k =>
      if scratchBytes k.granules ≤ o then .next (match write with | none => s.supRead core 0 | some _ => s)
      else match write with
        | none =>
          match scratchPoison s core k.granules o 4 with
          | some line => .next (supervisorError s core line)
          | none => .next (s.supRead core ((scratchWord c k.granules o).zeroExtend 128))
        | some v => .next (s.setCore core (scratchWriteWord c k.granules o v))

/-! ### The HDM range (R350, R370) -/

/-- HOST_HDM_ACCESS: a byte of the range; at or beyond its size, and where the line is poisoned, a read is answered with
poisoned data, and AER reports it (R350, R370). A write may meet waits on a counter (R333). -/
def execHostHdmAccess (part off : Nat) (write : Option (BitVec 8)) (s : State) : Out :=
  let p := s.part part
  let aer (s : State) : State := { s with pkg := { s.pkg with aer := s.pkg.aer + 1 } }
  let poisoned (s : State) : State :=
    aer { s with hostData := freeByte s.free, free := s.free + 1, hostPoison := true }
  if p.hdmSize ≤ off then
    match write with
    | none => .next (poisoned s)
    | some _ => .next (aer s)
  else
    let a := hdmAddr p off
    match write with
    | none =>
      if s.poison.contains (lineOf a) then .next (poisoned s)
      else .next { s with hostData := cellGet s.mem a, hostPoison := false }
    | some b => .next (wakeCounters ({ s with mem := cellSet s.mem a b }.newVer a 1) part)

/-! ### The register block (R354 to R357, R365) -/

/-- PSNOW (R354): the state in effect on each stack, and whether a clamp is active. -/
def psNow (s : State) : Nat :=
  ((List.range 4).map fun k =>
    ((s.die k).pstate + (if (s.die k).clamp ≠ 0 then 8 else 0)) * 16 ^ k).sum

/-- What a register of the block reads as (R354). -/
def readReg (s : State) (part off : Nat) : DWord :=
  let p := s.part part
  match off with
  | 0x0000 => 0x00010000
  | 0x0008 => p.pctl
  | 0x0010 => p.pasidr
  | 0x0018 => p.cores.zeroExtend 64
  | 0x0020 => p.slices.extractLsb' 0 64
  | 0x0028 => p.slices.extractLsb' 64 64
  | 0x0030 => p.slices.extractLsb' 128 64
  | 0x0040 => p.otbase
  | 0x0048 => p.otsize
  | 0x0050 => p.otinv
  | 0x0058 => p.cnt
  | 0x0060 => p.cthbase
  | 0x0068 => p.cthsize
  | 0x0070 => p.eqbase
  | 0x0078 => p.eqhead ++ p.eqtail
  | 0x0080 => p.eqlost
  | 0x0088 => p.sprc
  | 0x0090 => p.ecc
  | 0x0098 => p.scrub
  | 0x00A0 => p.psreq
  | 0x00A8 => BitVec.ofNat 64 (psNow s)
  | 0x00B0 => p.dbgcmd
  | 0x00B8 => p.dbgstat
  | 0x00C0 => p.fwload
  | 0x00C8 => p.corerst
  | _ => if 0x1000 ≤ off && off < 0x10000 then BitVec.ofNat 64 (cellsNat s.pkg.fwMem (mboxBase part + off) 8) else 0

/-- Bit 63 of a register that starts an action (R354). -/
def startBit : DWord := 0x8000000000000000

/-- OTINV written (R356): cached copies of the entry are dropped, so that later accesses use the new one. A write while
one is at work is ignored. -/
def writeOtinv (s : State) (part : Nat) (val : DWord) : State :=
  let p := s.part part
  if p.otinv.getLsbD 63 then s
  else
    let id := bitsOf val.toNat 23 0
    s.setPart part { p with
      otinv := val &&& (startBit ||| 0xFFFFFF)
      entryCache := if val.getLsbD 63 then p.entryCache.filter (fun x => x.1 ≠ id) else p.entryCache }

/-- OTINV (R356). -/
def execOtinv (part : Nat) (val : BitVec 64) (s : State) : Out := .next (writeOtinv s part val)

/-- OTINV_DONE (R356): OTINV[63] reads 0. -/
def execOtinvDone (part : Nat) (s : State) : Out :=
  let p := s.part part
  if p.otinv.getLsbD 63 then
    .next (s.setPart part { p with
      otinv := p.otinv &&& ~~~ startBit
      entryCache := p.entryCache.filter fun x => x.1 ≠ bitsOf p.otinv.toNat 23 0 })
  else .refused (.notEnabled "OTINV_DONE")

/-- SCRUB written (R365): a slice of another partition, and a write while a zeroing is at work, start nothing. -/
def writeScrub (s : State) (part : Nat) (val : DWord) : State :=
  let p := s.part part
  if p.scrub.getLsbD 63 then s
  else if val.getLsbD 63 && !(p.slices.getLsbD (bitsOf val.toNat 7 0)) then
    s.setPart part { p with scrub := val &&& ~~~ startBit }
  else s.setPart part { p with scrub := val }

/-- SCRUB (R365). -/
def execScrub (part : Nat) (val : BitVec 64) (s : State) : Out := .next (writeScrub s part val)

/-- Bytes of a slice zeroed at the home: poison goes, and host copies of the lines are back-invalidated first (R350, R365). -/
def zeroRange (s : State) (slice loc n : Nat) : State :=
  let first := lineOf (devAddr slice loc)
  let keep (line : Nat) : Bool := !(first ≤ line && line < first + n / 128)
  { s with
    mem := cellsClear s.mem (devAddr slice loc) n, poison := s.poison.filter keep
    hostCopies := s.hostCopies.filter keep }.newVer (devAddr slice loc) n

/-- A command of the running package controller to the scrub engine: a range of a slice, in lines, is zeroed at the home
(R369); what its port looks like is not given (DESIGN CHOICE log 43). A range beyond the slices is counted as outside its
reach. -/
def pkgScrub (s : State) (slice loc n : Nat) : State :=
  if s.pkg.fwImage.isNone then s
  else if 192 ≤ slice || sliceBytes < 128 * (loc + n) then { s with pkg := { s.pkg with dropped := s.pkg.dropped + 1 } }
  else zeroRange s slice (128 * loc) (128 * n)

/-- SCRUB_DONE (R365): the range is zero, and SCRUB[63] reads 0. A slice that is the partition's no more is left alone. -/
def execScrubDone (part : Nat) (s : State) : Out :=
  let p := s.part part
  if p.scrub.getLsbD 63 then
    let x := p.scrub.toNat
    let loc := 128 * bitsOf x 39 8
    let n := min (128 * bitsOf x 62 40) (sliceBytes - loc)
    let s1 := s.setPart part { p with scrub := p.scrub &&& ~~~ startBit }
    .next (if p.slices.getLsbD (bitsOf x 7 0) then zeroRange s1 (bitsOf x 7 0) loc n else s1)
  else .refused (.notEnabled "SCRUB_DONE")

/-- PSREQ written: the reserved bits read zero (R354). -/
def writePsreq (s : State) (part : Nat) (val : DWord) : State :=
  s.setPart part { s.part part with psreq := val &&& 0x7777 }

/-- PSREQ_WRITE (R371). -/
def execPsreqWrite (part : Nat) (val : BitVec 64) (s : State) : Out := .next (writePsreq s part val)

/-- FWLOAD written (R368): a write while a load is at work is ignored. -/
def writeFwload (s : State) (part : Nat) (val : DWord) : State :=
  let p := s.part part
  if p.loading then s else s.setPart part { p with fwload := val &&& 0x0000FFFFFFFFFF8F, loading := true }

/-- FWLOAD (R368). -/
def execFwload (part : Nat) (val : BitVec 64) (s : State) : Out := .next (writeFwload s part val)

/-! ### The reset of a core (R362) -/

/-- The supervisor core of a core runs an image from its entry offset, or none. -/
def Core.runImage (c : Core) (image : Option Nat) : Core := { c with supRunning := image.isSome, supEntry := image.getD 0 }

/-- The supervisor core of a core restarts: the new firmware finds in the escalation queue the entry of every group that
waits, one that the old firmware had read among them (R368). -/
def State.restartSup (s : State) (core : Nat) (image : Option Nat) : State :=
  let c := s.core core
  let open' := c.escTaken.filter fun e => match s.group? (e.gid core) with
    | some g => g.wait.escalated
    | none => false
  s.setCore core ({ c with escQueue := open' ++ c.escQueue, escTaken := [] }.runImage image)

/-- The first line of a core's accumulator window (R287). -/
def accLine (core : Nat) : Nat := lineOf (accBase + core * 2 ^ 20)

/-- The poison of a core's SRAM and of its accumulator window is gone with their contents (R362, R364). -/
def State.clearGranules (s : State) (core : Nat) : State :=
  { s with poison := s.poison.filter fun l =>
      !(sramLine core 0 ≤ l && l < sramLine (core + 1) 0) && !(accLine core ≤ l && l < accLine (core + 1)) }

/-- A core in reset state (R20, R364): a load of it that is still in flight installs nothing any more. -/
def resetCore (s : State) (core : Nat) (image : Option Nat) : State :=
  let old (m : LoadMsg) : LoadMsg := if m.gid.core = core then { m with leftCache := none } else m
  ({ s with loads := s.loads.map old }.clearGranules core).setCore core (Core.reset.runImage image)

/-- A crew is resident on a core, or a window or node launch that has not completed has it as a partition core (R362,
R363). -/
def coreBusy (s : State) (core : Nat) : Bool :=
  ((s.core core).crews.any Option.isSome) || s.launches.any fun l => l.live && l.cores.contains core

/-- CORERST written (R362): with [63] = 1 the core is reset, or the status says why not. -/
def writeCorerst (s : State) (part : Nat) (val : DWord) : State :=
  let p := s.part part
  let core := bitsOf val.toNat 5 0
  let answer (status : Nat) (s : State) : State :=
    s.setPart part { s.part part with corerst := BitVec.ofNat 64 (core + status * 2 ^ 61) }
  if !(val.getLsbD 63) then s
  else if !(p.cores.getLsbD core) then answer 1 s
  else if coreBusy s core then answer 2 s
  else answer 0 (resetCore s core p.supImage)

/-- CORERST (R362). -/
def execCorerst (part : Nat) (val : BitVec 64) (s : State) : Out := .next (writeCorerst s part val)

/-! ### Debug commands (R263, R264, R361) -/

/-- DBGCMD of a command's fields (R361). -/
def dbgWord (cmd core slot grp : Nat) : DWord :=
  BitVec.ofNat 64 (cmd % 16 + core % 64 * 2 ^ 4 + slot % 16 * 2 ^ 10 + grp % 16 * 2 ^ 14)

/-- The command in DBGCMD completes with a status (R361). -/
def dbgEnd (s : State) (part status : Nat) : State :=
  s.setPart part { s.part part with dbgstat := BitVec.ofNat 64 (status * 2), debugWait := none }

/-- A group that the node stopped goes on; in a held crew it joins the halt (R250, R263). -/
def Group.debugResume (held : Bool) (g : Group) : Group :=
  if g.halt = .debug then
    { g with halt := if held && !g.handling then .halted 0 true else .running }
  else g

/-- A crew that the node resumes. -/
def Crew.debugResume (k : Crew) : Crew :=
  let held := k.inHandler
  Crew.resumeIfFree { k with groups := k.groups.map fun o => o.map (Group.debugResume held) }

/-- A stop of the node: the whole crew, or the group named while the others halt as under R249 (R263); it completes under
R264. A group named that is absent halts the crew and the command ends with status 0 (DESIGN CHOICE log 52). -/
def dbgStop (s : State) (part core slot : Nat) (k : Crew) (grp : Option Nat) : State :=
  let k1 := match grp with
    | none => k.debugStop
    | some i => { k.haltOthers i with
        groups := (List.range 16).map fun j =>
          if j = i then (getAt none k.groups i).map Group.debugStop else getAt none (k.haltOthers i).groups j }
  let s0 := match grp with
    | none => s.loseCrewPages core slot k
    | some i => s.losePages k.part ⟨core, slot, i⟩ .saved
  let s1 := s0.setCrew core slot (some k1)
  let groups := match grp with
    | none => k.members.map Prod.fst
    | some i => [i]
  s1.setPart part { s1.part part with dbgstat := 1, debugWait := some (core, slot, groups) }

/-- DBGCMD written (R361): ignored while a command is at work. STEP takes a group that the node stopped, and no other that is
halted, parked or escalated (DESIGN CHOICE log 52: R263 does not say which of them it calls stopped). -/
def writeDbgcmd (s : State) (part : Nat) (val : DWord) : State :=
  let p := s.part part
  if p.dbgstat.getLsbD 0 then s
  else
    let x := val.toNat
    let cmd := bitsOf x 3 0
    let core := bitsOf x 9 4
    let slot := bitsOf x 13 10
    let grp := bitsOf x 17 14
    let s1 := s.setPart part { p with dbgcmd := val }
    if cmd = 0 || 6 < cmd || !(p.cores.getLsbD core) then dbgEnd s1 part 1
    else match s1.crew? core slot with
    | none => dbgEnd s1 part 2
    | some k =>
      match cmd with
      | 1 => dbgEnd (s1.setCrew core slot (some { k with attached := true })) part 0
      | 2 => dbgEnd (s1.setCrew core slot (some { k with attached := false })) part 0
      | 3 => dbgStop s1 part core slot k none
      | 4 => dbgStop s1 part core slot k (some grp)
      | 5 => dbgEnd (s1.setCrew core slot (some k.debugResume)) part 0
      | _ =>
        match getAt none k.groups grp with
        | some g =>
          if g.halt = .debug then
            dbgEnd (s1.setGroup ⟨core, slot, grp⟩ (some { g with sstep := true, halt := .running })) part 0
          else dbgEnd s1 part 3
        | none => dbgEnd s1 part 3

/-- DBG_ATTACH (R263). -/
def execDbgAttach (part core slot : Nat) (s : State) : Out := .next (writeDbgcmd s part (dbgWord 1 core slot 0))

/-- DBG_DETACH (R263). -/
def execDbgDetach (part core slot : Nat) (s : State) : Out := .next (writeDbgcmd s part (dbgWord 2 core slot 0))

/-- DBG_STOP (R263). -/
def execDbgStop (part core slot : Nat) (s : State) : Out := .next (writeDbgcmd s part (dbgWord 3 core slot 0))

/-- DBG_STOP_GROUP (R263). -/
def execDbgStopGroup (part core slot grp : Nat) (s : State) : Out :=
  .next (writeDbgcmd s part (dbgWord 4 core slot grp))

/-- DBG_RESUME (R263). -/
def execDbgResume (part core slot : Nat) (s : State) : Out := .next (writeDbgcmd s part (dbgWord 5 core slot 0))

/-- DBG_STEP (R263). -/
def execDbgStep (part core slot grp : Nat) (s : State) : Out := .next (writeDbgcmd s part (dbgWord 6 core slot grp))

/-- DEBUG_STOP_COMPLETE: every result of the stopped groups is written (R86, R264). -/
def execDebugStopComplete (part : Nat) (s : State) : Out :=
  match (s.part part).debugWait with
  | none => .refused (.notEnabled "DEBUG_STOP_COMPLETE")
  | some (core, slot, groups) =>
    if groups.any fun i => match s.group? ⟨core, slot, i⟩ with | some g => !g.outst.isEmpty | none => false then
      .refused (.notEnabled "DEBUG_STOP_COMPLETE")
    else .next (dbgEnd (groups.foldl (fun s i => s.modGroup ⟨core, slot, i⟩ Group.drain) s) part 0)

/-! ### Writes of the register block (R354) -/

/-- PCTL written (R355): its reserved bits read zero; with SCHED set, placement runs. -/
def writePctl (s : State) (part : Nat) (val : DWord) : State :=
  let s1 := s.setPart part { s.part part with pctl := val &&& 0xC1 }
  placementPass (servePages s1) part

/-- A write of a register of the block, by its offset (R354): read-only registers and offsets that the table does not list
ignore it. -/
def writeReg (s : State) (part off : Nat) (val : DWord) : State :=
  let p := s.part part
  match off with
  | 0x0008 => writePctl s part val
  | 0x0010 => if bitOf p.pctl.toNat 0 then s else s.setPart part { p with pasidr := val &&& 0xFFFFF }
  | 0x0040 => s.setPart part { p with otbase := val &&& ~~~ 0xFFF }
  | 0x0048 => s.setPart part { p with otsize := BitVec.ofNat 64 (min val.toNat 0xFFFF00) }
  | 0x0050 => writeOtinv s part val
  | 0x0058 => s.setPart part { p with cnt := val }
  | 0x0060 => s.setPart part { p with cthbase := val &&& ~~~ 0x7F }
  | 0x0068 => s.setPart part { p with cthsize := val &&& ~~~ 0x3 }
  | 0x0070 => s.setPart part { p with eqbase := val }
  | 0x0078 => s.setPart part { p with eqhead := val.extractLsb' 32 32 }
  | 0x0098 => writeScrub s part val
  | 0x00A0 => writePsreq s part val
  | 0x00B0 => writeDbgcmd s part val
  | 0x00C0 => writeFwload s part val
  | 0x00C8 => writeCorerst s part val
  | _ =>
    if 0x1000 ≤ off && off + 8 ≤ 0x10000 then
      { s with pkg := { s.pkg with fwMem := cellsWrite s.pkg.fwMem (mboxBase part + off) (bytesLE 8 val.toNat) } }
    else s

/-- REGISTER_WRITE (R354). -/
def execRegisterWrite (part off : Nat) (val : BitVec 64) (s : State) : Out := .next (writeReg s part off val)

/-! ### Performance states and clamps (R371, R372) -/

/-- A partition has a core or a slice on a stack. -/
def Partition.onStack (p : Partition) (k : Nat) : Bool :=
  (p.coreList.any fun c => stackOf c = k) || p.sliceList.any fun m => m / 48 = k

/-- The state that a stack's requests and PSCAP select (R371). -/
def wantedState (s : State) (k : Nat) : Nat :=
  let reqs := (s.parts.filter fun p => p.onStack k).map fun p => bitsOf p.psreq.toNat (4 * k + 2) (4 * k)
  let low := match reqs with
    | [] => 0
    | x :: xs => xs.foldl min x
  max low (s.die k).pscap

/-- The state in effect with the clamp steps on it: R371 and R372 do not say how a request and active clamp steps combine; the
steps add to the requested state, up to 7, also when the request changes under a clamp (DESIGN CHOICE log 63). -/
def clampedState (s : State) (k : Nat) : Nat := min 7 (wantedState s k + (s.die k).clamp)

/-- PERF_STATE_CHANGE (R371). -/
def execPerfStateChange (stack : Nat) (s : State) : Out :=
  if stack < 4 && (s.die stack).pstate ≠ clampedState s stack then
    .next (s.setDie stack { s.die stack with pstate := clampedState s stack })
  else .refused (.notEnabled "PERF_STATE_CHANGE")

/-- A clamp event for every partition with resources on the stack, and for the package controller (R360, R372). -/
def clampEvent (s : State) (stack : Nat) : State :=
  let d := s.die stack
  let e : Event := { kind := 10, info := stack + (if d.hot then 8 else 0) + d.pstate * 16 }
  (((List.range 16).filter fun p => (s.part p).onStack stack).foldl (fun s p => s.postEvent p e) s).packageEvent e

/-- The thermal limit of a die in °C; 110 until one is set (R366). -/
def thermalLimit (d : Stack) (die : Nat) : Nat := getAt 110 d.thermal die

/-- The ticks of a microsecond at least between two steps up (R372). -/
def clampTicks : Nat := 1200

/-- The ticks between two steps back (R372). -/
def returnTicks : Nat := 1200000

/-- A reading lies at least 5 °C, or 5 %, below its limit (R372). -/
def Stack.below (d : Stack) (x : Option Nat × Nat) : Bool :=
  match x.1 with
  | some i => x.2 + 5 ≤ thermalLimit d i
  | none => x.2 * 100 ≤ d.current * 95

/-- A reading of a die's temperature or of the stack's current: of a condition that raised the clamp it is kept, with the
time since when every such condition has stayed below its limit by the margin (R372). -/
def Stack.sensor (d : Stack) (gt : Nat) (die : Option Nat) (value : Nat) : Stack :=
  let xs := d.causes.map fun x => if x.1 = die then (die, value) else x
  { d with causes := xs, coolSince := if xs.all d.below then some (d.coolSince.getD gt) else none }

/-- CLAMP_RAISE: a die's temperature, or the stack's current, exceeds its limit (R372). -/
def execClampRaise (stack : Nat) (die : Option Nat) (value : Nat) (s : State) : Out :=
  let d := s.die stack
  let above := match die with
    | some i => thermalLimit d i < value
    | none => d.current < value
  if stack < 4 && above && d.pstate < 7 && (d.clamp = 0 || d.clampAt + clampTicks ≤ s.gt) then
    .next (clampEvent (s.setDie stack { d with
      pstate := d.pstate + 1, clamp := d.clamp + 1, clampAt := s.gt, hot := die.isSome
      causes := (die, value) :: d.causes.filter (fun x => x.1 ≠ die), coolSince := none }) stack)
  else .refused (.notEnabled "CLAMP_RAISE")

/-- CLAMP_RETURN, with a reading of a condition that raised the clamp: every such condition has stayed at least 5 °C or 5 %
below its limit for a millisecond (R372; how long it must have stayed, DEDUCED log 56). -/
def execClampReturn (stack : Nat) (die : Option Nat) (value : Nat) (s : State) : Out :=
  let d := (s.die stack).sensor s.gt die value
  let cool := match d.coolSince with
    | some t => t + returnTicks ≤ s.gt
    | none => false
  if stack < 4 && d.causes.any (fun x => x.1 = die) && cool && d.clamp ≠ 0 && d.clampAt + returnTicks ≤ s.gt then
    let d1 := { d with
      clamp := d.clamp - 1, clampAt := s.gt, hot := die.isSome, causes := if d.clamp = 1 then [] else d.causes }
    let s1 := s.setDie stack d1
    .next (clampEvent (s1.setDie stack { d1 with pstate := clampedState s1 stack }) stack)
  else .refused (.notEnabled "CLAMP_RETURN")

end Sys2Proof.Machine
end

