-- ==== Sys2Proof/Machine/EvFirmware.lean ====
section
/-! DEFINITION. The management endpoint, the security engine and bring-up (R352, R353, R363 to R373): sessions, keys, bindings, reassignment, firmware images, ECC errors, power-on reset. -/

namespace Sys2Proof.Machine

open Sys2Proof

/-! ### Keys and sessions (R366, R367) -/

/-- Key slot n. -/
def Package.slot (p : Package) (n : Nat) : KeySlot := getAt KeySlot.reset p.slots n

/-- The four owner key slots (R367). -/
def keySlots : List Nat := [0, 1, 2, 3]

/-- An unrevoked slot that an owner has enrolled, whose role has a bit. -/
def Package.roleSlot (p : Package) (bit n : Nat) : Bool :=
  (p.slot n).used && !(p.slot n).revoked && (p.slot n).role.getLsbD bit

/-- The fabric manager key slot (R367). -/
def Package.fmSlot (p : Package) : Option Nat := keySlots.find? (p.roleSlot 1)

/-- The session is authenticated by the fabric manager key slot (R366, R367). -/
def Package.authentic (p : Package) : Bool :=
  match p.session, p.fmSlot with
  | some d, some n => d = (p.slot n).ec
  | _, _ => false

/-- The package with the answer to a management command. -/
def State.answer (s : State) (ok : Bool) : State := { s with pkg := { s.pkg with reply := ok } }

/-- A management command that changes bindings, way masks, keys, limits or T (R366): accepted in an authenticated session
where its own conditions hold; else nothing changes. -/
def command (s : State) (ok : Bool) (f : State → State) : Out :=
  if s.pkg.authentic && ok then .next ((f s).answer true) else .next (s.answer false)

/-- SPDM_SESSION (R366): a session is established with the requester's key digest, or ended. -/
def execSpdmSession (establish : Bool) (digest : BitVec 384) (s : State) : Out :=
  .next { s with pkg := { s.pkg with session := if establish then some digest else none, reply := true } }

/-- A key slot changed. -/
def State.setSlot (s : State) (n : Nat) (x : KeySlot) : State :=
  { s with pkg := { s.pkg with slots := setAt KeySlot.reset s.pkg.slots n x } }

/-- A command is signed by an unrevoked slot whose role bit [1] is set (R367). -/
def signedBy (s : State) (signer : Option Nat) : Bool :=
  match signer with
  | some n => n < 4 && s.pkg.roleSlot 1 n
  | none => false

/-- ENROLL (R367): the first in any session and with role bit [1]; a later one authenticated and signed. -/
def execEnroll (slot : Nat) (ecDigest lmsDigest : BitVec 384) (role : BitVec 2) (signer : Option Nat) (s : State) : Out :=
  let first := keySlots.all fun n => !(s.pkg.slot n).used
  let ok := slot < 4 && (if first then s.pkg.session.isSome && role.getLsbD 1 else s.pkg.authentic && signedBy s signer)
  if ok then
    .next ((s.setSlot slot { s.pkg.slot slot with ec := ecDigest, lms := lmsDigest, role := role, used := true }).answer true)
  else .next (s.answer false)

/-- REVOKE (R367). -/
def execRevoke (slot : Nat) (signer : Option Nat) (s : State) : Out :=
  command s (slot < 4 && signedBy s signer) fun s => s.setSlot slot { s.pkg.slot slot with revoked := true }

/-- SVN: the fused minimum of an image type, 1 or 2, only rises (R366). -/
def execSvn (image version : Nat) (s : State) : Out :=
  command s (image = 1 || image = 2) fun s =>
    { s with pkg := { s.pkg with
        minVersion := setAt 0 s.pkg.minVersion image (max (getAt 0 s.pkg.minVersion image) version) } }

/-! ### Limits (R341, R353, R366) -/

/-- NETT: 256 to 65,536, a power of two (R366). -/
def execNett (ticks : Nat) (s : State) : Out :=
  command s ((List.range 9).any fun i => ticks = 256 * 2 ^ i) fun s => { s with net := { s.net with timeout := ticks } }

/-- PSCAP (R366). -/
def execPscap (stack cap : Nat) (s : State) : Out :=
  command s (stack < 4 && cap < 8) fun s => s.setDie stack { s.die stack with pscap := cap }

/-- CLAMP: a thermal limit for each die, 60 to 110 °C, and a current limit (R366). -/
def execClamp (stack : Nat) (thermal : List Nat) (current : Nat) (s : State) : Out :=
  command s (stack < 4 && thermal.length = 2 && thermal.all fun t => 60 ≤ t && t ≤ 110) fun s =>
    s.setDie stack { s.die stack with thermal := thermal, current := current }

/-- A partition's mask at a gateway overlaps no other partition's (R353). -/
def waysFree (s : State) (gateway part : Nat) (mask : BitVec 16) : Bool :=
  (List.range 16).all fun p => p = part || getAt 0 (getAt Gateway.reset s.gateways gateway).ways p &&& mask = 0

/-- A partition's way mask at a gateway. -/
def State.setWays (s : State) (gateway part : Nat) (mask : BitVec 16) : State :=
  let g := getAt Gateway.reset s.gateways gateway
  { s with gateways := setAt Gateway.reset s.gateways gateway { g with ways := setAt 0 g.ways part mask } }

/-- WAYS (R353). -/
def execWays (gateway part : Nat) (mask : BitVec 16) (s : State) : Out :=
  command s (gateway < gatewayCount && part < 16 && waysFree s gateway part mask) fun s => s.setWays gateway part mask

/-! ### Bindings (R352, R363, R364, R366) -/

/-- The privileged queue as the binding creates it; the spec gives neither its ring nor its head write-back word (DESIGN CHOICE log 6). -/
def privStart : Queue where
  ring := 0
  log2n := 6
  head := 0
  tail := 0
  ctx := 0
  headAddr := 4096
  saveArea := 0
  saveBytes := 0
  stopped := false

/-- Cores and slices that a partition holds, or that are on their way to one. -/
def heldBy (s : State) (p : Nat) : BitVec 48 × BitVec 192 :=
  let x := s.part p
  match s.pkg.rebind with
  | some r => if r.taker = p then (x.cores ||| r.cores, x.slices ||| r.slices) else (x.cores, x.slices)
  | none => (x.cores, x.slices)

/-- BIND (R352, R366): resources are exclusive, and the hypervisor mark belongs to one partition at most. -/
def execBind (part port function : Nat) (cores : BitVec 48) (slices : BitVec 192) (ways : List (BitVec 16))
    (hypervisor : Bool) (s : State) : Out :=
  let others := (List.range 16).filter fun p => p ≠ part
  let ok := part < 16 && port < 2 && !(s.part part).bound && cores ≠ 0 && slices ≠ 0 && ways.length ≤ gatewayCount
    && others.all (fun p => (heldBy s p).1 &&& cores = 0 && (heldBy s p).2 &&& slices = 0)
    && !(hypervisor && others.any fun p => (s.part p).hypervisor)
    && ways.zipIdx.all fun x => waysFree s x.2 part x.1
  command s ok fun s =>
    ways.zipIdx.foldl (fun s x => s.setWays x.2 part x.1)
      (s.setPart part { Partition.reset with
        bound := true, port := port, function := function, cores := cores, slices := slices, hypervisor := hypervisor
        queues := [(privQueue, privStart)] })

/-- Accesses to some slices, and to the accumulator windows of some cores, that are not over: messages and buffered line
writes. -/
def slicesBusy (s : State) (cores : BitVec 48) (slices : BitVec 192) : Bool :=
  let mine (line : Nat) : Bool := inSlices slices line || inWindows cores line
  (s.loads.any fun m => mine m.line) || (s.writes.any fun m => mine m.line) || (s.atoms.any fun m => mine m.line)
    || s.buffered.any fun w => mine w.line

/-- A job works on the accumulator window of one of some cores. -/
def usesWindow (cores : BitVec 48) (spans : List Span) : Bool :=
  spans.any fun x => match x with
    | .lines obj _ _ => (accWindow? obj).any cores.getLsbD
    | _ => false

/-- Copy jobs and matrix jobs that are not over, on some cores, or on the accumulator windows of these cores. -/
def jobsBusy (s : State) (cores : BitVec 48) : Bool :=
  s.cores.zipIdx.any fun x =>
    (x.1.jobs.any fun j => cores.getLsbD x.2 || usesWindow cores (j.reads ++ j.writes))
      || x.1.mats.any fun j => cores.getLsbD x.2 || usesWindow cores (j.reads ++ j.writes)

/-- The scrub engine is at work on one of some slices for a partition (R365). -/
def scrubBusy (p : Partition) (slices : BitVec 192) : Bool :=
  p.scrub.getLsbD 63 && slices.getLsbD (bitsOf p.scrub.toNat 7 0)

/-- REBIND (R363, R364): it is carried out once the accesses, the jobs and the zeroing under way on the moving slices and cores
are over (DEDUCED log 53); then host copies of the moving lines are back-invalidated, and the slices and cores leave the giver. -/
def execRebind (giver taker : Nat) (cores : BitVec 48) (slices : BitVec 192) (s : State) : Out :=
  let p := s.part giver
  let moving := (List.range 48).filter fun c => cores.getLsbD c
  let ok := giver < 16 && taker < 16 && giver ≠ taker && p.bound && (s.part taker).bound && s.pkg.rebind.isNone
    && !(cores = 0 && slices = 0) && cores &&& ~~~ p.cores = 0 && slices &&& ~~~ p.slices = 0
    && p.cores &&& ~~~ cores ≠ 0 && p.slices &&& ~~~ slices ≠ 0 && moving.all fun c => !(coreBusy s c)
  if s.pkg.authentic && ok && (slicesBusy s cores slices || jobsBusy s cores || scrubBusy p slices) then .refused (.notEnabled "REBIND")
  else command s ok fun s =>
    let s1 := s.setPart giver { p with cores := p.cores &&& ~~~ cores, slices := p.slices &&& ~~~ slices }
    { s1 with
      hostCopies := s1.hostCopies.filter fun l => !(inSlices slices l)
      pkg := { s1.pkg with rebind := some ⟨giver, taker, cores, slices, s.gt⟩ } }

/-- The ticks of the lease wait (R364). -/
def rebindTicks : Nat := 65541

/-- What the moving slices and the giver's gateway ways hold is cleared (R364). -/
def clearSlices (s : State) (giver : Nat) (slices : BitVec 192) : State :=
  { s with
    mem := s.mem.filter fun c => !(inSlices slices (lineOf c.1))
    poison := s.poison.filter fun l => !(inSlices slices l)
    leases := s.leases.filter fun x => !(inSlices slices x.1)
    horizon := (s.horizon.zipIdx).map fun x => if slices.getLsbD x.2 then 0 else x.1
    gateways := s.gateways.map fun g => { g with lines := g.lines.filter fun h => h.part ≠ giver } }

/-- REBIND_COMPLETE (R364): zeroing and clearing are done and the lease wait is over; the binding takes effect, with event
kind 11. -/
def execRebindComplete (s : State) : Out :=
  match s.pkg.rebind with
  | none => .refused (.notEnabled "REBIND_COMPLETE")
  | some r =>
    if s.gt < r.since + rebindTicks || slicesBusy s r.cores r.slices then .refused (.notEnabled "REBIND_COMPLETE")
    else
      let moving := (List.range 48).filter fun c => r.cores.getLsbD c
      let s1 := moving.foldl (fun s c => resetCore s c none) (clearSlices s r.giver r.slices)
      let p := s1.part r.taker
      let cores := p.cores ||| r.cores
      let s2 := s1.setPart r.taker { p with cores := cores, slices := p.slices ||| r.slices }
      let s3 := { s2 with pkg := { s2.pkg with rebind := none, reply := true } }
      .next (s3.postEvent r.taker { kind := 11, info := cores.toNat })

/-! ### Firmware images (R367, R368) -/

/-- The header's magic. -/
def fwMagic : Nat := 0x4146574C

/-- A firmware image's header (R367), as six 32-bit words from its first byte on. -/
structure FwHeader where
  magic : Nat
  type : Nat
  size : Nat
  version : Nat
  load : Nat
  entry : Nat
  deriving DecidableEq, Repr

/-- The header of an image at an HDM offset. -/
def fwHeader (s : State) (p : Partition) (h : Nat) : FwHeader :=
  ⟨hdmNat s p h 4, hdmNat s p (h + 4) 4, hdmNat s p (h + 8) 4, hdmNat s p (h + 12) 4, hdmNat s p (h + 16) 4,
    hdmNat s p (h + 20) 4⟩

/-- A header that an image for a target may have, at an HDM offset of a partition. -/
def headerOk (p : Partition) (h target : Nat) (x : FwHeader) : Bool :=
  x.magic = fwMagic && x.type = target && (target = 1 || target = 2) && x.entry < x.size && x.load + x.size ≤ fwMemBytes
    && h + 128 + x.size + trailBytes ≤ p.hdmSize

/-- Both keys match one unrevoked slot that may sign images (R367). -/
def keysKnown (s : State) (ec lms : BitVec 384) : Bool :=
  keySlots.any fun n => s.pkg.roleSlot 0 n && (s.pkg.slot n).ec = ec && (s.pkg.slot n).lms = lms

/-- The status of a firmware load (R368). -/
def fwStatus (s : State) (part : Nat) : Nat :=
  let p := s.part part
  let h := p.fwload.toNat / 128 * 128
  let target := bitsOf p.fwload.toNat 3 0
  let x := fwHeader s p h
  if !(headerOk p h target x) then 1
  else
    let keys := h + 128 + x.size
    if !(signaturesVerify (hdmBytes s p h (128 + x.size)) (hdmBytes s p keys trailBytes)) then 2
    else if !(keysKnown s (keyDigest (hdmBytes s p keys ecKeyBytes)) (keyDigest (hdmBytes s p (keys + ecKeyBytes) lmsKeyBytes)))
      then 3
    else if x.version < getAt 0 s.pkg.minVersion target then 4
    else if target = 1 && !p.hypervisor then 5
    else 0

/-- An accepted image runs: its body lies at its load offset in the firmware memory, and the package controller, or the
supervisor cores of the partition's cores, run from its entry offset (R368). -/
def runImage (s : State) (part : Nat) : State :=
  let p := s.part part
  let h := p.fwload.toNat / 128 * 128
  let x := fwHeader s p h
  let s1 := { s with pkg := { s.pkg with fwMem := cellsWrite s.pkg.fwMem x.load (hdmBytes s p (h + 128) x.size) } }
  if x.type = 1 then { s1 with pkg := { s1.pkg with fwImage := some x.entry, awaiting := false } }
  else
    p.coreList.foldl (fun s c => s.restartSup c (some x.entry))
      (s1.setPart part { s1.part part with supImage := some x.entry })

/-- FWLOAD_RESULT (R368): event kind 12 with the status. -/
def execFwloadResult (part : Nat) (s : State) : Out :=
  let p := s.part part
  if !p.loading then .refused (.notEnabled "FWLOAD_RESULT")
  else
    let st := fwStatus s part
    let s1 := if st = 0 then runImage s part else s
    .next ((s1.setPart part { s1.part part with loading := false }).postEvent part { kind := 12, info := st })

/-! ### Errors and bring-up (R370, R373) -/

/-- ECC_ERROR (R370): a corrected error counts for the owning partition, or for the package; an uncorrectable one poisons
its line. -/
def execEccError (owner line : Nat) (uncorrectable : Bool) (s : State) : Out :=
  if uncorrectable then .next { s with poison := if s.poison.contains line then s.poison else line :: s.poison }
  else if owner < 16 && (s.part owner).bound then
    .next (s.setPart owner { s.part owner with ecc := (s.part owner).ecc + 1 })
  else .next { s with pkg := { s.pkg with eccCount := s.pkg.eccCount + 1 } }

/-- POWER_ON_RESET (R24, R373): everything is as after reset, but for the owner key slots and the fused minimum versions,
the host's own memory and translations, and the model's own schedule and counters. -/
def execPowerOnReset (s : State) : Out :=
  .next { State.reset with
    agenda := s.agenda, free := s.free, nextId := s.nextId
    mem := s.mem.filter fun c => isHostAddr c.1
    hostPages := s.hostPages
    pkg := { Package.reset with slots := s.pkg.slots, minVersion := s.pkg.minVersion } }

end Sys2Proof.Machine
end

