-- ==== Sys2Proof/Machine/EvNet.lean ====
section
/-! DEFINITION. The on-chip network (R336 to R347): routers, endpoints, links and buffers, forwarding and forks, time-out, the garnet token and the gutter lane, link retries. Which message a packet's payload belongs to is left out: its routing decides no outcome (R348, DESIGN CHOICE log 31). -/

namespace Sys2Proof.Machine

open Sys2Proof

/-! ### Routers and links (R336, R337) -/

/-- A place: stack (4 for the I/O die), die, y, x. -/
structure Place4 where
  stack : Nat
  die : Nat
  y : Nat
  x : Nat
  deriving DecidableEq, Repr

/-- Where a router lies. -/
def routerPlace (r : Nat) : Place4 :=
  if r < 128 then ⟨r / 32, r % 32 / 16, r % 16 / 4, r % 4⟩ else ⟨4, 0, (r - 128) / 2 % 2, (r - 128) % 2⟩

/-- The router at (x, y) of a die of a stack. -/
def routerAt (s d y x : Nat) : Nat := 32 * s + 16 * d + 4 * y + x

/-- The router that serves a core. -/
def coreRouter (c : Nat) : Nat := routerAt (c / 12) 0 (c % 12 / 4) (c % 4)

/-- The routers of the package. -/
def routers : Nat := 132

/-- An endpoint of the network (R336). A core's endpoint serves its copy engine and its supervisor core too, a slice's its
memory controller. -/
inductive Endpoint where
  | core (n : Nat)
  | stackScheduler (stack : Nat)
  | ingress (stack : Nat)
  | distributor (stack : Nat)
  | debug (stack : Nat)
  | slice (n : Nat)
  | gateway (n : Nat)
  | cxlPort (n : Nat)
  | packageController
  | management
  | security
  | scrub
  deriving DecidableEq, Repr

/-- The endpoints of a router, in the order of their numbers there (R336; the order within a row of the table, DESIGN CHOICE
log 31). -/
def endpoints (r : Nat) : List Endpoint :=
  let p := routerPlace r
  if p.stack = 4 then
    match r with
    | 128 => [.cxlPort 0]
    | 129 => [.packageController, .management]
    | 130 => [.security, .scrub]
    | 131 => [.cxlPort 1]
    | _ => []
  else if p.die = 0 then
    if p.y < 3 then [.core (12 * p.stack + 4 * p.y + p.x)]
    else match p.x with
      | 0 => [.stackScheduler p.stack]
      | 1 => [.ingress p.stack]
      | 2 => [.distributor p.stack]
      | _ => [.debug p.stack]
  else
    let first := 48 * p.stack + 3 * (4 * p.y + p.x)
    [.slice first, .slice (first + 1), .slice (first + 2)]
      ++ (if p.x = 3 && p.y = 2 then [.gateway (gatewayAt p.stack (Nat.xor p.stack 1))] else [])
      ++ (if p.x = 2 && p.y = 3 then [.gateway (gatewayAt p.stack (Nat.xor p.stack 2))] else [])
      ++ (if p.x = 3 && p.y = 3 then [.gateway (gatewayAt p.stack (Nat.xor p.stack 3))] else [])

/-- The number of the first input that is an injection queue, and of the first output that delivers: one for each endpoint
of the router. -/
def firstPort : Nat := 6

/-- The output of a router that delivers to an endpoint of it; none where the router has no such endpoint. -/
def deliver? (r port : Nat) : Option Nat := if port < (endpoints r).length then some (firstPort + port) else none

/-- The neighbour behind an output: 0 and 1 lower and higher x, 2 and 3 lower and higher y, 4 the other die, 5 the
die-to-die link. -/
def neighbour (r out : Nat) : Option Nat :=
  let p := routerPlace r
  if p.stack = 4 then
    match out with
    | 0 => if p.x = 1 then some (r - 1) else none
    | 1 => if p.x = 0 then some (r + 1) else none
    | 2 => if p.y = 1 then some (r - 2) else none
    | 3 => if p.y = 0 then some (r + 2) else none
    | 5 => some (routerAt (r - 128) 1 3 3)
    | _ => none
  else
    match out with
    | 0 => if 0 < p.x then some (r - 1) else none
    | 1 => if p.x < 3 then some (r + 1) else none
    | 2 => if 0 < p.y then some (r - 4) else none
    | 3 => if p.y < 3 then some (r + 4) else none
    | 4 => some (routerAt p.stack (1 - p.die) p.y p.x)
    | 5 =>
      if p.die = 1 && p.y = 2 && p.x = 3 then some (routerAt (Nat.xor p.stack 1) 1 2 3)
      else if p.die = 1 && p.y = 3 && p.x = 2 then some (routerAt (Nat.xor p.stack 2) 1 3 2)
      else if p.die = 1 && p.y = 3 && p.x = 3 then some (128 + p.stack)
      else none
    | _ => none

/-- The input at the far end of an output's link. -/
def farInput (out : Nat) : Nat :=
  match out with
  | 0 => 1
  | 1 => 0
  | 2 => 3
  | 3 => 2
  | o => o

/-- The packets that an input holds (R338). -/
def inputDepth (inp : Nat) : Nat := if inp = 5 then 32 else 8

/-! ### Routing (R339) -/

/-- The end of the segment of a packet at a router, and whether it is to cross there. -/
def segmentEnd (r dst : Nat) : Nat × Bool :=
  let a := routerPlace r
  let b := routerPlace dst
  if a.stack = b.stack then (dst, false)
  else if a.stack = 4 then (128 + b.stack, true)
  else if b.stack = Nat.xor a.stack 1 then (routerAt a.stack 1 2 3, true)
  else if b.stack = Nat.xor a.stack 2 then (routerAt a.stack 1 3 2, true)
  else (routerAt a.stack 1 3 3, true)

/-- The outputs that bring a packet nearer to an endpoint of a router (R339), in the order x, y, die; at the router, the one
that delivers it. -/
def productive (r dst port : Nat) : List Nat :=
  if r = dst then [firstPort + port]
  else
    let (t, cross) := segmentEnd r dst
    if r = t then (if cross then [5] else [])
    else
      let a := routerPlace r
      let b := routerPlace t
      (if b.x < a.x then [0] else []) ++ (if a.x < b.x then [1] else []) ++ (if b.y < a.y then [2] else [])
        ++ (if a.y < b.y then [3] else []) ++ (if a.die ≠ b.die then [4] else [])

/-- The destinations of a packet, as router and endpoint: its own, or those of its set of cores. -/
def Packet.dests (p : Packet) : List (Nat × Nat) :=
  if p.set.isEmpty then [(p.dst, p.dstPort)] else p.set.map fun c => (coreRouter c, 0)

/-- The outputs that a packet can request. -/
def Packet.requests (p : Packet) (r : Nat) : List Nat := (p.dests.flatMap fun d => productive r d.1 d.2).dedup

/-- A packet requests an output whatever else it may request: one of its destinations has no other (R340). -/
def Packet.needs (p : Packet) (r out : Nat) : Bool := p.dests.any fun d => productive r d.1 d.2 = [out]

/-- The part of a packet that an output takes, and the remainder (R345). -/
def Packet.split (p : Packet) (r out : Nat) : Packet × Option Packet :=
  if p.set.isEmpty then (p, none)
  else
    let goes (c : Nat) : Bool := (productive r (coreRouter c) 0).contains out
    let rest := p.set.filter fun c => !(goes c)
    ({ p with set := p.set.filter goes }, if rest.isEmpty then none else some { p with set := rest })

/-- Older by age, then lower source router, then lower source endpoint (R340). -/
def Packet.before (p q : Packet) : Bool :=
  p.age < q.age || (p.age = q.age && (p.src < q.src || (p.src = q.src && p.srcPort < q.srcPort)))

/-! ### Buffers (R338) -/

/-- An input buffer. -/
def Net.buf (n : Net) (r inp : Nat) : NetBuf := getAt NetBuf.reset (getAt [] n.bufs r) inp

/-- An input buffer replaced. -/
def Net.setBuf (n : Net) (r inp : Nat) (b : NetBuf) : Net :=
  { n with bufs := setAt [] n.bufs r (setAt NetBuf.reset (getAt [] n.bufs r) inp b) }

/-- The flits on the link of an output: sent, and kept in its retry buffer until they are received (R347). -/
def Net.onLink (n : Net) (r out : Nat) : List Packet := (n.links.filter fun x => x.1 = r && x.2.1 = out).map fun x => x.2.2

/-- An input has room for a packet more than some on their way to it. -/
def Net.room (n : Net) (r inp : Nat) (onWay : Nat) : Bool := (n.buf r inp).packets.length + onWay < inputDepth inp

/-- A packet put into a buffer; the first one becomes head now. -/
def Net.push (n : Net) (r inp : Nat) (p : Packet) : Net :=
  let b := n.buf r inp
  n.setBuf r inp { b with packets := b.packets ++ [p], timer := if b.packets.isEmpty then 0 else b.timer }

/-- The head of a buffer leaves, or leaves a remainder with its age and its timer (R341, R345). -/
def Net.pop (n : Net) (r inp : Nat) (rest : Option Packet) : Net :=
  let b := n.buf r inp
  match rest with
  | some p => n.setBuf r inp { b with packets := p :: b.packets.drop 1 }
  | none => n.setBuf r inp { packets := b.packets.drop 1, timer := 0, suspect := false }

/-- The heads of a router with their inputs. -/
def Net.heads (n : Net) (r : Nat) : List (Nat × Packet) :=
  (List.range 10).filterMap fun i => (n.buf r i).packets.head?.map fun p => (i, p)

/-- An older head that requests the output goes first (R340): one for which that output is a choice among several may have
requested another. -/
def Net.outranked (n : Net) (r inp out : Nat) (p : Packet) : Bool :=
  (n.heads r).any fun x => x.1 ≠ inp && x.2.before p && x.2.needs r out

/-- The number that stands for the gutter buffers of a router's endpoints as an input (R344). -/
def gutterInput : Nat := 10

/-- An endpoint's gutter buffer holds a packet (R344). -/
def Net.inGutter (n : Net) (r port : Nat) : Bool := n.sinks.any fun x => x.1 = r && x.2.dstPort = port

/-- A packet taken by its endpoint. -/
def Net.take (n : Net) (p : Packet) : Net := { n with delivered := n.delivered ++ [p] }

/-- A packet put on a link; a copy stays in its retry buffer (R347). -/
def Net.send (n : Net) (r out : Nat) (p : Packet) : Net := { n with links := n.links ++ [(r, out, p)] }

/-- A link's run of failed retries is over: its flit has gone through (R347). -/
def Net.linkOk (n : Net) (r out : Nat) : Net :=
  { n with
    retries := n.retries.filter fun x => !(x.1 = r && x.2.1 = out)
    reported := n.reported.filter fun x => !(x.1 = r && x.2 = out) }

/-- PACKET_FORWARD (R339, R340, R345): the head of an input takes an output of a router; the outputs from 6 on deliver it
to an endpoint. A packet of an endpoint's gutter buffer is taken ahead of the ordinary ones (R344). -/
def execPacketForward (router inp out : Nat) (s : State) : Out :=
  let n := s.net
  if inp = gutterInput then
    match n.sinks.findIdx? fun x => x.1 = router && firstPort + x.2.dstPort = out with
    | some i =>
      match n.sinks[i]? with
      | some x => .next { s with net := { n with sinks := n.sinks.eraseIdx i }.take x.2 }
      | none => .refused (.notEnabled "PACKET_FORWARD")
    | none => .refused (.notEnabled "PACKET_FORWARD")
  else
    match (n.buf router inp).packets with
    | [] => .refused (.notEnabled "PACKET_FORWARD")
    | p :: _ =>
      if !((p.requests router).contains out) || n.outranked router inp out p then
        .refused (.notEnabled "PACKET_FORWARD")
      else
        let (part, rest) := p.split router out
        if firstPort ≤ out then
          if n.inGutter router (out - firstPort) then .refused (.notEnabled "PACKET_FORWARD")
          else .next { s with net := (n.pop router inp rest).take part }
        else match neighbour router out with
        | none => .refused (.notEnabled "PACKET_FORWARD")
        | some t =>
          if n.room t (farInput out) (n.onLink router out).length then
            .next { s with net := (n.pop router inp rest).send router out part }
          else .refused (.notEnabled "PACKET_FORWARD")

/-! ### Time-out and recovery (R341 to R343) -/

/-- The network clock of a performance state, in units of 10 MHz (R371). -/
def netClock (pstate : Nat) : Nat := getAt 260 [260, 240, 220, 200, 170, 130, 87, 43] pstate

/-- The network clock at a router, in units of 10 MHz: its stack's (R26); the I/O die's routers, which lie in no stack, run
at the nominal clock (DESIGN CHOICE log 48). -/
def routerClock (s : State) (router : Nat) : Nat :=
  let p := routerPlace router
  if p.stack = 4 then 260 else netClock (s.die p.stack).pstate

/-- Units of a head's timer in one network clock: a tick adds the clock's frequency in 10 MHz, of which a tick has 120. -/
def timerUnit : Nat := 120

/-- SUSPECT_MARK (R341). -/
def execSuspectMark (router inp : Nat) (s : State) : Out :=
  let b := s.net.buf router inp
  if !b.packets.isEmpty && !b.suspect && s.net.timeout * timerUnit ≤ b.timer then
    .next { s with net := s.net.setBuf router inp { b with suspect := true } }
  else .refused (.notEnabled "SUSPECT_MARK")

/-- The oldest suspect head of a router. -/
def Net.oldestSuspect (n : Net) (r : Nat) : Option (Nat × Packet) :=
  ((n.heads r).filter fun x => (n.buf r x.1).suspect).foldl (fun b x => match b with
    | none => some x
    | some y => if x.2.before y.2 then some x else some y) none

/-- What the gutter lane takes of a suspect head: a unicast packet, or one destination of a multicast (R343, R345). -/
def Packet.drain (p : Packet) : Packet × Option Packet :=
  match p.set with
  | [] => (p, none)
  | c :: cs => ({ p with dst := coreRouter c, dstPort := 0, set := [] }, if cs.isEmpty then none else some { p with set := cs })

/-- GARNET_TOKEN_ARRIVAL (R342, R343): the token reaches the next router and is captured for its oldest suspect head, or
passes. -/
def execGarnetTokenArrival (s : State) : Out :=
  let n := s.net
  if n.captured.isSome then .refused (.notEnabled "GARNET_TOKEN_ARRIVAL")
  else
    let r := (n.token + 1) % routers
    match n.oldestSuspect r with
    | none => .next { s with net := { n with token := r } }
    | some (inp, p) =>
      let (out, rest) := p.drain
      .next { s with net := { n.pop r inp rest with token := r, captured := some r, gutter := some (r, out) } }

/-- The next output of a packet of the gutter lane: in each segment x, then y, then die; none at its destination (R343). -/
def gutterOut (r : Nat) (p : Packet) : Option Nat := if r = p.dst then none else (productive r p.dst p.dstPort).head?

/-- The number of the gutter lane's own link beside an output's ordinary one (R343). -/
def gutterLink (out : Nat) : Nat := 16 + out

/-- The output over which the packet of the gutter lane is to be sent on: it is not yet on its link (R343). -/
def Net.gutterNext (n : Net) : Option (Nat × Nat × Packet) :=
  match n.gutter with
  | none => none
  | some (r, p) =>
    match gutterOut r p with
    | some out => if (n.onLink r (gutterLink out)).isEmpty then some (r, out, p) else none
    | none => none

/-- The packet of the gutter lane is sent on toward the next router's gutter-lane buffer, over the lane's own link, whose
retry buffer keeps it (R343, R347). -/
def gutterHop (s : State) : State :=
  match s.net.gutterNext with
  | some (r, out, p) => { s with net := s.net.send r (gutterLink out) p }
  | none => s

/-- The packets that a gutter buffer holds (R344). -/
def gutterDepth : Nat := 8

/-- GUTTER_SINK_ACK (R343): at its router the packet is sunk into its destination's gutter buffer, and the capturing router
releases the token. -/
def execGutterSinkAck (s : State) : Out :=
  let n := s.net
  match n.gutter with
  | none => .refused (.notEnabled "GUTTER_SINK_ACK")
  | some (r, p) =>
    if r = p.dst && (n.sinks.filter fun x => x.1 = p.dst && x.2.dstPort = p.dstPort).length < gutterDepth then
      .next { s with net := { n with gutter := none, captured := none, sinks := n.sinks ++ [(p.dst, p)] } }
    else .refused (.notEnabled "GUTTER_SINK_ACK")

/-! ### Links (R347) -/

/-- The retries in a row of a link. -/
def Net.retryCount (n : Net) (r out : Nat) : Nat :=
  ((n.retries.find? fun x => x.1 = r && x.2.1 = out).map fun x => x.2.2).getD 0

/-- LINK_RETRY (R347): the oldest flit of a link, ordinary or of the gutter lane, was not received and is sent again from the
retry buffer; the retries in a row are counted. All of them but the latest have failed. -/
def execLinkRetry (router out : Nat) (s : State) : Out :=
  let n := s.net
  match n.onLink router out with
  | [] => .refused (.notEnabled "LINK_RETRY")
  | _ :: _ =>
    .next { s with net := { n with
      retries := (router, out, n.retryCount router out + 1)
        :: n.retries.filter fun x => !(x.1 = router && x.2.1 = out) } }

/-- The oldest flit of a link is received: it leaves the retry buffer and enters the input at the far end, or, on a link of
the gutter lane, the next router's gutter-lane buffer (R338, R343, R347). -/
def linkArrive (s : State) (router out : Nat) : State :=
  let n := s.net
  match n.links.findIdx? fun x => x.1 = router && x.2.1 = out, neighbour router (out % 16) with
  | some i, some t =>
    match n.links[i]? with
    | some x =>
      let n1 := { n with links := n.links.eraseIdx i }
      let n2 := if out < 16 then n1.push t (farInput out) x.2.2 else { n1 with gutter := some (t, x.2.2) }
      { s with net := n2.linkOk router out }
    | none => s
  | _, _ => s

/-- The retries in a row after whose failure a link is reported (R347). -/
def retryLimit : Nat := 16

/-- LINK_FAILURE_REPORT (R347): the package controller receives the failure among its events (R360), once in a run of
failures, and the link goes on retrying. R360 lists no event kind for it: the kind is a free value (DESIGN CHOICE log 57). -/
def execLinkFailureReport (router out : Nat) (s : State) : Out :=
  let n := s.net
  if retryLimit < n.retryCount router out && !(n.reported.contains (router, out)) then
    .next ({ s with net := { n with reported := n.reported ++ [(router, out)] }, free := s.free + 1 }.packageEvent
      { kind := (freeByte s.free).toNat, info := 32 * router + out })
  else .refused (.notEnabled "LINK_FAILURE_REPORT")

/-- A destination that a header may name: an endpoint, or a set of compute cores (R336, R338). -/
def Packet.named (p : Packet) : Bool :=
  if p.set.isEmpty then (deliver? p.dst p.dstPort).isSome else p.set.all fun c => c < 48

/-- A packet as the endpoint of an injection queue sends it: its source is that endpoint, its age is GT (R338). -/
def Packet.from (p : Packet) (router inp gt : Nat) : Packet := { p with src := router, srcPort := inp - firstPort, age := gt }

/-- Packets enter the injection queue of an endpoint, where there is room for all of them (R338). -/
def inject (s : State) (router inp : Nat) (ps : List Packet) : State :=
  if firstPort ≤ inp && (deliver? router (inp - firstPort)).isSome && ps.all Packet.named
      && s.net.room router inp (ps.length - 1) then
    { s with net := ps.foldl (fun n p => n.push router inp (p.from router inp s.gt)) s.net }
  else s

/-- The two packets of a 128-byte line: its lower half, then its upper half (R338). -/
def linePackets (p : Packet) (line : BitVec 1024) : List Packet :=
  [{ p with payload := line.extractLsb' 0 512 }, { p with payload := line.extractLsb' 512 512 }]

end Sys2Proof.Machine
end

