-- ==== Sys2Proof/Machine/Prefix.lean ====
section
/-! DEFINITION. The prefix word (R93 to R97): the checks of the pair, and the latch that the base word reads. -/

namespace Sys2Proof.Machine

open Sys2Proof

/-- The opcodes that use VC (R96). -/
def usesVc (op : Nat) : Bool := op = 0x44 || op = 0x83 || op = 0x94 || op = 0x95 || op = 0x96 || op = 0xA7

/-- A prefix field that its base opcode reserves: VC where it is not used (R96), PRND before `CVT` (R95), PZERO before
`VRED` (R152). -/
def prefixReserved (x : Prefix) (op : Nat) : Bool :=
  (x.vc ≠ 0 && !(usesVc op)) || (x.prnd ≠ 0 && op = 0x92) || (x.pzero && op = 0x5F)

/-- PFX: a pair that is illegal traps (R94, R103); else the prefix acts on the base word, which issues in the same turn
(R95, R97). -/
def execPfx (p : BitVec 5) (n z : BitVec 1) (r : BitVec 3) (t : BitVec 4) (c : BitVec 7) (s : State) : Out :=
  let w := encode (.pfx p n z r t c)
  let x : Prefix := ⟨p.toNat, n = 1, z = 1, r.toNat, t, c.toNat, w⟩
  match s.group? s.cur with
  | none => .fault .noIssuingGroup
  | some g =>
    match fetchWord s s.cur g (g.pc + 4) with
    | none => .next (takeTrap s 0x08 (g.pc + 4))
    | some b =>
      if !(prefixable (opOf b)) then .next (takeTrap s 0x01 b)
      else if prefixReserved x (opOf b) then .next (takeTrap s 0x02 w)
      else .next { s with pfx := some x }

end Sys2Proof.Machine
end

