-- ==== Sys2Proof/Machine/VecInt.lean ====
section
/-! DEFINITION. Integer vector instructions, compares, predicates, lane exchange, reductions, scans and random numbers: opcodes 0x40 to 0x62 (R145 to R154). -/

namespace Sys2Proof.Machine

open Sys2Proof

/-! ### Integer arithmetic (R145) -/

/-- A three-register integer instruction: element i of the result from elements i of va and vb, under T and MW.SAT. -/
def intElems (w : Word) (op st min d a b : Nat) (f : ETypeCode → Bool → Nat → Nat → Nat) (s : State) : Out :=
  vecOp (vDesc w op st min setI d [a, b]) d (fun g l =>
    let t := effType s g
    let x := g.regs.readV a l
    let y := g.regs.readV b l
    elemMap t fun i => f t (mwSat g.regs.mw) (elemAt t x i) (elemAt t y i)) s

/-- An exact integer function of two elements, fitted (R143). -/
def fitted (f : Int → Int → Int) (t : ETypeCode) (sat : Bool) (x y : Nat) : Nat := fit sat t (f (etInt? t x) (etInt? t y))

/-- VADD (R145). -/
def execVadd (st : BitVec 3) (d a b : BitVec 7) (s : State) : Out :=
  intElems (encode (.vadd st d a b)) 0x40 st.toNat 0 d.toNat a.toNat b.toNat (fitted fun x y => x + y) s

/-- VSUB (R145). -/
def execVsub (st : BitVec 3) (d a b : BitVec 7) (s : State) : Out :=
  intElems (encode (.vsub st d a b)) 0x41 st.toNat 0 d.toNat a.toNat b.toNat (fitted fun x y => x - y) s

/-- VMUL: the exact product fitted (R145). -/
def execVmul (st : BitVec 3) (d a b : BitVec 7) (s : State) : Out :=
  intElems (encode (.vmul st d a b)) 0x42 st.toNat 1 d.toNat a.toNat b.toNat (fitted fun x y => x * y) s

/-- VMULH: the high part, whatever MW.SAT holds (R145). -/
def execVmulh (st : BitVec 3) (d a b : BitVec 7) (s : State) : Out :=
  intElems (encode (.vmulh st d a b)) 0x43 st.toNat 1 d.toNat a.toNat b.toNat (fun t _ x y =>
    wrapTo (etWidth t) (etInt? t x * etInt? t y / (2 ^ etWidth t : Nat))) s

/-- VMAD: the product and vd, or the fourth operand, summed exactly (R96, R145). -/
def execVmad (st : BitVec 3) (d a b : BitVec 7) (s : State) : Out :=
  let c := accReg s d.toNat
  vecOp (vDesc (encode (.vmad st d a b)) 0x44 st.toNat 1 setI d.toNat [a.toNat, b.toNat, c]) d.toNat (fun g l =>
    let t := effType s g
    let x := g.regs.readV a.toNat l
    let y := g.regs.readV b.toNat l
    let z := g.regs.readV c l
    elemMap t fun i => fit (mwSat g.regs.mw) t (elemVal t x i * elemVal t y i + elemVal t z i)) s

/-- A whole-register instruction of two sources (R145). -/
def wordOp (w : Word) (op st d a b : Nat) (f : Word → Word → Word) (s : State) : Out :=
  vecOp (vDesc w op st 0 setA d [a, b]) d (fun g l => f (g.regs.readV a l) (g.regs.readV b l)) s

/-- VAND (R145). -/
def execVand (st : BitVec 3) (d a b : BitVec 7) (s : State) : Out :=
  wordOp (encode (.vand st d a b)) 0x45 st.toNat d.toNat a.toNat b.toNat (fun x y => x &&& y) s

/-- VOR (R145). -/
def execVor (st : BitVec 3) (d a b : BitVec 7) (s : State) : Out :=
  wordOp (encode (.vor st d a b)) 0x46 st.toNat d.toNat a.toNat b.toNat (fun x y => x ||| y) s

/-- VXOR (R145). -/
def execVxor (st : BitVec 3) (d a b : BitVec 7) (s : State) : Out :=
  wordOp (encode (.vxor st d a b)) 0x47 st.toNat d.toNat a.toNat b.toNat (fun x y => x ^^^ y) s

/-- An element shifted left by k (R145). -/
def elemShl (w x k : Nat) : Nat := if w ≤ k then 0 else x * 2 ^ k % 2 ^ w

/-- An element shifted right by k, read unsigned (R145). -/
def elemShr (w x k : Nat) : Nat := if w ≤ k then 0 else x / 2 ^ k

/-- An element shifted right by k, read signed (R145). -/
def elemSra (w x k : Nat) : Nat := wrapTo w (signedOf w x / (2 ^ min k (w - 1) : Nat))

/-- VSHL (R145). -/
def execVshl (st : BitVec 3) (d a b : BitVec 7) (s : State) : Out :=
  intElems (encode (.vshl st d a b)) 0x48 st.toNat 0 d.toNat a.toNat b.toNat (fun t _ x k => elemShl (etWidth t) x k) s

/-- VSHR (R145). -/
def execVshr (st : BitVec 3) (d a b : BitVec 7) (s : State) : Out :=
  intElems (encode (.vshr st d a b)) 0x49 st.toNat 0 d.toNat a.toNat b.toNat (fun t _ x k => elemShr (etWidth t) x k) s

/-- VSRA (R145). -/
def execVsra (st : BitVec 3) (d a b : BitVec 7) (s : State) : Out :=
  intElems (encode (.vsra st d a b)) 0x4A st.toNat 0 d.toNat a.toNat b.toNat (fun t _ x k => elemSra (etWidth t) x k) s

/-- VMIN (R145). -/
def execVmin (st : BitVec 3) (d a b : BitVec 7) (s : State) : Out :=
  intElems (encode (.vmin st d a b)) 0x4B st.toNat 0 d.toNat a.toNat b.toNat
    (fun t _ x y => if etInt? t y < etInt? t x then y else x) s

/-- VMAX (R145). -/
def execVmax (st : BitVec 3) (d a b : BitVec 7) (s : State) : Out :=
  intElems (encode (.vmax st d a b)) 0x4C st.toNat 0 d.toNat a.toNat b.toNat
    (fun t _ x y => if etInt? t x < etInt? t y then y else x) s

/-- VABSD: exact, it fits the element unsigned (R145). -/
def execVabsd (st : BitVec 3) (d a b : BitVec 7) (s : State) : Out :=
  intElems (encode (.vabsd st d a b)) 0x4D st.toNat 0 d.toNat a.toNat b.toNat
    (fun t _ x y => (etInt? t x - etInt? t y).natAbs) s

/-! ### Immediates and bit counts (R146) -/

/-- VADDI (R146). -/
def execVaddi (st : BitVec 3) (d a i : BitVec 7) (s : State) : Out :=
  vecOp (vDesc (encode (.vaddi st d a i)) 0x4E st.toNat 0 setI d.toNat [a.toNat]) d.toNat (fun g l =>
    let t := effType s g
    let x := g.regs.readV a.toNat l
    elemMap t fun k => fit (mwSat g.regs.mw) t (elemVal t x k + signedOf 7 i.toNat)) s

/-- VMOVI (R146). -/
def execVmovi (st : BitVec 3) (d : BitVec 7) (i : BitVec 14) (s : State) : Out :=
  vecOp (vDesc (encode (.vmovi st d i)) 0x4F st.toNat 0 setA d.toNat []) d.toNat (fun _ _ => sext 14 i.toNat) s

/-- VBITS (R146). -/
def execVbits (st : BitVec 3) (d a f : BitVec 7) (s : State) : Out :=
  vecOp (vDesc (encode (.vbits st d a f)) 0x50 st.toNat 0 setI d.toNat [a.toNat]) d.toNat (fun g l =>
    let t := effType s g
    let x := g.regs.readV a.toNat l
    elemMap t fun k => bitCount f.toNat (etWidth t) (elemAt t x k)) s

/-! ### Carries (R147) -/

/-- VADDC and VSUBB: the result and the carry or borrow of each lane, through p23. -/
def carryOp (w : Word) (op st d a b : Nat) (f : Nat → Nat → Nat → Nat × Bool) (s : State) : Out :=
  let q := { vDesc w op st 0 setA d [a, b] with
    masked := true, reads := [a, b, codeP 23], writes := [d, codeP 23] }
  issue q s fun g m =>
    if m = 0 then .next (finish s q g)
    else
      let r (l : Nat) := f (g.regs.readV a l).toNat (g.regs.readV b l).toNat (if (g.regs.readP 23).getLsbD l then 1 else 0)
      let z := zeroLanes s g m
      .next (finish s q ((g.result 0 d (vecVal m z fun l => BitVec.ofNat 32 (r l).1)).result 0 (codeP 23)
        (.pred (m ||| z) (maskOf (fun l => (r l).2) &&& m))))

/-- VADDC (R147). -/
def execVaddc (st : BitVec 3) (d a b : BitVec 7) (s : State) : Out :=
  carryOp (encode (.vaddc st d a b)) 0x51 st.toNat d.toNat a.toNat b.toNat
    (fun x y c => (x + y + c, 2 ^ 32 ≤ x + y + c)) s

/-- VSUBB (R147). -/
def execVsubb (st : BitVec 3) (d a b : BitVec 7) (s : State) : Out :=
  carryOp (encode (.vsubb st d a b)) 0x52 st.toNat d.toNat a.toNat b.toNat
    (fun x y c => (x + 2 ^ 33 - y - c, x < y + c)) s

/-! ### Compares, selects and predicates (R148, R149) -/

/-- An instruction with one predicate destination (R148). -/
def predOp (q : Desc) (p : Nat) (f : Group → Nat → Bool) (s : State) : Out :=
  let q := { q with masked := true, writes := [codeP p] }
  issue q s fun g m =>
    if m = 0 then .next (finish s q g)
    else .next (finish s q (g.result 0 (codeP p) (.pred (m ||| zeroLanes s g m) (maskOf (f g) &&& m))))

/-- A 32-bit value of I32 or N32. -/
def wInt (t : ETypeCode) (w : Word) : Int := etInt? t w.toNat

/-- A compare of va and vb into a predicate, signed for I32 and unsigned for N32. -/
def compareOp (w : Word) (op st p a b : Nat) (f : ETypeCode → Word → Word → Bool) (s : State) : Out :=
  predOp { word := w, op := op, st := st, vtop := topOf [a, b], types := setW, reads := [a, b] } p (fun g l =>
    f (effType s g) (g.regs.readV a l) (g.regs.readV b l)) s

/-- VCMP (R148). -/
def execVcmp (st : BitVec 3) (p : BitVec 5) (c : BitVec 2) (a b : BitVec 7) (s : State) : Out :=
  compareOp (encode (.vcmp st p c a b)) 0x53 st.toNat p.toNat a.toNat b.toNat (fun t x y =>
    match c.toNat with
    | 0 => x = y
    | 1 => x ≠ y
    | 2 => wInt t x < wInt t y
    | _ => wInt t x ≤ wInt t y) s

/-- VCMPX (R148). -/
def execVcmpx (st : BitVec 3) (p : BitVec 5) (c : BitVec 2) (a b : BitVec 7) (s : State) : Out :=
  compareOp (encode (.vcmpx st p c a b)) 0x54 st.toNat p.toNat a.toNat b.toNat (fun t x y =>
    match c.toNat with
    | 0 => wInt t y < wInt t x
    | 1 => wInt t y ≤ wInt t x
    | 2 => x &&& y = 0
    | _ => x &&& y ≠ 0) s

/-- VSEL selects by the old vd (R148). -/
def execVsel (st : BitVec 3) (d a b : BitVec 7) (s : State) : Out :=
  vecOp (vDesc (encode (.vsel st d a b)) 0x55 st.toNat 0 setA d.toNat [d.toNat, a.toNat, b.toNat]) d.toNat (fun g l =>
    if g.regs.readV d.toNat l ≠ 0 then g.regs.readV a.toNat l else g.regs.readV b.toNat l) s

/-- VMOV (R148). -/
def execVmov (st : BitVec 3) (d a : BitVec 7) (s : State) : Out :=
  vecOp (vDesc (encode (.vmov st d a)) 0x56 st.toNat 0 setA d.toNat [a.toNat]) d.toNat (fun g l => g.regs.readV a.toNat l) s

/-- The functions of PLOG (R148). -/
def predLogic (f : Nat) (x y : Bool) : Bool :=
  match f with
  | 0 => x && y
  | 1 => x || y
  | 2 => x != y
  | 3 => x && !y
  | 4 => x || !y
  | 5 => !(x && y)
  | 6 => !(x || y)
  | _ => x == y

/-- PLOG (R148). -/
def execPlog (st : BitVec 3) (d a b : BitVec 5) (f : BitVec 3) (s : State) : Out :=
  predOp { word := encode (.plog st d a b f), op := 0x57, st := st.toNat, reads := [codeP a.toNat, codeP b.toNat] }
    d.toNat (fun g l => predLogic f.toNat ((g.regs.readP a.toNat).getLsbD l) ((g.regs.readP b.toNat).getLsbD l)) s

/-- PSET: false, true, a copy or an inverse (R148). -/
def execPset (st : BitVec 3) (d a : BitVec 5) (f : BitVec 3) (s : State) : Out :=
  predOp { word := encode (.pset st d a f), op := 0x58, st := st.toNat
           reads := if f.toNat < 2 then [] else [codeP a.toNat] } d.toNat (fun g l =>
    match f.toNat with
    | 0 => false
    | 1 => true
    | 2 => (g.regs.readP a.toNat).getLsbD l
    | _ => !(g.regs.readP a.toNat).getLsbD l) s

/-- The 24 predicates of a lane as bits 23 to 0 (R148). -/
def predBits (r : Regs) (l : Nat) : Word :=
  BitVec.ofNat 32 ((List.range 24).foldl (fun a j => if (r.readP j).getLsbD l then a + 2 ^ j else a) 0)

/-- PGET: one predicate, or all of them with imm7 = 127 (R148). -/
def execPget (st : BitVec 3) (d i : BitVec 7) (s : State) : Out :=
  vecOp { vDesc (encode (.pget st d i)) 0x59 st.toNat 0 setA d.toNat [] with
          reads := if i.toNat = 127 then (List.range 24).map codeP else [codeP i.toNat] } d.toNat (fun g l =>
    if i.toNat = 127 then predBits g.regs l else if (g.regs.readP i.toNat).getLsbD l then 1 else 0) s

/-- BALLOT: four scalars, whatever the masks; s60 to s63 by R32 (R149). -/
def execBallot (st : BitVec 3) (d : BitVec 6) (p : BitVec 5) (s : State) : Out :=
  let ds := (List.range 4).map fun j => codeS (d.toNat + j)
  let q : Desc := { word := encode (.ballot st d p), op := 0x5A, st := st.toNat, masked := true
                    reads := [codeP p.toNat], writes := ds, fixed := ds }
  issue q s fun g m =>
    let bits := m &&& g.regs.readP p.toNat
    .next (finish s q (g.results 0 ((List.range 4).map fun j => (codeS (d.toNat + j), .scal (maskWord bits j)))))

/-- PFROM: bit k of va into pd, or bits 23 to 0 into p23 to p0 (R148). -/
def execPfrom (st : BitVec 3) (p : BitVec 5) (c : BitVec 2) (a b : BitVec 7) (s : State) : Out :=
  let q : Desc := { word := encode (.pfrom st p c a b), op := 0x5B, st := st.toNat, vtop := a.toNat + 1, reads := [a.toNat] }
  if c = 0 then predOp q p.toNat (fun g l => (g.regs.readV a.toNat l).getLsbD b.toNat) s
  else
    let q := { q with masked := true, writes := (List.range 24).map codeP }
    issue q s fun g m =>
      if m = 0 then .next (finish s q g)
      else .next (finish s q (g.results 0 ((List.range 24).map fun j =>
        (codeP j, .pred (m ||| zeroLanes s g m) (maskOf (fun l => (g.regs.readV a.toNat l).getLsbD j) &&& m)))))

/-! ### Lane exchange (R150) -/

/-- SHFL (R150). -/
def execShfl (st : BitVec 3) (d a b : BitVec 7) (s : State) : Out :=
  vecOp (vDesc (encode (.shfl st d a b)) 0x5C st.toNat 1 setA d.toNat [a.toNat, b.toNat]) d.toNat (fun g l =>
    g.regs.readV a.toNat ((g.regs.readV b.toNat l).toNat % 128)) s

/-- SHFLX (R150). -/
def execShflx (st : BitVec 3) (d a i : BitVec 7) (s : State) : Out :=
  vecOp (vDesc (encode (.shflx st d a i)) 0x5D st.toNat 1 setA d.toNat [a.toNat]) d.toNat (fun g l =>
    g.regs.readV a.toNat (Nat.xor l i.toNat)) s

/-- BCAST (R150). -/
def execBcast (st : BitVec 3) (d a i : BitVec 7) (s : State) : Out :=
  vecOp (vDesc (encode (.bcast st d a i)) 0x5E st.toNat 1 setA d.toNat [a.toNat]) d.toNat (fun g _ =>
    g.regs.readV a.toNat i.toNat) s

/-- LANEID (R150). -/
def execLaneid (st : BitVec 3) (d : BitVec 7) (s : State) : Out :=
  vecOp (vDesc (encode (.laneid st d)) 0x61 st.toNat 0 setA d.toNat []) d.toNat (fun _ l => BitVec.ofNat 32 l) s

/-! ### Reductions and scans (R151 to R153) -/

/-- The types of a reduction (R151). -/
def redTypes (o : Nat) : List ETypeCode := if o < 6 then setW else setG

/-- The smallest or largest term that is not a NaN, -0 below +0; the terms' bits after R111 (R151). -/
def extremeTerm (less : Bool) : List Nat → Option Nat
  | [] => none
  | x :: xs =>
    if (decodeFloat .f32 x).isNan then extremeTerm less xs
    else match extremeTerm less xs with
      | none => some x
      | some y =>
        let a := decodeFloat .f32 x
        let b := decodeFloat .f32 y
        if FVal.eqv a b then some (if a.neg == less then x else y)
        else some (if FVal.lt a b == less then x else y)

/-- A reduction over terms in the order of their lanes (R151): the result and its flags. -/
def reduce (o : Nat) (t : ETypeCode) (sat ftz : Bool) (rnd : RndMode) (xs : List Word) : Word × FlagBits :=
  let ns := xs.map BitVec.toNat
  match o with
  | 0 => (BitVec.ofNat 32 (fit sat t ((ns.map (etInt? t)).foldl (fun a x => a + x) 0)), 0)
  | 1 => (BitVec.ofInt 32 ((ns.map (etInt? t)).foldl (fun a x => min a x) (etRange t).2), 0)
  | 2 => (BitVec.ofInt 32 ((ns.map (etInt? t)).foldl (fun a x => max a x) (etRange t).1), 0)
  | 3 => (xs.foldl (fun a x => a &&& x) 0xFFFFFFFF, 0)
  | 4 => (xs.foldl (fun a x => a ||| x) 0, 0)
  | 5 => (xs.foldl (fun a x => a ^^^ x) 0, 0)
  | 6 =>
    if xs.isEmpty then (0x80000000, 0)
    else
      let r := sumRound .f32 rnd ftz false (ns.map (readFloat .f32 ftz))
      (BitVec.ofNat 32 r.1, r.2)
  | _ =>
    let less : Bool := o = 7
    if xs.isEmpty then (if less then 0x7F800000 else 0xFF800000, 0)
    else
      let bs := ns.map (flushBits .f32 ftz)
      let fl := flagIf (bs.any fun x => (decodeFloat .f32 x).snan) flagIV
      (BitVec.ofNat 32 ((extremeTerm less bs).getD (Fmt.qnan .f32)), fl)

/-- The reduction of va over some lanes. -/
def reduceLanes (s : State) (g : Group) (o a : Nat) (ls : List Nat) : Word × FlagBits :=
  reduce o (effType s g) (mwSat g.regs.mw) (mwFtz g.regs.mw) (effRnd s g) (ls.map fun l => g.regs.readV a l)

/-- The lane that an enabled condition of VRED names (R152). -/
def redLane (g : Group) (a c : Nat) (m : Mask) : Nat :=
  let sig := (activeLanes m).find? fun l => (decodeFloat .f32 (g.regs.readV a l).toNat).snan
  match c, sig with
  | 0x20, some l => l
  | _, _ => (lowestLane m).getD 0

/-- VRED: the result in every lane of the activity mask, also under an empty effective mask (R36, R152). -/
def execVred (st : BitVec 3) (d a : BitVec 7) (o : BitVec 4) (s : State) : Out :=
  let q := { vDesc (encode (.vred st d a o)) 0x5F st.toNat 2 (redTypes o.toNat) d.toNat [a.toNat] with
    masked := true, writes := [d.toNat], fixed := [d.toNat] }
  issue q s fun g m =>
    let r := reduceLanes s g o.toNat a.toNat (activeLanes m)
    match enabledCause g.regs.mw r.2 with
    | some c => .next (takeTrap s c (BitVec.ofNat 32 (redLane g a.toNat c m)))
    | none => .next (finish s q ((g.raise r.2).result 2 d.toNat (vecVal g.regs.act 0 fun _ => r.1)))

/-- VSCAN: the prefix of each lane over the effective mask (R153). -/
def execVscan (st : BitVec 3) (d a : BitVec 7) (e : BitVec 1) (o : BitVec 4) (s : State) : Out :=
  let q := { vDesc (encode (.vscan st d a e o)) 0x60 st.toNat 2 (redTypes o.toNat) d.toNat [a.toNat] with
    masked := true, writes := [d.toNat] }
  issue q s fun g m =>
    if m = 0 then .next (finish s q g)
    else
      let rs := laneResults (0, 0) m fun l =>
        reduceLanes s g o.toNat a.toNat ((activeLanes m).filter fun k => k < l || (e = 0 && k = l))
      withFlags s g (laneFlags (rs.map Prod.snd)) fun g1 =>
        .next (finish s q (g1.result 2 d.toNat (.vec (m ||| zeroLanes s g m) (rs.map Prod.fst))))

/-! ### Random numbers (R154) -/

/-- `rng_out` of R154. -/
def rngOut (k c : DWord) (l : Nat) : Word :=
  let z := c * 128 + BitVec.ofNat 64 l + k
  let z := (z ^^^ (z >>> 30)) * 0xBF58476D1CE4E5B9
  let z := (z ^^^ (z >>> 27)) * 0x94D049BB133111EB
  let z := z ^^^ (z >>> 31)
  z.extractLsb' 32 32

/-- RNG: a number for each active lane, then the counter rises by one (R154). -/
def execRng (st : BitVec 3) (d : BitVec 7) (s : State) : Out :=
  let q := { vDesc (encode (.rng st d)) 0x62 st.toNat 1 setA d.toNat [] with masked := true, writes := [d.toNat] }
  issue q s fun g m =>
    if m = 0 then .next (finish s q g)
    else
      let g1 := g.result 1 d.toNat (vecVal m (zeroLanes s g m) (rngOut g.regs.rngKey g.regs.rngCtr))
      .next (finish s q { g1 with regs := { g1.regs with rngCtr := g1.regs.rngCtr + 1 } })

end Sys2Proof.Machine
end

