-- ==== Sys2Proof/Machine/Dispatch.lean ====
section
/-! DEFINITION. One arm for each instruction and each step: its meaning. -/

namespace Sys2Proof.Machine

open Sys2Proof

/-- What an instruction, or a step of the device, does in a state. -/
def exec (i : Instr) (s : State) : Host.Outcome State Fault Refusal :=
  match i with
  | .nop st => Sys2Proof.Machine.execNop st s
  | .bra st d => Sys2Proof.Machine.execBra st d s
  | .call st d => Sys2Proof.Machine.execCall st d s
  | .ret st => Sys2Proof.Machine.execRet st s
  | .jmpi st d a f => Sys2Proof.Machine.execJmpi st d a f s
  | .brnz st a d => Sys2Proof.Machine.execBrnz st a d s
  | .brz st a d => Sys2Proof.Machine.execBrz st a d s
  | .ssy st d => Sys2Proof.Machine.execSsy st d s
  | .brp st p d => Sys2Proof.Machine.execBrp st p d s
  | .brpn st p d => Sys2Proof.Machine.execBrpn st p d s
  | .sync st => Sys2Proof.Machine.execSync st s
  | .loop st a d => Sys2Proof.Machine.execLoop st a d s
  | .exit st => Sys2Proof.Machine.execExit st s
  | .bar st b => Sys2Proof.Machine.execBar st b s
  | .barArv st b => Sys2Proof.Machine.execBarArv st b s
  | .barWait st b => Sys2Proof.Machine.execBarWait st b s
  | .barinit st b n => Sys2Proof.Machine.execBarinit st b n s
  | .phint st a b => Sys2Proof.Machine.execPhint st a b s
  | .setmw st im => Sys2Proof.Machine.execSetmw st im s
  | .getmw st d => Sys2Proof.Machine.execGetmw st d s
  | .chain st n => Sys2Proof.Machine.execChain st n s
  | .trap st im => Sys2Proof.Machine.execTrap st im s
  | .rft st => Sys2Proof.Machine.execRft st s
  | .rftNext st => Sys2Proof.Machine.execRftNext st s
  | .esc st im => Sys2Proof.Machine.execEsc st im s
  | .brkpt st im => Sys2Proof.Machine.execBrkpt st im s
  | .sysrd st d r => Sys2Proof.Machine.execSysrd st d r s
  | .syswr st a r => Sys2Proof.Machine.execSyswr st a r s
  | .syswrSet st a r => Sys2Proof.Machine.execSyswrSet st a r s
  | .syswrClr st a r => Sys2Proof.Machine.execSyswrClr st a r s
  | .waitgt st a f => Sys2Proof.Machine.execWaitgt st a f s
  | .gtime st d => Sys2Proof.Machine.execGtime st d s
  | .ipref st d => Sys2Proof.Machine.execIpref st d s
  | .sadd st d a b f => Sys2Proof.Machine.execSadd st d a b f s
  | .ssub st d a b f => Sys2Proof.Machine.execSsub st d a b f s
  | .smul st d a b f => Sys2Proof.Machine.execSmul st d a b f s
  | .smulh st d a b f => Sys2Proof.Machine.execSmulh st d a b f s
  | .sand st d a b => Sys2Proof.Machine.execSand st d a b s
  | .sor st d a b => Sys2Proof.Machine.execSor st d a b s
  | .sxor st d a b => Sys2Proof.Machine.execSxor st d a b s
  | .sshl st d a b => Sys2Proof.Machine.execSshl st d a b s
  | .sshr st d a b => Sys2Proof.Machine.execSshr st d a b s
  | .ssra st d a b => Sys2Proof.Machine.execSsra st d a b s
  | .smin st d a b f => Sys2Proof.Machine.execSmin st d a b f s
  | .smax st d a b f => Sys2Proof.Machine.execSmax st d a b f s
  | .scmp st d a b f => Sys2Proof.Machine.execScmp st d a b f s
  | .ssel st d a b => Sys2Proof.Machine.execSsel st d a b s
  | .saddi st d a im => Sys2Proof.Machine.execSaddi st d a im s
  | .smovi st d im => Sys2Proof.Machine.execSmovi st d im s
  | .smovh st d im => Sys2Proof.Machine.execSmovh st d im s
  | .sbits st d a f => Sys2Proof.Machine.execSbits st d a f s
  | .sdiv st d a b f => Sys2Proof.Machine.execSdiv st d a b f s
  | .s2v st v a => Sys2Proof.Machine.execS2v st v a s
  | .v2s st v d n => Sys2Proof.Machine.execV2s st v d n s
  | .vadd st d a b => Sys2Proof.Machine.execVadd st d a b s
  | .vsub st d a b => Sys2Proof.Machine.execVsub st d a b s
  | .vmul st d a b => Sys2Proof.Machine.execVmul st d a b s
  | .vmulh st d a b => Sys2Proof.Machine.execVmulh st d a b s
  | .vmad st d a b => Sys2Proof.Machine.execVmad st d a b s
  | .vand st d a b => Sys2Proof.Machine.execVand st d a b s
  | .vor st d a b => Sys2Proof.Machine.execVor st d a b s
  | .vxor st d a b => Sys2Proof.Machine.execVxor st d a b s
  | .vshl st d a b => Sys2Proof.Machine.execVshl st d a b s
  | .vshr st d a b => Sys2Proof.Machine.execVshr st d a b s
  | .vsra st d a b => Sys2Proof.Machine.execVsra st d a b s
  | .vmin st d a b => Sys2Proof.Machine.execVmin st d a b s
  | .vmax st d a b => Sys2Proof.Machine.execVmax st d a b s
  | .vabsd st d a b => Sys2Proof.Machine.execVabsd st d a b s
  | .vaddi st d a im => Sys2Proof.Machine.execVaddi st d a im s
  | .vmovi st d im => Sys2Proof.Machine.execVmovi st d im s
  | .vbits st d a f => Sys2Proof.Machine.execVbits st d a f s
  | .vaddc st d a b => Sys2Proof.Machine.execVaddc st d a b s
  | .vsubb st d a b => Sys2Proof.Machine.execVsubb st d a b s
  | .vcmp st p c a b => Sys2Proof.Machine.execVcmp st p c a b s
  | .vcmpx st p c a b => Sys2Proof.Machine.execVcmpx st p c a b s
  | .vsel st d a b => Sys2Proof.Machine.execVsel st d a b s
  | .vmov st d a => Sys2Proof.Machine.execVmov st d a s
  | .plog st d a b f => Sys2Proof.Machine.execPlog st d a b f s
  | .pset st d a f => Sys2Proof.Machine.execPset st d a f s
  | .pget st d im => Sys2Proof.Machine.execPget st d im s
  | .ballot st d p => Sys2Proof.Machine.execBallot st d p s
  | .pfrom st p c a b => Sys2Proof.Machine.execPfrom st p c a b s
  | .shfl st d a b => Sys2Proof.Machine.execShfl st d a b s
  | .shflx st d a im => Sys2Proof.Machine.execShflx st d a im s
  | .bcast st d a im => Sys2Proof.Machine.execBcast st d a im s
  | .vred st d a o => Sys2Proof.Machine.execVred st d a o s
  | .vscan st d a e o => Sys2Proof.Machine.execVscan st d a e o s
  | .laneid st d => Sys2Proof.Machine.execLaneid st d s
  | .rng st d => Sys2Proof.Machine.execRng st d s
  | .fadd st d a b => Sys2Proof.Machine.execFadd st d a b s
  | .fsub st d a b => Sys2Proof.Machine.execFsub st d a b s
  | .fmul st d a b => Sys2Proof.Machine.execFmul st d a b s
  | .ffma st d a b => Sys2Proof.Machine.execFfma st d a b s
  | .fmin st d a b => Sys2Proof.Machine.execFmin st d a b s
  | .fmax st d a b => Sys2Proof.Machine.execFmax st d a b s
  | .fabs st d a => Sys2Proof.Machine.execFabs st d a s
  | .fneg st d a => Sys2Proof.Machine.execFneg st d a s
  | .fcmp st p c a b => Sys2Proof.Machine.execFcmp st p c a b s
  | .fcmpx st p c a b => Sys2Proof.Machine.execFcmpx st p c a b s
  | .fclass st d a => Sys2Proof.Machine.execFclass st d a s
  | .frnd st d a => Sys2Proof.Machine.execFrnd st d a s
  | .fdiv st d a b => Sys2Proof.Machine.execFdiv st d a b s
  | .fsqrt st d a => Sys2Proof.Machine.execFsqrt st d a s
  | .fspec st d a f => Sys2Proof.Machine.execFspec st d a f s
  | .tblev st d a t => Sys2Proof.Machine.execTblev st d a t s
  | .tblld st a b t => Sys2Proof.Machine.execTblld st a b t s
  | .tblsw st t => Sys2Proof.Machine.execTblsw st t s
  | .cvt st d a t r => Sys2Proof.Machine.execCvt st d a t r s
  | .rqnt st v a => Sys2Proof.Machine.execRqnt st v a s
  | .dot4 st d a b => Sys2Proof.Machine.execDot4 st d a b s
  | .dot8 st d a b => Sys2Proof.Machine.execDot8 st d a b s
  | .dot2 st d a b => Sys2Proof.Machine.execDot2 st d a b s
  | .pack st d a b => Sys2Proof.Machine.execPack st d a b s
  | .unpk st d a h => Sys2Proof.Machine.execUnpk st d a h s
  | .setq st w => Sys2Proof.Machine.execSetq st w s
  | .getq st w => Sys2Proof.Machine.execGetq st w s
  | .maddq st d a b => Sys2Proof.Machine.execMaddq st d a b s
  | .msubq st d a b => Sys2Proof.Machine.execMsubq st d a b s
  | .mnegq st d a => Sys2Proof.Machine.execMnegq st d a s
  | .mmulq st d a b => Sys2Proof.Machine.execMmulq st d a b s
  | .mmuls st d e w => Sys2Proof.Machine.execMmuls st d e w s
  | .mfmaq st d a b => Sys2Proof.Machine.execMfmaq st d a b s
  | .mredq st d a => Sys2Proof.Machine.execMredq st d a s
  | .mctrq st d a => Sys2Proof.Machine.execMctrq st d a s
  | .bfly st d e w t v => Sys2Proof.Machine.execBfly st d e w t v s
  | .pbf st d e t => Sys2Proof.Machine.execPbf st d e t s
  | .pbrev st d e k => Sys2Proof.Machine.execPbrev st d e k s
  | .prot st d e r k v => Sys2Proof.Machine.execProt st d e r k v s
  | .mulw st d a b => Sys2Proof.Machine.execMulw st d a b s
  | .mshoup st d a => Sys2Proof.Machine.execMshoup st d a s
  | .ld st d c o z => Sys2Proof.Machine.execLd st d c o z s
  | .st st d c o z => Sys2Proof.Machine.execSt st d c o z s
  | .lds st d a im => Sys2Proof.Machine.execLds st d a im s
  | .sts st d a im => Sys2Proof.Machine.execSts st d a im s
  | .ldu st d c im => Sys2Proof.Machine.execLdu st d c im s
  | .stu st d c im => Sys2Proof.Machine.execStu st d c im s
  | .atom st d c o f => Sys2Proof.Machine.execAtom st d c o f s
  | .atomx st d c o f => Sys2Proof.Machine.execAtomx st d c o f s
  | .atoms st d o f => Sys2Proof.Machine.execAtoms st d o f s
  | .fence st c k => Sys2Proof.Machine.execFence st c k s
  | .waitm st d c im => Sys2Proof.Machine.execWaitm st d c im s
  | .capld st d c im => Sys2Proof.Machine.execCapld st d c im s
  | .capst st d c im => Sys2Proof.Machine.execCapst st d c im s
  | .capsub st d a b => Sys2Proof.Machine.execCapsub st d a b s
  | .capinfo st d a => Sys2Proof.Machine.execCapinfo st d a s
  | .bmode st d a b => Sys2Proof.Machine.execBmode st d a b s
  | .bmodeQ st d a => Sys2Proof.Machine.execBmodeQ st d a s
  | .cpy st a c d r => Sys2Proof.Machine.execCpy st a c d r s
  | .cpyt st a c d l r => Sys2Proof.Machine.execCpyt st a c d l r s
  | .cpym st a c o r => Sys2Proof.Machine.execCpym st a c o r s
  | .cpyg st a c f => Sys2Proof.Machine.execCpyg st a c f s
  | .cpys st a c f => Sys2Proof.Machine.execCpys st a c f s
  | .cred st a c d o r => Sys2Proof.Machine.execCred st a c d o r s
  | .cbatch st d => Sys2Proof.Machine.execCbatch st d s
  | .cwait st d c => Sys2Proof.Machine.execCwait st d c s
  | .ctest st d c => Sys2Proof.Machine.execCtest st d c s
  | .ctoken st c a b f => Sys2Proof.Machine.execCtoken st c a b f s
  | .boinit st n a => Sys2Proof.Machine.execBoinit st n a s
  | .bowait st n => Sys2Proof.Machine.execBowait st n s
  | .botest st d n => Sys2Proof.Machine.execBotest st d n s
  | .mlay st n a => Sys2Proof.Machine.execMlay st n a s
  | .mlayGet st n a => Sys2Proof.Machine.execMlayGet st n a s
  | .mgang st a => Sys2Proof.Machine.execMgang st a s
  | .mgangGet st d => Sys2Proof.Machine.execMgangGet st d s
  | .mma st t a l r => Sys2Proof.Machine.execMma st t a l r s
  | .mmas st t a l r p => Sys2Proof.Machine.execMmas st t a l r p s
  | .accz st t n => Sys2Proof.Machine.execAccz st t n s
  | .accld st a c l f => Sys2Proof.Machine.execAccld st a c l f s
  | .accst st a c l r x f => Sys2Proof.Machine.execAccst st a c l r x f s
  | .accalloc st d n p => Sys2Proof.Machine.execAccalloc st d n p s
  | .accallocQ st d => Sys2Proof.Machine.execAccallocQ st d s
  | .accfree st a n => Sys2Proof.Machine.execAccfree st a n s
  | .mrel st => Sys2Proof.Machine.execMrel st s
  | .wyield st => Sys2Proof.Machine.execWyield st s
  | .wclose st => Sys2Proof.Machine.execWclose st s
  | .wemit st d t k => Sys2Proof.Machine.execWemit st d t k s
  | .wmerge st => Sys2Proof.Machine.execWmerge st s
  | .winfo st d p => Sys2Proof.Machine.execWinfo st d p s
  | .wmark st d => Sys2Proof.Machine.execWmark st d s
  | .rpost st d a m => Sys2Proof.Machine.execRpost st d a m s
  | .bpost st d a => Sys2Proof.Machine.execBpost st d a s
  | .wext st a => Sys2Proof.Machine.execWext st a s
  | .wdq st a => Sys2Proof.Machine.execWdq st a s
  | .srwait st h r l => Sys2Proof.Machine.execSrwait st h r l s
  | .srwaitR st a r => Sys2Proof.Machine.execSrwaitR st a r s
  | .srsig st r l => Sys2Proof.Machine.execSrsig st r l s
  | .srsigR st a r => Sys2Proof.Machine.execSrsigR st a r s
  | .cntwait st d a f => Sys2Proof.Machine.execCntwait st d a f s
  | .cancel st a f => Sys2Proof.Machine.execCancel st a f s
  | .launchq st d a c => Sys2Proof.Machine.execLaunchq st d a c s
  | .pfx p n z r t c => Sys2Proof.Machine.execPfx p n z r t c s
  | .undefinedOpcode w => Sys2Proof.Machine.execUndefinedOpcode w s
  | .instructionFetchFault off => Sys2Proof.Machine.execInstructionFetchFault off s
  | .watchdog core slot grp => Sys2Proof.Machine.execWatchdog core slot grp s
  | .priorityAging launch => Sys2Proof.Machine.execPriorityAging launch s
  | .eviction core slot => Sys2Proof.Machine.execEviction core slot s
  | .launchEntry part queue => Sys2Proof.Machine.execLaunchEntry part queue s
  | .waitCounterEntry part queue => Sys2Proof.Machine.execWaitCounterEntry part queue s
  | .signalCounterEntry part queue => Sys2Proof.Machine.execSignalCounterEntry part queue s
  | .streamAttach part queue => Sys2Proof.Machine.execStreamAttach part queue s
  | .streamDetach part queue => Sys2Proof.Machine.execStreamDetach part queue s
  | .queueCreate part queue => Sys2Proof.Machine.execQueueCreate part queue s
  | .queueDestroy part queue => Sys2Proof.Machine.execQueueDestroy part queue s
  | .cancelEntry part queue => Sys2Proof.Machine.execCancelEntry part queue s
  | .cancelComplete launch => Sys2Proof.Machine.execCancelComplete launch s
  | .preEmptEntry part queue => Sys2Proof.Machine.execPreEmptEntry part queue s
  | .forcedSave core slot => Sys2Proof.Machine.execForcedSave core slot s
  | .crewSave core slot => Sys2Proof.Machine.execCrewSave core slot s
  | .crewRestore launch crew core => Sys2Proof.Machine.execCrewRestore launch crew core s
  | .launchEligible launch => Sys2Proof.Machine.execLaunchEligible launch s
  | .launchComplete launch => Sys2Proof.Machine.execLaunchComplete launch s
  | .waitgtDeadline core slot grp => Sys2Proof.Machine.execWaitgtDeadline core slot grp s
  | .waitmPoll core slot grp => Sys2Proof.Machine.execWaitmPoll core slot grp s
  | .homeLoad msg => Sys2Proof.Machine.execHomeLoad msg s
  | .gatewayLoad msg => Sys2Proof.Machine.execGatewayLoad msg s
  | .homeWrite msg => Sys2Proof.Machine.execHomeWrite msg s
  | .homeAtomic msg => Sys2Proof.Machine.execHomeAtomic msg s
  | .storeAck msg => Sys2Proof.Machine.execStoreAck msg s
  | .loadResponse msg => Sys2Proof.Machine.execLoadResponse msg s
  | .jobStart core job => Sys2Proof.Machine.execJobStart core job s
  | .jobComplete core job => Sys2Proof.Machine.execJobComplete core job s
  | .multicastDelivery msg => Sys2Proof.Machine.execMulticastDelivery msg s
  | .wdQuery core job => Sys2Proof.Machine.execWdQuery core job s
  | .matrixJobStart core job => Sys2Proof.Machine.execMatrixJobStart core job s
  | .matrixJobComplete core job => Sys2Proof.Machine.execMatrixJobComplete core job s
  | .accownTakeEffect core region => Sys2Proof.Machine.execAccownTakeEffect core region s
  | .tableSwap core table => Sys2Proof.Machine.execTableSwap core table s
  | .recordIngress msg => Sys2Proof.Machine.execRecordIngress msg s
  | .recordAccept msg => Sys2Proof.Machine.execRecordAccept msg s
  | .wakeStart core launch entry count => Sys2Proof.Machine.execWakeStart core launch entry count s
  | .rpostOrdAcceptance msg => Sys2Proof.Machine.execRpostOrdAcceptance msg s
  | .nodeBinTimer part bin => Sys2Proof.Machine.execNodeBinTimer part bin s
  | .backInvalidationResponse msg => Sys2Proof.Machine.execBackInvalidationResponse msg s
  | .bridgeFilter msg => Sys2Proof.Machine.execBridgeFilter msg s
  | .otinvDone part => Sys2Proof.Machine.execOtinvDone part s
  | .scrubDone part => Sys2Proof.Machine.execScrubDone part s
  | .perfStateChange stack => Sys2Proof.Machine.execPerfStateChange stack s
  | .debugStopComplete part => Sys2Proof.Machine.execDebugStopComplete part s
  | .fwloadResult part => Sys2Proof.Machine.execFwloadResult part s
  | .variableLatencyResult core slot grp result => Sys2Proof.Machine.execVariableLatencyResult core slot grp result s
  | .globalWriteCompletionTimeReached core slot grp => Sys2Proof.Machine.execGlobalWriteCompletionTimeReached core slot grp s
  | .gatewayFillResponse msg => Sys2Proof.Machine.execGatewayFillResponse msg s
  | .slateFetchComplete core launch slate => Sys2Proof.Machine.execSlateFetchComplete core launch slate s
  | .cxlCacheGloballyObserved msg => Sys2Proof.Machine.execCxlCacheGloballyObserved msg s
  | .kick part queue off size val => Sys2Proof.Machine.execKick part queue off size val s
  | .pageResponse part index code frames => Sys2Proof.Machine.execPageResponse part index code frames s
  | .atsInvalidation part va pages => Sys2Proof.Machine.execAtsInvalidation part va pages s
  | .escQueuePop core => Sys2Proof.Machine.execEscQueuePop core s
  | .escCompletion core val => Sys2Proof.Machine.execEscCompletion core val s
  | .supervisorEventPost core data => Sys2Proof.Machine.execSupervisorEventPost core data s
  | .groupWindowAccess core off write => Sys2Proof.Machine.execGroupWindowAccess core off write s
  | .scratchpadWindowAccess core off write => Sys2Proof.Machine.execScratchpadWindowAccess core off write s
  | .hostHdmAccess part off write => Sys2Proof.Machine.execHostHdmAccess part off write s
  | .registerWrite part off val => Sys2Proof.Machine.execRegisterWrite part off val s
  | .otinv part val => Sys2Proof.Machine.execOtinv part val s
  | .scrub part val => Sys2Proof.Machine.execScrub part val s
  | .psreqWrite part val => Sys2Proof.Machine.execPsreqWrite part val s
  | .clampRaise stack die value => Sys2Proof.Machine.execClampRaise stack die value s
  | .clampReturn stack die value => Sys2Proof.Machine.execClampReturn stack die value s
  | .dbgAttach part core slot => Sys2Proof.Machine.execDbgAttach part core slot s
  | .dbgDetach part core slot => Sys2Proof.Machine.execDbgDetach part core slot s
  | .dbgStop part core slot => Sys2Proof.Machine.execDbgStop part core slot s
  | .dbgStopGroup part core slot grp => Sys2Proof.Machine.execDbgStopGroup part core slot grp s
  | .dbgResume part core slot => Sys2Proof.Machine.execDbgResume part core slot s
  | .dbgStep part core slot grp => Sys2Proof.Machine.execDbgStep part core slot grp s
  | .corerst part val => Sys2Proof.Machine.execCorerst part val s
  | .fwload part val => Sys2Proof.Machine.execFwload part val s
  | .bind part port function cores slices ways hypervisor => Sys2Proof.Machine.execBind part port function cores slices ways hypervisor s
  | .rebind giver taker cores slices => Sys2Proof.Machine.execRebind giver taker cores slices s
  | .rebindComplete => Sys2Proof.Machine.execRebindComplete s
  | .ways gateway part mask => Sys2Proof.Machine.execWays gateway part mask s
  | .nett ticks => Sys2Proof.Machine.execNett ticks s
  | .pscap stack cap => Sys2Proof.Machine.execPscap stack cap s
  | .clamp stack thermal current => Sys2Proof.Machine.execClamp stack thermal current s
  | .enroll slot ecDigest lmsDigest role signer => Sys2Proof.Machine.execEnroll slot ecDigest lmsDigest role signer s
  | .revoke slot signer => Sys2Proof.Machine.execRevoke slot signer s
  | .svn image version => Sys2Proof.Machine.execSvn image version s
  | .powerOnReset => Sys2Proof.Machine.execPowerOnReset s
  | .eccError owner line uncorrectable => Sys2Proof.Machine.execEccError owner line uncorrectable s
  | .spdmSession establish digest => Sys2Proof.Machine.execSpdmSession establish digest s
  | .coreCacheLineDrop core line => Sys2Proof.Machine.execCoreCacheLineDrop core line s
  | .linkRetry router out => Sys2Proof.Machine.execLinkRetry router out s
  | .linkFailureReport router out => Sys2Proof.Machine.execLinkFailureReport router out s
  | .packetForward router inp out => Sys2Proof.Machine.execPacketForward router inp out s
  | .suspectMark router inp => Sys2Proof.Machine.execSuspectMark router inp s
  | .garnetTokenArrival => Sys2Proof.Machine.execGarnetTokenArrival s
  | .gutterSinkAck => Sys2Proof.Machine.execGutterSinkAck s
  | .quiescenceSample part counter => Sys2Proof.Machine.execQuiescenceSample part counter s
  | .supervisorCoreError core line => Sys2Proof.Machine.execSupervisorCoreError core line s
  | .issueStarvation core slot grp => Sys2Proof.Machine.execIssueStarvation core slot grp s

end Sys2Proof.Machine
end

