-- ==== Sys2Proof/Machine/Clock.lean ====
section
/-! DEFINITION. The passing of time: a tick of GT (R24), and with it what the device counts in clocks of its stacks, which stretch with their performance states (R26, R371). -/

namespace Sys2Proof.Machine

open Sys2Proof

/-- The arithmetic clock of a performance state, in units of 100 MHz (R371); a tick has 12 of them. -/
def arithClock (pstate : Nat) : Nat := getAt 12 [12, 11, 10, 9, 8, 6, 4, 2] pstate

/-- The arithmetic clock of a stack (R26). -/
def stackClock (s : State) (k : Nat) : Nat := arithClock (s.die k).pstate

/-- The halt of a group after a time in twelfths of a nominal clock (R249). -/
def Halt.clock (t : Nat) : Halt → Halt
  | .halted spent final => .halted (spent + t) final
  | h => h

/-- A group after n ticks at a clock: how long it has been ready and not chosen, and how long its crew's halt has lasted
(R53, R249). In the tick of its own issue it was chosen; while its instruction waits for a result or is held at issue it is
not ready, and the clocks that it was ready before no longer count. -/
def Group.clock (s : State) (n f : Nat) (g : Group) : Group :=
  let isReady := canIssue g && g.held.isNone
  { g with
    ready := if isReady then g.ready + f * (if g.since = s.gt then n - 1 else n) else 0
    starved := g.starved && isReady
    halt := g.halt.clock (f * n) }

/-- A group of the crew has issued at a time, or started or retired then: the crew was not fully parked in that clock, even if
it is by the end of it (R54). -/
def Crew.ranAt (k : Crew) (gt : Nat) : Bool := k.left = some gt || k.members.any fun x => x.2.since = gt

/-- A crew after n ticks at a clock: how long it has been fully parked; time held does not count (R55, R250), and a clock in
which one of its groups ran begins the count anew. -/
def Crew.clock (s : State) (n f : Nat) (k : Crew) : Crew :=
  let before := if k.ranAt s.gt then 0 else k.parked
  let clocks := if k.inHandler then 0 else if k.ranAt s.gt then n - 1 else n
  { k with
    groups := k.groups.map fun o => o.map (Group.clock s n f)
    parked := if k.fullyParked then before + f * clocks else 0 }

/-- A launch after n ticks: how long it has waited, in the clock of its partition's lowest core's stack (R55, DESIGN CHOICE
log 48). -/
def Launch.clock (s : State) (n : Nat) (l : Launch) : Launch :=
  if l.wants then { l with waited := l.waited + stackClock s (s.part l.part).homeStack * n } else l

/-- The samples of a partition after n ticks (R328, DESIGN CHOICE log 48). -/
def Partition.clock (s : State) (n : Nat) (p : Partition) : Partition :=
  { p with samples := p.samples.map fun x => { x with waited := x.waited + stackClock s p.homeStack * n } }

/-- The network after n ticks: the timers of the heads (R341). -/
def Net.clock (s : State) (n : Nat) (x : Net) : Net :=
  { x with bufs := x.bufs.zipIdx.map fun r => r.1.map fun b =>
      { b with timer := if b.packets.isEmpty then 0 else b.timer + routerClock s r.2 * n } }

/-- GT advanced by n ticks (R24), and what counts clocks with it. -/
def advance (s : State) (n : Nat) : State :=
  { s with
    gt := s.gt + n
    cores := s.cores.zipIdx.map fun c =>
      { c.1 with crews := c.1.crews.map fun o => o.map (Crew.clock s n (stackClock s (stackOf c.2))) }
    launches := s.launches.map (Launch.clock s n)
    parts := s.parts.map (Partition.clock s n)
    net := s.net.clock s n }

end Sys2Proof.Machine
end

