-- ==== Sys2Proof/Machine/Translate.lean ====
section
/-! DEFINITION. The run-ahead of a group whose access misses translation (R256): instructions after it run on a shadow state that is dropped, and only the pages that they would miss are kept. -/

namespace Sys2Proof.Machine

open Sys2Proof

/-- The instructions that a run-ahead runs at most, and the pages that it gathers at most (R256). -/
def runAheadInstrs : Nat := 256
/-- The pages that a run-ahead gathers at most (R256). -/
def runAheadPages : Nat := 32

/-- A branch or split, which ends a run-ahead where it needs an unknown value. -/
def branchOp (op : Nat) : Bool := 0x01 ≤ op && op ≤ 0x0B

/-- The opcodes at which a run-ahead ends: an atomic, job, post, barrier, fence, `ESC`, `TRAP`, `RFT` or `EXIT` (R256).
Every other instruction runs on the shadow state, which is dropped. -/
def aheadStop (op : Nat) : Bool :=
  (0x0C ≤ op && op ≤ 0x0E) || (0x13 ≤ op && op ≤ 0x15) || (0xB6 ≤ op && op ≤ 0xB9) || (0xC0 ≤ op && op ≤ 0xC5) || op = 0xC9
    || (0xD2 ≤ op && op ≤ 0xD6) || op = 0xE2 || op = 0xE6 || op = 0xE7 || op = 0xE9

/-- The stores, which a run-ahead only probes. -/
def storeOp (op : Nat) : Bool := op = 0xB1 || op = 0xB3 || op = 0xB5 || op = 0xBC

/-- The registers that hold the data of a store, and do not give its address. -/
def storeData : Instr → List Nat
  | .st _ d _ o z => (sizedRegs z.toNat d.toNat).filter fun r => r ≠ o.toNat
  | .stu _ d _ _ => [codeS d.toNat]
  | .capst _ d c _ => if d = c then [] else [codeC d.toNat]
  | _ => []

/-- A page joins the gathered ones, for write where any access writes. -/
def addPage (ps : List (Nat × Bool)) (p : Nat × Bool) : List (Nat × Bool) :=
  if ps.any fun q => q.1 = p.1 then ps.map fun q => if q.1 = p.1 then (q.1, q.2 || p.2) else q
  else if ps.length < runAheadPages then ps ++ [p]
  else ps

/-- Registers become unknown: their result never arrives in the shadow. -/
def Group.unknown (g : Group) (rs : List Nat) : Group :=
  if rs.isEmpty then g
  else { g with outst := g.outst ++ [{ id := 2 ^ 64, regs := rs, kind := .poisoned 0 0, awaited := [0], pc := g.pc }] }

/-- Registers are known again. -/
def Group.known (g : Group) (rs : List Nat) : Group :=
  { g with outst := g.outst.map fun o => { o with regs := o.regs.filter fun r => !(rs.contains r) } }

/-- Registers whose unknown content an instruction replaces whole: scalars, and the others where it acts on every active
lane. -/
def replaced (s : State) (g : Group) (prefixed : Bool) (rs : List Nat) : List Nat :=
  rs.filter fun r => (128 ≤ r && r < 192) || (!prefixed && effMask s g = g.regs.act)

/-- An instruction passed over. -/
def Group.passOver (g : Group) (prefixed : Bool) (base : Word) : Group :=
  { g with
    pc := if prefixed then g.pc + 8 else g.pc + 4, pos := g.pos + bitsOf base.toNat 31 29 + 1, wait := .none, held := none }

/-- Results that no load brings are known at once. -/
def settleValues (s : State) (gid : Gid) : State :=
  match s.group? gid with
  | none => s
  | some g => (g.outst.filter fun o => o.kind.known).foldl (fun s o => deliver s gid o.id) s

/-- The state on which a run-ahead runs a store, and an instruction that would be held at issue: a hold is no end of it (R256).
Nothing of the group is in flight or buffered, and no acquire waits; the next instruction goes on from the shadow as it was. -/
def probeState (s : State) (gid : Gid) (g : Group) : State :=
  { s with loads := [], writes := [], atoms := [] }.setGroup gid (some { g with buf := [], acq := [], bankBuf := [] })

/-- A group after a store of a run-ahead, which is not performed. -/
def Group.keep (x g : Group) : Group :=
  { x with buf := g.buf, usc := g.usc, acq := g.acq, bankBuf := g.bankBuf, halt := .running }

/-- A store of unknown data at known addresses probes translation (R256): the pages that it would miss, none where the run
ends there. -/
def probeStore (run : Instr → State → Out) (gid : Gid) (s : State) (g : Group) (data : List Nat) :
    Option (List (Nat × Bool)) :=
  let y := g.known data
  match issueTurn run (probeState s gid y) gid y with
  | .next s1 =>
    match s1.group? gid with
    | none => none
    | some x =>
      if x.state ≠ g.state then none
      else match x.wait with
      | .none => some []
      | .pageIndex _ pages _ => some pages
      | _ => none
  | _ => none

/-- The scalars that an instruction which can be held at issue writes, but for its outstanding results. -/
def heldWrites : Instr → List Nat
  | .cbatch _ d => [codeS d.toNat]
  | .launchq _ d _ _ => [codeS d.toNat]
  | .bmode _ d _ _ => [codeS d.toNat]
  | _ => []

/-- An instruction that would be held at issue: the registers that are unknown after it, and the pages that it would miss;
none where the run ends there. -/
def probeHeld (run : Instr → State → Out) (gid : Gid) (s : State) (g : Group) (rs : List Nat) :
    Option (List Nat × List (Nat × Bool)) :=
  match issueTurn run (probeState s gid g) gid g with
  | .next s1 =>
    match s1.group? gid with
    | none => none
    | some x =>
      if x.state ≠ g.state then none
      else if x.held.isSome then some (rs, [])
      else match x.wait with
      | .none => some ((x.outst.drop g.outst.length).flatMap Outst.regs ++ rs, [])
      | .pageIndex _ pages writes => some (writes, pages)
      | _ => none
  | _ => none

/-- One instruction of a run-ahead: the shadow state to go on from, none at the end, and the pages gathered. `unk` are
registers whose content it keeps in part and which stay unknown. An instruction that only writes unknown registers is tried
again as if they were known, so that its accesses probe translation. -/
def aheadTry (run : Instr → State → Out) (gid : Gid) (ps : List (Nat × Bool)) :
    Nat → List Nat → State → Option State × List (Nat × Bool)
  | tries, unk, s =>
  match s.group? gid with
  | none => (none, ps)
  | some g =>
    match fetchWord s gid g g.pc with
    | none => (none, ps)
    | some w =>
      let prefixed := opOf w = 0xFE
      let base := if prefixed then (fetchWord s gid g (g.pc + 4)).getD w else w
      let op := opOf base
      let store := storeOp op
      let (data, rs) := match decode base with | .ok i => (storeData i, heldWrites i) | .error _ => ([], [])
      let passed (y : Group) : Option State := some (s.setGroup gid (some (y.passOver prefixed base)))
      if runAheadPages ≤ ps.length || aheadStop op || !(canIssue g) then (none, ps)
      else match issueTurn run (if store then probeState s gid g else s) gid g with
      | .next s1 =>
        match s1.group? gid with
        | none => (none, ps)
        | some x =>
          if x.state ≠ g.state || x.halt = .cancelled then (none, ps)
          else if x.held.isSome then
            (if store then (passed g, ps)
             else match probeHeld run gid s g rs with
               | some (unknown, pages) => (passed (g.unknown (unknown ++ unk)), pages.foldl addPage ps)
               | none => (none, ps))
          else match x.wait with
          | .none =>
            if store then (some (s.setGroup gid (some (x.keep g))), ps)
            else (some (settleValues (s1.setGroup gid (some (({ x with halt := .running } : Group).unknown unk))) gid), ps)
          | .result reads writes =>
            if branchOp op then (none, ps)
            else if store && !(outstanding g.outst (reads.filter fun r => !(data.contains r))) then
              match probeStore run gid s g data with
              | some pages => (passed g, pages.foldl addPage ps)
              | none => (none, ps)
            else match tries with
            | 0 => (passed (g.unknown (writes ++ unk)), ps)
            | n + 1 =>
              if outstanding g.outst reads then (passed (g.unknown writes), ps)
              else
                let left := (g.known (replaced s g prefixed writes)).outst
                aheadTry run gid ps n (writes.filter fun r => outstanding left [r]) (s.setGroup gid (some (g.known writes)))
          | .pageIndex _ pages writes => (passed (g.unknown (writes ++ unk)), pages.foldl addPage ps)
          | _ => (none, ps)
      | _ => (none, ps)

/-- A run-ahead of up to n instructions. -/
def aheadLoop (run : Instr → State → Out) (gid : Gid) : Nat → State → List (Nat × Bool) → List (Nat × Bool)
  | 0, _, ps => ps
  | n + 1, s, ps =>
    match aheadTry run gid ps 1 [] s with
    | (some s1, ps1) => aheadLoop run gid n s1 ps1
    | (none, ps1) => ps1

/-- A group whose access has just missed translation runs ahead, and its pages are requested (R256, R257). -/
def runAhead (run : Instr → State → Out) (gid : Gid) (s : State) : State :=
  match s.crew? gid.core gid.slot, s.group? gid with
  | some k, some g =>
    match g.wait with
    | .pageIndex lanes pages writes =>
      let w := (fetchWord s gid g g.pc).getD 0
      let prefixed := opOf w = 0xFE
      let base := if prefixed then (fetchWord s gid g (g.pc + 4)).getD w else w
      let shadow := s.setCrew gid.core gid.slot
        (some ({ k with gang := none }.setGroup gid.grp (some { (g.unknown writes).passOver prefixed base with halt := .running })))
      let all := aheadLoop run gid runAheadInstrs (settleValues shadow gid) pages
      requestPages (s.setGroup gid (some { g with wait := .pageIndex lanes all writes })) gid
    | _ => s
  | _, _ => s

/-- An issue turn with the run-ahead of an access that missed translation. -/
def issueAhead (run : Instr → State → Out) (s : State) (g : Gid) : Out :=
  match tryIssue run s g with
  | .next s1 => .next (runAhead run g s1)
  | o => o

end Sys2Proof.Machine
end

