-- ==== Sys2Proof/Machine/Schedule.lean ====
section
/-! DEFINITION. How a move of the agenda is made, and the default schedule with an empty agenda (DESIGN CHOICE log 1): first a step of the device that can be taken, then the issue turn of a ready group (R53), then a tick of global time. What only the outside world does (hosts, the driver, the supervisor core, the fabric manager, the network's packets) the agenda alone brings, but for a host's answers to back-invalidations and CXL.cache requests. -/

namespace Sys2Proof.Machine

open Sys2Proof

/-- A step of the device; where its agent cannot take it, nothing happens. -/
def eventStep (run : Instr → State → Out) (i : Instr) (s : State) : Out :=
  match run i s with
  | .refused (.notEnabled _) => .next s
  | .fault .noIssuingGroup => .next s
  | o => o

/-- A host agent takes a copy of a line, or gives it up (R350). -/
def hostCopy (s : State) (line : Nat) (take : Bool) : State :=
  { s with hostCopies := if take then line :: s.hostCopies.filter (fun l => l ≠ line) else s.hostCopies.filter fun l => l ≠ line }

/-- A bridge stream marked or not (R329). -/
def bridgeMark (s : State) (part stream : Nat) (mark : Bool) : State :=
  let p := s.part part
  let rest := p.bridge.filter fun x => x ≠ stream
  s.setPart part { p with bridge := if mark then stream :: rest else rest }

/-- A crew pre-empted by the stack scheduler to place queued work (R259). -/
def preemptQueued (s : State) (core slot : Nat) : State :=
  match s.crew? core slot with
  | some k => if workQueued s k.part then requestPreempt s core slot else s
  | none => s

/-- An uncorrectable error in the copies of a line (R370). -/
def poisonCopies (line : Nat) (ls : List HeldLine) : List HeldLine :=
  ls.map fun h => if h.line = line then { h with poison := true } else h

/-- An uncorrectable error in a line of a gateway cache (R370). -/
def gatewayEcc (s : State) (gateway line : Nat) : State :=
  let g := getAt Gateway.reset s.gateways gateway
  { s with gateways := setAt Gateway.reset s.gateways gateway { g with lines := poisonCopies line g.lines } }

/-- A read of a kick page: LQIVER at 0x010, else 0 (R311). -/
def kickRead (s : State) (part queue off : Nat) : DWord :=
  if ((s.part part).queue? queue).isSome && off = 0x010 then 0x00010000 else 0

/-- A queue put into the order of the numbers. -/
def insertQueue (q : Nat × Queue) : List (Nat × Queue) → List (Nat × Queue)
  | [] => [q]
  | x :: xs => if q.1 < x.1 then q :: x :: xs else x :: insertQueue q xs

/-- The quiescence detector can sample a graph now (R328). -/
def sampleDue (s : State) (part counter : Nat) : Bool :=
  match execQuiescenceSample part counter s with
  | .next _ => true
  | _ => false

/-- A sample of the quiescence detector, where it can be taken. -/
def sampleQuiet (s : State) (part counter : Nat) : State :=
  match execQuiescenceSample part counter s with
  | .next s1 => s1
  | _ => s

/-- A wait with which an instruction has not issued: for a result, for every result, for words of a FIFO, or for the gang
latch. -/
def Wait.unissued : Wait → Bool
  | .result _ _ => true
  | .drain => true
  | .fifo _ => true
  | .gangBusy => true
  | _ => false

/-- A group that could issue, as far as is known: no attempt of this tick has shown that its instruction is held. -/
def Group.untried (gt : Nat) (x : Group) : Bool := canIssue x && x.held ≠ some gt

/-- A group as an attempt to issue it shows it (R53): y is the group after the attempt. It waits where its instruction could
not issue yet, it is held where it would be, and else it is ready; nothing else of the attempt is kept. -/
def Group.afterTry (gt : Nat) (y x : Group) : Group :=
  if y.wait.unissued && y.state = x.state then { x with wait := y.wait, held := none, starved := false, ready := 0 }
  else { x with held := if y.held = some gt then some gt else none }

/-- An attempt to issue a group, for what it shows of it. -/
def tryReady (run : Instr → State → Out) (s : State) (g : Gid) : State :=
  match tryIssue run s g with
  | .next t => s.modGroup g fun x => ((t.group? g).map fun y => y.afterTry s.gt x).getD { x with held := none }
  | _ => s.modGroup g fun x => { x with held := none }

/-- Which of the groups that could issue are ready: in a tick in which another group takes their laneset, no turn of their own
shows it (R53). -/
def settleReady (run : Instr → State → Out) (s : State) : State :=
  s.allGroups.foldl (fun s g => match s.group? g with
    | some x => if x.untried s.gt then tryReady run s g else s
    | none => s) s

/-- Time passes by n ticks, or up to the time at which a `WAITM` has to read (R207, log 51). -/
def tickStep (run : Instr → State → Out) (n : Nat) (s : State) : State := advance (settleReady run s) (waitmSlack s n)

/-- A move of the agenda. -/
def moveStep (run : Instr → State → Out) (m : Move) (s : State) : Out :=
  match m with
  | .event i => eventStep run i s
  | .issue g => issueAhead run s g
  | .tick n => .next (tickStep run n s)
  | .hostByte a b => .next { s with mem := cellSet s.mem (hostBase + a) b }
  | .hostMap p => .next { s with hostPages := p :: s.hostPages }
  | .hostCopy line take => .next (hostCopy s line take)
  | .inject router inp p => .next (inject s router inp [p])
  | .bridge part stream mark => .next (bridgeMark s part stream mark)
  | .filter i e => .next { s with pkg := { s.pkg with filter := setAt 0 s.pkg.filter i e } }
  | .pageLimit part n => .next (servePages (s.setPart part { s.part part with pageLimit := n }))
  | .regRead part off => .next { s with hostReg := readReg s part off }
  | .kickRead part queue off => .next { s with hostReg := kickRead s part queue off }
  | .evictLine line => .next (s.evict line)
  | .gatewayDrop gateway line => .next (gatewayDrop s gateway line)
  | .preempt core slot => .next (preemptQueued s core slot)
  | .injectLine router inp p line => .next (inject s router inp (linePackets p line))
  | .linkArrive router out => .next (linkArrive s router out)
  | .gutterHop => .next (gutterHop s)
  | .sample part counter => .next (sampleQuiet s part counter)
  | .sensor stack die value => .next (s.setDie stack ((s.die stack).sensor s.gt die value))
  | .supFw core off write => .next (supFw s core off write)
  | .pkgFw off write => .next (pkgFw s off write)
  | .pkgScrub slice loc n => .next (pkgScrub s slice loc n)
  | .coreEcc core line => .next (s.setCore core { s.core core with cache := poisonCopies line (s.core core).cache })
  | .gatewayEcc gateway line => .next (gatewayEcc s gateway line)

/-! ### The default schedule -/

/-- The host's answer to a held write or atomic, which carries no value (R180, R351). -/
def hostResponses (p : WritePhase) (id : Nat) : List Instr :=
  match p with
  | .backInval => [Instr.backInvalidationResponse id]
  | .atPort => [Instr.cxlCacheGloballyObserved id]
  | _ => []

/-- The steps that messages in flight can take. -/
def messageSteps (s : State) : List Instr :=
  s.loads.flatMap (fun m => [Instr.loadResponse m.id, Instr.gatewayFillResponse m.id, Instr.gatewayLoad m.id, Instr.homeLoad m.id])
    ++ s.writes.flatMap (fun m => [Instr.storeAck m.id, Instr.homeWrite m.id] ++ hostResponses m.phase m.id)
    ++ s.atoms.flatMap (fun m => [Instr.loadResponse m.id, Instr.homeAtomic m.id] ++ hostResponses m.phase m.id)
    ++ s.casts.map (fun m => Instr.multicastDelivery m.id)
    ++ s.recs.flatMap fun m => [Instr.rpostOrdAcceptance m.id, Instr.recordIngress m.id, Instr.recordAccept m.id, Instr.bridgeFilter m.id]

/-- The steps that a resident group's results and waits can take. -/
def groupSteps (s : State) (g : Gid) (x : Group) : List Instr :=
  x.outst.flatMap (fun o => [Instr.variableLatencyResult g.core g.slot g.grp o.id, Instr.loadResponse o.id])
    ++ (match x.wait with
      | .cwait _ _ _ => [Instr.globalWriteCompletionTimeReached g.core g.slot g.grp]
      | .gt _ => [Instr.waitgtDeadline g.core g.slot g.grp]
      | _ => [])
    ++ (if x.outst.any fun o => match o.kind with | .waitm _ => true | _ => false then
        [Instr.waitmPoll g.core g.slot g.grp] else [])
    ++ if x.state = .user && x.userSince + watchdogTicks ≤ s.gt && !x.wait.pastWatchdog then [Instr.watchdog g.core g.slot g.grp] else []

/-- The steps that a core's jobs, regions, tables and Dormers can take. -/
def coreSteps (s : State) (n : Nat) : List Instr :=
  let c := s.core n
  c.jobs.flatMap (fun j => [Instr.jobComplete n j.id, Instr.wdQuery n j.id, Instr.jobStart n j.id])
    ++ c.mats.flatMap (fun j => [Instr.matrixJobComplete n j.id, Instr.matrixJobStart n j.id])
    ++ ((List.range 4).filter fun k => (getAt none c.ownWrite k).isSome).map (fun k => Instr.accownTakeEffect n k)
    ++ ((List.range 2).filter fun t => (c.table t).swaps ≠ 0).map (fun t => Instr.tableSwap n t)
    ++ c.dormers.flatMap fun d =>
      (d.slates.filter fun x => x.fetching || x.spilled).map (fun x => Instr.slateFetchComplete n d.launch x.id)
        ++ [Instr.wakeStart n d.launch 4 1, Instr.wakeStart n d.launch 3 1, Instr.wakeStart n d.launch 2 1,
            Instr.wakeStart n d.launch 1 1, Instr.wakeStart n d.launch 0 1]

/-- The steps that a core's crews can take. -/
def crewSteps (s : State) (n : Nat) : List Instr :=
  ((s.core n).crews.zipIdx).flatMap fun x =>
    match x.1 with
    | none => []
    | some k => if k.preemptAt.isSome then [Instr.crewSave n x.2, Instr.forcedSave n x.2] else []

/-- The steps that a launch can take. -/
def launchSteps (s : State) (l : Launch) : List Instr :=
  match l.state with
  | .waiting => [Instr.launchEligible l.seq]
  | .cancelling => [Instr.cancelComplete l.seq]
  | .eligible =>
    Instr.launchComplete l.seq :: Instr.priorityAging l.seq ::
      ((l.saved.flatMap fun x => (s.part l.part).coreList.map fun c => Instr.crewRestore l.seq x.1 c)
        ++ (if l.block.kind = 3 then l.cores.map fun c => Instr.wakeStart c l.seq 5 1 else []))
  | _ => []

/-- The queues of a partition in the order in which they are served next: in turn, by number, from the one after the queue
that was served last (R314). -/
def Partition.inTurn (p : Partition) : List (Nat × Queue) :=
  let ordered := p.queues.foldr (fun q qs => insertQueue q qs) []
  (ordered.filter fun q => p.turn < q.1) ++ ordered.filter fun q => q.1 ≤ p.turn

/-- The steps that a partition's queues and registers can take. -/
def partSteps (s : State) (n : Nat) : List Instr :=
  let p := s.part n
  (p.inTurn.filter fun q => q.2.head ≠ q.2.tail && !q.2.stopped).flatMap (fun q =>
      [Instr.launchEntry n q.1, Instr.waitCounterEntry n q.1, Instr.signalCounterEntry n q.1, Instr.streamAttach n q.1, Instr.streamDetach n q.1,
       Instr.queueCreate n q.1, Instr.queueDestroy n q.1, Instr.cancelEntry n q.1, Instr.preEmptEntry n q.1])
    ++ p.bins.map (fun b => Instr.nodeBinTimer n b.bin)
    ++ (if p.otinv.getLsbD 63 then [Instr.otinvDone n] else []) ++ (if p.scrub.getLsbD 63 then [Instr.scrubDone n] else [])
    ++ (if p.debugWait.isSome then [Instr.debugStopComplete n] else []) ++ if p.loading then [Instr.fwloadResult n] else []

/-- The steps that the device can take by itself. -/
def deviceSteps (s : State) : List Instr :=
  messageSteps s
    ++ s.allGroups.flatMap (fun g => match s.group? g with | some x => groupSteps s g x | none => [])
    ++ (List.range s.cores.length).flatMap (coreSteps s) ++ (List.range s.cores.length).flatMap (crewSteps s)
    ++ s.launches.flatMap (launchSteps s) ++ (List.range s.parts.length).flatMap (partSteps s)
    ++ (List.range 4).map (fun k => Instr.perfStateChange k)
    ++ if s.pkg.rebind.isSome then [Instr.rebindComplete] else []

/-- The moves that the device makes by itself: the network's links and gutter lane (R343, R347), and the samples of the
quiescence detector (R328). -/
def deviceMoves (s : State) : List Move :=
  s.net.links.map (fun x => Move.linkArrive x.1 x.2.1)
    ++ (if s.net.gutterNext.isSome then [Move.gutterHop] else [])
    ++ (s.launches.filter fun l => sampleDue s l.part l.block.graph).map fun l => Move.sample l.part l.block.graph

/-- The first of some steps that can be taken. -/
def firstStep (run : Instr → State → Out) (s : State) : List Instr → Option Out
  | [] => none
  | i :: is =>
    match run i s with
    | .refused (.notEnabled _) => firstStep run s is
    | .fault .noIssuingGroup => firstStep run s is
    | o => some o

/-- A group is ready: it can issue, and has not retired or been held in this tick. -/
def issueReady (s : State) (x : Group) : Bool := canIssue x && x.since ≠ s.gt && x.held ≠ some s.gt

/-- The rank of a ready group in issue selection (R53): starved groups, then those listed in an open gang latch that have
not issued, then the others. -/
def issueRank (k : Crew) (grp : Nat) (x : Group) : Nat :=
  if x.starved || starveTicks ≤ x.ready then 0
  else match k.gang with
    | some q => if q.list.contains grp && !(q.issued.any fun p => p.1 = grp) then 1 else 2
    | none => 2

/-- The older of two candidates (R43): launch, crew, group. -/
def olderTurn (a b : Nat × Nat × Nat × Gid) : Bool :=
  a.2.1 < b.2.1 || (a.2.1 = b.2.1 && (a.2.2.1 < b.2.2.1 || (a.2.2.1 = b.2.2.1 && a.2.2.2.grp < b.2.2.2.grp)))

/-- The better of two candidates: lower rank, then age. -/
def betterTurn (a b : Nat × Nat × Nat × Gid) : Bool := a.1 < b.1 || (a.1 = b.1 && olderTurn a b)

/-- The ready groups on a laneset of a core, where none has issued in this tick. -/
def turnsOf (s : State) (core lane : Nat) : List (Nat × Nat × Nat × Gid) :=
  let all := ((s.core core).crews.zipIdx).flatMap fun x =>
    match x.1 with
    | none => []
    | some k => (k.members.filter fun m => m.2.laneset = lane).map fun m => (k, x.2, m)
  if all.any fun y => y.2.2.2.since = s.gt then []
  else (all.filter fun y => issueReady s y.2.2.2).map fun y =>
    (issueRank y.1 y.2.2.1 y.2.2.2, y.1.launch, y.1.index, ⟨core, y.2.1, y.2.2.1⟩)

/-- The turn that a laneset takes next (R53). -/
def nextOn (s : State) (core lane : Nat) : Option (Nat × Nat × Nat × Gid) :=
  match turnsOf s core lane with
  | [] => none
  | t :: ts => some (ts.foldl (fun a b => if betterTurn b a then b else a) t)

/-- The group whose issue turn comes next: on the first core that has one, the oldest among those that the core's lanesets
would take, so that the groups of a crew that issue in one tick do so in ascending crew-local index (R130). -/
def nextTurn (s : State) : Option Gid :=
  (List.range s.cores.length).findSome? fun c =>
    match (List.range 8).filterMap fun n => nextOn s c n with
    | [] => none
    | t :: ts => some (ts.foldl (fun a b => if olderTurn b a then b else a) t).2.2.2

/-- The default schedule. -/
def autoStep (run : Instr → State → Out) (s : State) : Out :=
  match firstStep run s (deviceSteps s), deviceMoves s with
  | some o, _ => o
  | none, m :: _ => moveStep run m s
  | none, [] =>
    match nextTurn s with
    | some g => issueAhead run s g
    | none => .next (tickStep run 1 s)

end Sys2Proof.Machine
end

