-- ==== Sys2Proof/Machine/Step.lean ====
section
/-! DEFINITION. One step of the machine: the move at the head of the agenda, or, with an empty agenda, the default schedule's next move (DESIGN CHOICE log 1). -/

namespace Sys2Proof.Machine

open Sys2Proof

/-- One step. -/
def step (s : State) : Host.Outcome State Fault Refusal :=
  match s.agenda with
  | [] => autoStep exec s
  | m :: rest => moveStep exec m { s with agenda := rest }

/-- The state with an instruction stored where step fetches next, and that issue at the head of the agenda (DESIGN CHOICE log 6). -/
def State.withFetchWord (s : State) (nbits w : Nat) : State :=
  { s.placeSlot.storeAtPc ⟨0, 0, 0⟩ nbits w with agenda := [.issue ⟨0, 0, 0⟩] }

end Sys2Proof.Machine
end

