-- ==== Sys2Proof/Safety.lean ====
section
/-! DEFINITION. What counts as a safe state (the canonical form of memory), and when an instruction of the issuing group runs: the conditions of R104 and R85, as the claims use them. -/

namespace Sys2Proof.Machine

open Sys2Proof

/-- Memory is in canonical form. -/
def State.memOk (s : State) : Bool := Memory.wf s.mem

/-- The predicates that an instruction looks at before its mask is known: its guard, and the predicates it names (R33,
R85). -/
def Desc.guards (d : Desc) (s : State) (x : Group) : List Nat :=
  (if d.masked && (effGuard s x).1 ≠ 31 then [codeP (effGuard s x).1] else []) ++ d.preds

/-- The lanes that an instruction acts on (R33, R122). -/
def Desc.mask (d : Desc) (s : State) (x : Group) : Mask := if d.masked then effMask s x else x.regs.act

/-- Whether a masked instruction has a lane to act on (R36). -/
def Desc.live (d : Desc) (s : State) (x : Group) : Bool := !d.masked || d.mask s x != 0

/-- None of the traps of R104 applies to the instruction, and no register that it reads or writes has an outstanding
result (R85). -/
def Desc.passes (d : Desc) (s : State) (x : Group) : Bool :=
  decide (d.vtop ≤ x.budget) && d.types.contains (effType s x) && roleAllows x.role d.op && d.priv.ok x.state
    && !(outstanding x.outst (d.guards s x ++ d.fixed))
    && !(d.live s x && outstanding x.outst (d.reads ++ d.writes))
    && (!(mwChk x.regs.mw) || (notReady x.pend
      ((if x.regs.act = 0 then [] else d.guards s x) ++ (if d.live s x then d.reads else []))).isNone)

/-- The issuing group of s is x once its ready results are in place (R83), and the instruction passes. -/
def Ready (d : Desc) (s : State) (x : Group) : Prop :=
  (s.group? s.cur).map Group.settle = some x ∧ d.passes s x = true

end Sys2Proof.Machine
end

