-- ==== Sys2Proof/Certificates/Slice0/Obligations.lean ====
section
/-! DEFINITION. The statements for the provers: what the instructions and the steps of the device do, what they leave unchanged, when they trap, and what every step keeps. -/

open Sys2Proof Sys2Proof.Machine

/-! ### Scalar instructions (R140, R141) -/

/-- An exact integer clamped to the signed range of a word (R109). -/
def clampSigned (r : Int) : Word := BitVec.ofInt 32 (max (-2147483648) (min r 2147483647))

/-- What a scalar instruction writes, by R140, as one statement over the family: with its operands read first, the
destination receives the value after `min` issue positions, the group goes on at the next instruction, and nothing else
changes but what `finish` says of every retirement (see Retirement). -/
def scalarGives (i : Instr) (op min st : Nat) (reads : List Nat) (d : Nat) (s : State) (x : Group) (v : Word) : Prop :=
  let q : Desc := { word := encode i, op := op, st := st, reads := reads, writes := [codeS d], min := min }
  Ready q s x → exec i s = .next (finish s q (x.result min (codeS d) (.scal v)))

/-- R140: the arithmetic of SADD, SSUB, SMUL and SMULH, signed and unsigned, modulo 2^32 or clamped under MW.SAT. -/
def Claims.ScalarArithmetic : Prop :=
  ∀ (st : BitVec 3) (d a b : BitVec 6) (s : State) (x : Group),
    let A := x.regs.readS a.toNat
    let B := x.regs.readS b.toNat
    let sat := mwSat x.regs.mw
    let gives := fun i op min v => scalarGives i op min st.toNat [codeS a.toNat, codeS b.toNat] d.toNat s x v
    gives (.sadd st d a b 0) 0x20 0 (if sat then clampSigned (A.toInt + B.toInt) else A + B)
    ∧ gives (.sadd st d a b 1) 0x20 0 (if sat then BitVec.ofNat 32 (min (A.toNat + B.toNat) 4294967295) else A + B)
    ∧ gives (.ssub st d a b 0) 0x21 0 (if sat then clampSigned (A.toInt - B.toInt) else A - B)
    ∧ gives (.ssub st d a b 1) 0x21 0 (if sat && A.ult B then 0 else A - B)
    ∧ gives (.smul st d a b 0) 0x22 1 (if sat then clampSigned (A.toInt * B.toInt) else A * B)
    ∧ gives (.smul st d a b 1) 0x22 1 (if sat then BitVec.ofNat 32 (min (A.toNat * B.toNat) 4294967295) else A * B)
    ∧ gives (.smulh st d a b 0) 0x23 1 ((A.signExtend 64 * B.signExtend 64).extractLsb' 32 32)
    ∧ gives (.smulh st d a b 1) 0x23 1 ((A.zeroExtend 64 * B.zeroExtend 64).extractLsb' 32 32)

/-- R140: the logic, shifts, minimum, maximum, comparison and selection of scalars. A shift by 32 or more gives 0, and
all sign bits for SSRA. -/
def Claims.ScalarLogic : Prop :=
  ∀ (st : BitVec 3) (d a b : BitVec 6) (s : State) (x : Group),
    let A := x.regs.readS a.toNat
    let B := x.regs.readS b.toNat
    let bit := fun (c : Bool) => if c then (1 : Word) else 0
    let gives := fun i op v => scalarGives i op 0 st.toNat [codeS a.toNat, codeS b.toNat] d.toNat s x v
    gives (.sand st d a b) 0x24 (A &&& B) ∧ gives (.sor st d a b) 0x25 (A ||| B) ∧ gives (.sxor st d a b) 0x26 (A ^^^ B)
    ∧ gives (.sshl st d a b) 0x27 (A <<< B.toNat) ∧ gives (.sshr st d a b) 0x28 (A >>> B.toNat)
    ∧ gives (.ssra st d a b) 0x29 (A.sshiftRight B.toNat)
    ∧ gives (.smin st d a b 0) 0x2A (if A.slt B then A else B) ∧ gives (.smin st d a b 1) 0x2A (if A.ult B then A else B)
    ∧ gives (.smax st d a b 0) 0x2B (if A.slt B then B else A) ∧ gives (.smax st d a b 1) 0x2B (if A.ult B then B else A)
    ∧ gives (.scmp st d a b 0) 0x2C (bit (A == B)) ∧ gives (.scmp st d a b 1) 0x2C (bit (A != B))
    ∧ gives (.scmp st d a b 2) 0x2C (bit (A.slt B)) ∧ gives (.scmp st d a b 3) 0x2C (bit (A.sle B))
    ∧ gives (.scmp st d a b 4) 0x2C (bit (A.ult B)) ∧ gives (.scmp st d a b 5) 0x2C (bit (A.ule B))
    ∧ scalarGives (.ssel st d a b) 0x2D 0 st.toNat [codeS d.toNat, codeS a.toNat, codeS b.toNat] d.toNat s x
        (if x.regs.readS d.toNat = 0 then B else A)

/-- R141: SADDI adds a sign-extended immediate as SADD does; SMOVI, SMOVH; the bit counts of SBITS, where CLZ and CTZ of 0
give 32, POP is the number of 1 bits, and REV takes bit i to bit 31 − i; V2S reads lane n whatever the masks. -/
def Claims.ScalarImmediate : Prop :=
  ∀ (st : BitVec 3) (d a : BitVec 6) (s : State) (x : Group),
    let A := x.regs.readS a.toNat
    let D := x.regs.readS d.toNat
    let gives := fun i op reads v => scalarGives i op 0 st.toNat reads d.toNat s x v
    (∀ i : BitVec 9, gives (.saddi st d a i) 0x2E [codeS a.toNat]
      (if mwSat x.regs.mw then clampSigned (A.toInt + i.toInt) else A + i.signExtend 32))
    ∧ (∀ i : BitVec 15, gives (.smovi st d i) 0x2F [] (i.signExtend 32)
        ∧ gives (.smovh st d i) 0x30 [codeS d.toNat] (D <<< 15 ||| i.zeroExtend 32))
    ∧ (∃ v, gives (.sbits st d a 0) 0x31 [codeS a.toNat] v ∧ v.toNat = ((List.range 32).map fun i => (A.getLsbD i).toNat).sum)
    ∧ (∃ v, gives (.sbits st d a 1) 0x31 [codeS a.toNat] v ∧ v.toNat ≤ 32 ∧ A.toNat < 2 ^ (32 - v.toNat)
        ∧ (v.toNat < 32 → A.getLsbD (31 - v.toNat) = true))
    ∧ (∃ v, gives (.sbits st d a 2) 0x31 [codeS a.toNat] v ∧ v.toNat ≤ 32 ∧ (∀ j, j < v.toNat → A.getLsbD j = false)
        ∧ (v.toNat < 32 → A.getLsbD v.toNat = true))
    ∧ (∃ v, gives (.sbits st d a 3) 0x31 [codeS a.toNat] v ∧ ∀ j, j < 32 → v.getLsbD j = A.getLsbD (31 - j))
    ∧ (∀ (v n : BitVec 7),
        let q : Desc := { word := encode (.v2s st v d n), op := 0x34, st := st.toNat, vtop := v.toNat + 1
                          reads := [v.toNat], writes := [codeS d.toNat], min := 1 }
        Ready q s x → exec (.v2s st v d n) s
          = .next (finish s q (x.result 1 (codeS d.toNat) (.scal (x.regs.readV v.toNat n.toNat)))))

/-- R140, R141: Scalar logic, shifts, compares, selection, immediates, bit counts and V2S. -/
def Obligations.ScalarLogicAndImmediates : Prop := Claims.ScalarLogic ∧ Claims.ScalarImmediate

/-- R141: SDIV by fn: quotient or remainder, signed (toward zero, the remainder with the dividend's sign) or unsigned. A
divisor of 0 gives all ones or the dividend and sets DZ, and traps with cause 0x21 under MW.TEDZ before any effect; the
most negative number over −1 gives itself, or the largest number under MW.SAT. The result has variable latency: it joins
the outstanding results with an id of its own. -/
def Claims.ScalarDivide : Prop :=
  ∀ (st : BitVec 3) (d a b : BitVec 6) (f : BitVec 3) (s : State) (x : Group),
    let A := x.regs.readS a.toNat
    let B := x.regs.readS b.toNat
    let q : Desc := { word := encode (.sdiv st d a b f), op := 0x32, st := st.toNat
                      reads := [codeS a.toNat, codeS b.toNat], writes := [codeS d.toNat] }
    let gives := fun (fl : FlagBits) (v : Word) => exec (.sdiv st d a b f) s = .next (finish { s with nextId := s.nextId + 1 } q
      ((x.raise fl).outValue s.nextId [(codeS d.toNat, .scal v)] x.pc))
    Ready q s x →
      (B ≠ 0 → f = 0 → gives 0 (if mwSat x.regs.mw && A == 0x80000000 && B == 0xFFFFFFFF then 0x7FFFFFFF else A.sdiv B))
      ∧ (B ≠ 0 → f = 1 → gives 0 (A / B))
      ∧ (B ≠ 0 → f = 2 → gives 0 (A.srem B))
      ∧ (B ≠ 0 → f = 3 → gives 0 (A % B))
      ∧ (B = 0 → mwTedz x.regs.mw = false → f.toNat < 4 → gives 0b10 (if f.toNat < 2 then 0xFFFFFFFF else A))
      ∧ (B = 0 → mwTedz x.regs.mw = true → f.toNat < 4 → exec (.sdiv st d a b f) s = .next (takeTrap s 0x21 0))

/-- R140, R141: The scalar sums, products and quotients, modulo 2^32 or clamped, with the division by zero. -/
def Obligations.ScalarArithmeticAndDivision : Prop := Claims.ScalarArithmetic ∧ Claims.ScalarDivide

/-! ### Integer vector instructions (R143 to R154) -/

/-- A masked instruction with the vector destination d (R36, R95, R143): under an all-zero effective mask it only
retires; else the lanes of the effective mask receive a word that P describes, and the lanes that zeroing clears
receive 0; no other lane of d, and no other register, receives anything. -/
def vectorGives (i : Instr) (q : Desc) (d : Nat) (s : State) (x : Group) (P : Nat → Word → Prop) : Prop :=
  let q : Desc := { q with masked := true, writes := [d] }
  let m := effMask s x
  Ready q s x →
    (m = 0 → exec i s = .next (finish s q x))
    ∧ (m ≠ 0 → ∃ vs : List Word,
        exec i s = .next (finish s q (x.result q.min d (.vec (m ||| zeroLanes s x m) vs)))
        ∧ ∀ l, l < 128 → if m.getLsbD l then P l (laneGet vs l) else laneGet vs l = 0)

/-- `fit` of R143: the pattern of an exact result, clamped to the element's range under MW.SAT, else modulo 2^w. -/
def fits (t : ETypeCode) (sat : Bool) (exact : Int) (r : Nat) : Prop :=
  if sat then etInt? t r = max (etRange t).1 (min exact (etRange t).2) ∧ r < 2 ^ etWidth t
  else (r : Int) = exact % ((2 ^ etWidth t : Nat) : Int)

/-- R143, R145, R146: the element-wise integer instructions. For every element k of every active lane, X, Y and Z are the
values of element k of va, vb and vd (or of vc under a prefix), and R is the pattern of element k of the result. -/
def Obligations.VectorArithmetic : Prop :=
  ∀ (st : BitVec 3) (d a b : BitVec 7) (s : State) (x : Group),
    let t := effType s x
    let sat := mwSat x.regs.mw
    let w := etWidth t
    let pat := fun (r : BitVec 7) l k => elemAt t (x.regs.readV r.toNat l) k
    let val := fun (r : BitVec 7) l k => etInt? t (pat r l k)
    let z := accReg s d.toNat
    let elems := fun i op min rs (P : Nat → Nat → Nat → Prop) =>
      vectorGives i (vDesc (encode i) op st.toNat min setI d.toNat rs) d.toNat s x
        (fun l r => ∀ k, k < etCount t → P l k (elemAt t r k))
    let two := fun i op min P => elems i op min [a.toNat, b.toNat] P
    two (.vadd st d a b) 0x40 0 (fun l k r => fits t sat (val a l k + val b l k) r)
    ∧ two (.vsub st d a b) 0x41 0 (fun l k r => fits t sat (val a l k - val b l k) r)
    ∧ two (.vmul st d a b) 0x42 1 (fun l k r => fits t sat (val a l k * val b l k) r)
    ∧ two (.vmulh st d a b) 0x43 1 (fun l k r => fits t false (val a l k * val b l k / ((2 ^ w : Nat) : Int)) r)
    ∧ elems (.vmad st d a b) 0x44 1 [a.toNat, b.toNat, z] (fun l k r =>
        fits t sat (val a l k * val b l k + etInt? t (elemAt t (x.regs.readV z l) k)) r)
    ∧ two (.vshl st d a b) 0x48 0 (fun l k r => r = if w ≤ pat b l k then 0 else pat a l k * 2 ^ pat b l k % 2 ^ w)
    ∧ two (.vshr st d a b) 0x49 0 (fun l k r => r = if w ≤ pat b l k then 0 else pat a l k / 2 ^ pat b l k)
    ∧ two (.vsra st d a b) 0x4A 0 (fun l k r =>
        fits t false (signedOf w (pat a l k) / ((2 ^ min (pat b l k) (w - 1) : Nat) : Int)) r)
    ∧ two (.vmin st d a b) 0x4B 0 (fun l k r => etInt? t r = min (val a l k) (val b l k))
    ∧ two (.vmax st d a b) 0x4C 0 (fun l k r => etInt? t r = max (val a l k) (val b l k))
    ∧ two (.vabsd st d a b) 0x4D 0 (fun l k r => (r : Int) = max (val a l k - val b l k) (val b l k - val a l k))
    ∧ (∀ i : BitVec 7, elems (.vaddi st d a i) 0x4E 0 [a.toNat] (fun l k r => fits t sat (val a l k + i.toInt) r))
    ∧ elems (.vbits st d a 0) 0x50 0 [a.toNat] (fun l k r => r = ((List.range w).map fun j => ((pat a l k).testBit j).toNat).sum)
    ∧ elems (.vbits st d a 1) 0x50 0 [a.toNat] (fun l k r =>
        r ≤ w ∧ pat a l k < 2 ^ (w - r) ∧ (r < w → (pat a l k).testBit (w - 1 - r) = true))
    ∧ elems (.vbits st d a 2) 0x50 0 [a.toNat] (fun l k r =>
        r ≤ w ∧ (∀ j, j < r → (pat a l k).testBit j = false) ∧ (r < w → (pat a l k).testBit r = true))
    ∧ elems (.vbits st d a 3) 0x50 0 [a.toNat] (fun l k r => ∀ j, j < w → r.testBit j = (pat a l k).testBit (w - 1 - j))

/-- R145, R146, R148, R150, R154: whole-register instructions of every active lane L: logic, immediate, select by the
old vd, copies, the lane exchanges (which read a source lane whatever its activity), the lane's number, one predicate or
all 24, and the random number of R154, whose counter rises by one; S2V writes every lane of the activity mask (R141). -/
def Obligations.VectorWords : Prop :=
  ∀ (st : BitVec 3) (d a b : BitVec 7) (s : State) (x : Group),
    let V := fun (r : BitVec 7) l => x.regs.readV r.toNat l
    let words := fun i op min rs (f : Nat → Word) =>
      vectorGives i (vDesc (encode i) op st.toNat min setA d.toNat rs) d.toNat s x (fun l r => r = f l)
    words (.vand st d a b) 0x45 0 [a.toNat, b.toNat] (fun l => V a l &&& V b l)
    ∧ words (.vor st d a b) 0x46 0 [a.toNat, b.toNat] (fun l => V a l ||| V b l)
    ∧ words (.vxor st d a b) 0x47 0 [a.toNat, b.toNat] (fun l => V a l ^^^ V b l)
    ∧ (∀ i : BitVec 14, words (.vmovi st d i) 0x4F 0 [] (fun _ => i.signExtend 32))
    ∧ words (.vsel st d a b) 0x55 0 [d.toNat, a.toNat, b.toNat] (fun l => if V d l = 0 then V b l else V a l)
    ∧ words (.vmov st d a) 0x56 0 [a.toNat] (fun l => V a l)
    ∧ words (.shfl st d a b) 0x5C 1 [a.toNat, b.toNat] (fun l => V a ((V b l).extractLsb' 0 7).toNat)
    ∧ (∀ i : BitVec 7, words (.shflx st d a i) 0x5D 1 [a.toNat] (fun l => V a (BitVec.ofNat 7 l ^^^ i).toNat)
        ∧ words (.bcast st d a i) 0x5E 1 [a.toNat] (fun _ => V a i.toNat))
    ∧ words (.laneid st d) 0x61 0 [] (fun l => BitVec.ofNat 32 l)
    ∧ (∀ i : BitVec 7, i.toNat < 24 → vectorGives (.pget st d i)
          { vDesc (encode (.pget st d i)) 0x59 st.toNat 0 setA d.toNat [] with reads := [codeP i.toNat] } d.toNat s x
          (fun l r => r = if (x.regs.readP i.toNat).getLsbD l then 1 else 0))
    ∧ vectorGives (.pget st d 127)
        { vDesc (encode (.pget st d 127)) 0x59 st.toNat 0 setA d.toNat [] with reads := (List.range 24).map codeP }
        d.toNat s x (fun l r => ∀ j, j < 32 → r.getLsbD j = (decide (j < 24) && (x.regs.readP j).getLsbD l))
    ∧ (let q : Desc := { vDesc (encode (.rng st d)) 0x62 st.toNat 1 setA d.toNat [] with masked := true, writes := [d.toNat] }
       Ready q s x →
        (effMask s x = 0 → exec (.rng st d) s = .next (finish s q x))
        ∧ (effMask s x ≠ 0 → ∃ vs,
          exec (.rng st d) s = .next (finish s q
            { x.result 1 d.toNat (.vec (effMask s x ||| zeroLanes s x (effMask s x)) vs) with
              regs := { x.regs with rngCtr := x.regs.rngCtr + 1 } })
          ∧ ∀ l, l < 128 → laneGet vs l = if (effMask s x).getLsbD l then rngOut x.regs.rngKey x.regs.rngCtr l else 0))
    ∧ (∀ sa : BitVec 6,
       let q : Desc := { word := encode (.s2v st d sa), op := 0x33, st := st.toNat, vtop := d.toNat + 1
                         reads := [codeS sa.toNat], writes := [d.toNat], min := 1 }
       Ready q s x →
        (x.regs.act = 0 → exec (.s2v st d sa) s = .next (finish s q x))
        ∧ (x.regs.act ≠ 0 → ∃ vs, exec (.s2v st d sa) s = .next (finish s q (x.result 1 d.toNat (.vec x.regs.act vs)))
          ∧ ∀ l, l < 128 → x.regs.act.getLsbD l = true → laneGet vs l = x.regs.readS sa.toNat))

/-- A masked instruction with one predicate destination (R148, R95): the lanes of the effective mask receive the bits of
f, the lanes that zeroing clears receive 0. -/
def predicateGives (i : Instr) (q : Desc) (p : Nat) (s : State) (x : Group) (f : Nat → Prop) : Prop :=
  let q : Desc := { q with masked := true, writes := [codeP p] }
  let m := effMask s x
  Ready q s x →
    (m = 0 → exec i s = .next (finish s q x))
    ∧ (m ≠ 0 → ∃ bits, exec i s = .next (finish s q (x.result q.min (codeP p) (.pred (m ||| zeroLanes s x m) bits)))
        ∧ ∀ l, l < 128 → (bits.getLsbD l = true ↔ m.getLsbD l = true ∧ f l))

/-- R148: the compares of VCMP and VCMPX by their conditions, signed under I32 and unsigned under N32; PLOG by its eight
functions, PSET by its four, PFROM of one bit. -/
def Claims.VectorPredicates : Prop :=
  ∀ (st : BitVec 3) (p : BitVec 5) (a b : BitVec 7) (s : State) (x : Group),
    let t := effType s x
    let A := fun l => x.regs.readV a.toNat l
    let B := fun l => x.regs.readV b.toNat l
    let lt := fun (u v : Word) => if t = 0 then u.toInt < v.toInt else u.toNat < v.toNat
    let q := fun i op => ({ word := encode i, op := op, st := st.toNat, vtop := topOf [a.toNat, b.toNat], types := setW
                            reads := [a.toNat, b.toNat] } : Desc)
    let cmp := fun i op f => predicateGives i (q i op) p.toNat s x f
    cmp (.vcmp st p 0 a b) 0x53 (fun l => A l = B l) ∧ cmp (.vcmp st p 1 a b) 0x53 (fun l => A l ≠ B l)
    ∧ cmp (.vcmp st p 2 a b) 0x53 (fun l => lt (A l) (B l)) ∧ cmp (.vcmp st p 3 a b) 0x53 (fun l => ¬ lt (B l) (A l))
    ∧ cmp (.vcmpx st p 0 a b) 0x54 (fun l => lt (B l) (A l)) ∧ cmp (.vcmpx st p 1 a b) 0x54 (fun l => ¬ lt (A l) (B l))
    ∧ cmp (.vcmpx st p 2 a b) 0x54 (fun l => A l &&& B l = 0) ∧ cmp (.vcmpx st p 3 a b) 0x54 (fun l => A l &&& B l ≠ 0)
    ∧ predicateGives (.pfrom st p 0 a b)
        { word := encode (.pfrom st p 0 a b), op := 0x5B, st := st.toNat, vtop := a.toNat + 1, reads := [a.toNat] }
        p.toNat s x (fun l => (A l).getLsbD b.toNat = true)
    ∧ (∀ (f : BitVec 3) (u v : BitVec 5),
        let P := fun l => (x.regs.readP u.toNat).getLsbD l
        let Q := fun l => (x.regs.readP v.toNat).getLsbD l
        predicateGives (.plog st p u v f)
          { word := encode (.plog st p u v f), op := 0x57, st := st.toNat, reads := [codeP u.toNat, codeP v.toNat] }
          p.toNat s x (fun l => getAt false [P l && Q l, P l || Q l, P l ^^ Q l, P l && !Q l, P l || !Q l, !(P l && Q l),
            !(P l || Q l), !(P l ^^ Q l)] f.toNat = true)
        ∧ (f.toNat < 4 → predicateGives (.pset st p u f)
          { word := encode (.pset st p u f), op := 0x58, st := st.toNat
            reads := if f.toNat < 2 then [] else [codeP u.toNat] } p.toNat s x
          (fun l => getAt false [false, true, P l, !P l] f.toNat = true)))

/-- R147, R149, R148: VADDC and VSUBB add and subtract whole registers through the carry bits of p23; BALLOT writes four
scalars whatever the masks, also under an all-zero effective mask; PFROM of all bits writes p0 to p23. -/
def Claims.CarriesAndBallot : Prop :=
  ∀ (st : BitVec 3) (d a b : BitVec 7) (s : State) (x : Group),
    let m := effMask s x
    let z := zeroLanes s x m
    let A := fun l => (x.regs.readV a.toNat l).toNat
    let B := fun l => (x.regs.readV b.toNat l).toNat
    let c := fun l => ((x.regs.readP 23).getLsbD l).toNat
    let q := fun i op => ({ vDesc (encode i) op st.toNat 0 setA d.toNat [a.toNat, b.toNat] with
      masked := true, reads := [a.toNat, b.toNat, codeP 23], writes := [d.toNat, codeP 23] } : Desc)
    let carry := fun i op (r : Nat → Int) =>
      Ready (q i op) s x → m ≠ 0 → ∃ vs bits,
        exec i s = .next (finish s (q i op) ((x.result 0 d.toNat (.vec (m ||| z) vs)).result 0 (codeP 23) (.pred (m ||| z) bits)))
        ∧ ∀ l, l < 128 →
          if m.getLsbD l then ((laneGet vs l).toNat : Int) = r l % 4294967296
              ∧ (bits.getLsbD l = true ↔ r l < 0 ∨ 4294967296 ≤ r l)
          else laneGet vs l = 0 ∧ bits.getLsbD l = false
    carry (.vaddc st d a b) 0x51 (fun l => (A l : Int) + B l + c l)
    ∧ carry (.vsubb st d a b) 0x52 (fun l => (A l : Int) - B l - c l)
    ∧ (∀ (sd : BitVec 6) (p : BitVec 5), sd.toNat ≤ 60 →
        let ds := [codeS sd.toNat, codeS (sd.toNat + 1), codeS (sd.toNat + 2), codeS (sd.toNat + 3)]
        let q : Desc := { word := encode (.ballot st sd p), op := 0x5A, st := st.toNat, masked := true
                          reads := [codeP p.toNat], writes := ds, fixed := ds }
        Ready q s x → ∃ w : Nat → Word,
          exec (.ballot st sd p) s = .next (finish s q (((((x.result 0 (codeS sd.toNat) (.scal (w 0))).result 0
            (codeS (sd.toNat + 1)) (.scal (w 1))).result 0 (codeS (sd.toNat + 2)) (.scal (w 2))).result 0
            (codeS (sd.toNat + 3)) (.scal (w 3)))))
          ∧ ∀ j, j < 128 → (w (j / 32)).getLsbD (j % 32) = (m.getLsbD j && (x.regs.readP p.toNat).getLsbD j))
    ∧ (∀ (p : BitVec 5),
        let q : Desc := { word := encode (.pfrom st p 1 a b), op := 0x5B, st := st.toNat, vtop := a.toNat + 1
                          reads := [a.toNat], masked := true, writes := (List.range 24).map codeP }
        Ready q s x → m ≠ 0 → ∃ bits : Nat → Mask,
          exec (.pfrom st p 1 a b) s
            = .next (finish s q (x.results 0 ((List.range 24).map fun j => (codeP j, .pred (m ||| z) (bits j)))))
          ∧ ∀ j l, j < 24 → l < 128 → (bits j).getLsbD l = (m.getLsbD l && (x.regs.readV a.toNat l).getLsbD j))

/-- R148, R147, R149: Vector compares, predicate logic, carries, BALLOT and PFROM. -/
def Obligations.VectorPredicatesAndCarries : Prop := Claims.VectorPredicates ∧ Claims.CarriesAndBallot

/-- R151, R152, R153: VRED reduces va over the effective mask into every lane of the activity mask, also when the effective
mask is all zero; VSCAN gives each active lane the reduction of the lanes up to it, or before it with `.EX`. The integer
reductions are exact sums fitted to the type, minima and maxima from the identity of the type, and bitwise logic. -/
def Claims.IntegerReductions : Prop :=
  ∀ (st : BitVec 3) (d a : BitVec 7) (o : BitVec 4) (s : State) (x : Group), o.toNat ≤ 5 →
    let t := effType s x
    let m := effMask s x
    let term := fun (ls : List Nat) => ls.map fun l => x.regs.readV a.toNat l
    let isRed := fun (ls : List Nat) (r : Word) =>
      (o = 0 → fits t (mwSat x.regs.mw) ((term ls).map fun w => etInt? t w.toNat).sum r.toNat)
      ∧ (o = 1 → etInt? t r.toNat = ((term ls).map fun w => etInt? t w.toNat).foldr min (etRange t).2)
      ∧ (o = 2 → etInt? t r.toNat = ((term ls).map fun w => etInt? t w.toNat).foldr max (etRange t).1)
      ∧ (o = 3 → ∀ j, j < 32 → r.getLsbD j = (term ls).all fun w => w.getLsbD j)
      ∧ (o = 4 → ∀ j, j < 32 → r.getLsbD j = (term ls).any fun w => w.getLsbD j)
      ∧ (o = 5 → ∀ j, j < 32 → r.getLsbD j = (term ls).foldr (fun w acc => w.getLsbD j ^^ acc) false)
    let q := fun i op => ({ vDesc (encode i) op st.toNat 2 setW d.toNat [a.toNat] with masked := true, writes := [d.toNat] } : Desc)
    let qr : Desc := { q (.vred st d a o) 0x5F with fixed := [d.toNat] }
    (Ready qr s x → ∃ vs r, exec (.vred st d a o) s = .next (finish s qr (x.result 2 d.toNat (.vec x.regs.act vs)))
      ∧ isRed (activeLanes m) r ∧ ∀ l, l < 128 → x.regs.act.getLsbD l = true → laneGet vs l = r)
    ∧ ∀ ex : BitVec 1,
        let qs := q (.vscan st d a ex o) 0x60
        Ready qs s x → m ≠ 0 → ∃ vs,
          exec (.vscan st d a ex o) s = .next (finish s qs (x.result 2 d.toNat (.vec (m ||| zeroLanes s x m) vs)))
          ∧ ∀ l, l < 128 → if m.getLsbD l then
              isRed ((activeLanes m).filter fun k => k < l || (ex == 0 && k == l)) (laneGet vs l) else laneGet vs l = 0

/-- A masked instruction that raises flags (R119, R120, R143): `f` gives the words and the flags of a lane. Under an
all-zero effective mask it only retires. Else the flags of the active lanes are joined; when one of them is enabled as a
trap the instruction has no effect but the trap, whose value is the lowest lane that raises it; when none is, FLAGS
receives them and the state is K of them and of the lanes' words, by their place. -/
def flagsGive (i : Instr) (q : Desc) (s : State) (x : Group) (f : Nat → List Word × FlagBits)
    (K : FlagBits → (Nat → List Word) → State) : Prop :=
  let m := effMask s x
  Ready q s x →
    (m = 0 → exec i s = .next (finish s q x))
    ∧ (m ≠ 0 → ∃ F : FlagBits,
        (∀ j, j < 7 → (F.getLsbD j = true ↔ ∃ l, l < 128 ∧ m.getLsbD l = true ∧ (f l).2.getLsbD j = true))
        ∧ (enabledCause x.regs.mw F = none → ∃ vs : Nat → List Word, exec i s = .next (K F vs)
            ∧ ∀ j l, l < 128 → laneGet (vs j) l = if m.getLsbD l then getAt 0 (f l).1 j else 0)
        ∧ (∀ c, enabledCause x.regs.mw F = some c → ∃ L, L < 128 ∧ exec i s = .next (takeTrap s c (BitVec.ofNat 32 L))
            ∧ m.getLsbD L = true ∧ (f L).2 &&& causeFlag c ≠ 0
            ∧ ∀ l, l < L → m.getLsbD l = true → (f l).2 &&& causeFlag c = 0))

/-- R151: r with the flags fl is a float reduction of some F32 words, by its code: 6 the exact sum rounded once, 7 the least and 8 the
greatest term, each term read after R111. An empty set gives the identity. -/
def floatReduced (o : Nat) (ftz : Bool) (rnd : RndMode) (ws : List Word) (r : Word) (fl : FlagBits) : Prop :=
  let V := ws.map fun w => readFloat .f32 ftz w.toNat
  let B := ws.map fun w => flushBits .f32 ftz w.toNat
  let nan := fun (b : Nat) => (decodeFloat .f32 b).isNan
  let rank := fun (b : Nat) => if b < 2 ^ 31 then (b : Int) else 2 ^ 31 - 1 - (b : Int)
  let signals := ∃ v ∈ V, v.snan = true
  let both := FVal.inf false ∈ V ∧ FVal.inf true ∈ V
  let value : Int → FVal → Int := fun g v => match v with
    | .fin n m e => (if n then -1 else 1) * ((m * 2 ^ (e - g).toNat : Nat) : Int)
    | _ => 0
  (ws = [] → fl = 0 ∧ r = if o = 6 then 0x80000000 else if o = 7 then 0x7F800000 else 0xFF800000)
  ∧ (o = 6 →
      ((∃ v ∈ V, v.isNan = true) ∨ both → r = 0x7FC00000 ∧ (signals ∨ both → fl = flagIV) ∧ (¬ signals → ¬ both → fl = 0))
      ∧ ((∀ v ∈ V, v.isNan = false) → ∀ n, .inf n ∈ V → .inf (!n) ∉ V → fl = 0 ∧ r = if n then 0xFF800000 else 0x7F800000)
      ∧ ∀ g : Int, ws ≠ [] → (∀ v ∈ V, ∃ n m e, v = .fin n m e ∧ (m ≠ 0 → g ≤ e)) →
          ((∃ n m, m ≠ 0 ∧ .fin n m g ∈ V) ∨ ∀ v ∈ V, ∃ n e, v = .fin n 0 e) →
          let exact : Int := (V.map (value g)).sum
          (exact ≠ 0 → r = BitVec.ofNat 32 (roundFin .f32 rnd ftz (decide (exact < 0)) exact.natAbs g).1
            ∧ fl = (roundFin .f32 rnd ftz (decide (exact < 0)) exact.natAbs g).2)
          ∧ (exact = 0 → fl = 0
            ∧ ((∀ v ∈ V, ∃ e, v = .fin true 0 e) → r = 0x80000000) ∧ ((∀ v ∈ V, ∃ e, v = .fin false 0 e) → r = 0)
            ∧ (¬(∀ v ∈ V, ∃ e, v = .fin true 0 e) → ¬(∀ v ∈ V, ∃ e, v = .fin false 0 e) → r = if rnd = 3 then 0x80000000 else 0)))
  ∧ (o = 7 ∨ o = 8 → ws ≠ [] →
      (signals → fl = flagIV) ∧ (¬ signals → fl = 0)
      ∧ ((∀ b ∈ B, nan b = true) → r = 0x7FC00000)
      ∧ ((∃ b ∈ B, nan b = false) → r.toNat ∈ B ∧ nan r.toNat = false
          ∧ ∀ b ∈ B, nan b = false → if o = 7 then rank r.toNat ≤ rank b else rank b ≤ rank r.toNat))

/-- R151, R152, R153, R120: the float operations of VRED and VSCAN, with their flags. VRED writes its result to every lane of the activity
mask, also under an all-zero effective mask; an enabled condition of it traps with the lowest signalling lane for IV, where
there is one, and else with the lowest lane of the effective mask. Each prefix of VSCAN is a reduction of its own, with its own
flags. -/
def Claims.FloatReductions : Prop :=
  ∀ (st : BitVec 3) (d a : BitVec 7) (o : BitVec 4) (s : State) (x : Group), 6 ≤ o.toNat → o.toNat ≤ 8 →
    let m := effMask s x
    let red := fun (ls : List Nat) =>
      floatReduced o.toNat (mwFtz x.regs.mw) (effRnd s x) (ls.map fun l => x.regs.readV a.toNat l)
    let signals := fun l => (decodeFloat .f32 (x.regs.readV a.toNat l).toNat).snan
    let q := fun i op => ({ vDesc (encode i) op st.toNat 2 setG d.toNat [a.toNat] with masked := true, writes := [d.toNat] } : Desc)
    let qr : Desc := { q (.vred st d a o) 0x5F with fixed := [d.toNat] }
    (Ready qr s x → ∃ r fl, red (activeLanes m) r fl
      ∧ (enabledCause x.regs.mw fl = none → ∃ vs,
          exec (.vred st d a o) s = .next (finish s qr ((x.raise fl).result 2 d.toNat (.vec x.regs.act vs)))
          ∧ ∀ l, l < 128 → x.regs.act.getLsbD l = true → laneGet vs l = r)
      ∧ ∀ c, enabledCause x.regs.mw fl = some c → ∃ L, m.getLsbD L = true
          ∧ exec (.vred st d a o) s = .next (takeTrap s c (BitVec.ofNat 32 L))
          ∧ (c = 0x20 ∧ (∃ l, m.getLsbD l = true ∧ signals l = true) →
              signals L = true ∧ ∀ l, l < L → m.getLsbD l = true → signals l = false)
          ∧ (¬(c = 0x20 ∧ ∃ l, m.getLsbD l = true ∧ signals l = true) → ∀ l, l < L → m.getLsbD l = false))
    ∧ ∀ ex : BitVec 1, ∃ R : Nat → Word × FlagBits,
        (∀ l, red ((activeLanes m).filter fun k => k < l || (ex == 0 && k == l)) (R l).1 (R l).2)
        ∧ flagsGive (.vscan st d a ex o) (q (.vscan st d a ex o) 0x60) s x (fun l => ([(R l).1], (R l).2)) fun F vs =>
            finish s (q (.vscan st d a ex o) 0x60) ((x.raise F).result 2 d.toNat (.vec (m ||| zeroLanes s x m) (vs 0)))

/-- R151, R152, R153, R120: VRED and VSCAN reduce over the active lanes, integers and floats. -/
def Obligations.VectorReductions : Prop := Claims.IntegerReductions ∧ Claims.FloatReductions

/-! ### Float vector instructions (R105 to R121, R155 to R168) -/

/-- R120: which trap an enabled condition takes: the lowest cause among those that arise and are enabled. Underflow and
inexact have none. -/
def Claims.ArithmeticTrapCauses : Prop :=
  ∀ (mw : Word) (f : FlagBits),
    let on := fun (e : Bool) j => e && f.getLsbD j
    enabledCause mw f =
      if on (mw.getLsbD 17) 0 then some 0x20 else if on (mw.getLsbD 18) 1 then some 0x21
      else if on (mw.getLsbD 19) 2 then some 0x22 else if on (mw.getLsbD 20) 5 then some 0x28
      else if on (mw.getLsbD 20) 6 then some 0x29 else none

/-- R155, R117, R166: outside a chain FADD, FSUB, FMUL and FFMA compute each element exactly and round it once in the
format of the type; FMIN, FMAX and FRND; the dot products sum the exact products and the accumulator and round once;
RQNT scales each element by a power of 2; FSPEC; each with its flags. FFMA and the dot products take the accumulator
from vd, or from vc under a prefix. -/
def Obligations.FloatArithmetic : Prop :=
  ∀ (st : BitVec 3) (d a b : BitVec 7) (s : State) (x : Group),
    let t := effType s x
    let m := effMask s x
    let ftz := mwFtz x.regs.mw
    let rnd := effRnd s x
    let c := accReg s d.toNat
    let V := fun (r l : Nat) => x.regs.readV r l
    let one := fun (i : Instr) (q : Desc) (f : Nat → Word × FlagBits) =>
      let q : Desc := { q with masked := true, writes := [d.toNat] }
      flagsGive i q s x (fun l => ([(f l).1], (f l).2)) fun F vs =>
        finish s q ((x.raise F).result q.min d.toNat (.vec (m ||| zeroLanes s x m) (vs 0)))
    let elems := fun (rs : List Nat) (g : Fmt → List FVal → FRes) l =>
      floatLane t (rs.map fun r => V r l) fun f xs => g f (xs.map (readFloat f ftz))
    let arith := fun i op rs g => one i (vDesc (encode i) op st.toNat 1 setF d.toNat rs) (elems rs g)
    let free := x.regs.cc = 0 ∨ t ≠ 2
    (free → arith (.fadd st d a b) 0x80 [a.toNat, b.toNat] (fun f v => fAdd f rnd ftz (getAt (.nan false) v 0) (getAt (.nan false) v 1)))
    ∧ (free → arith (.fsub st d a b) 0x81 [a.toNat, b.toNat]
        (fun f v => fAdd f rnd ftz (getAt (.nan false) v 0) (getAt (.nan false) v 1).negate))
    ∧ (free → arith (.fmul st d a b) 0x82 [a.toNat, b.toNat] (fun f v => fMul f rnd ftz (getAt (.nan false) v 0) (getAt (.nan false) v 1)))
    ∧ (free → arith (.ffma st d a b) 0x83 [a.toNat, b.toNat, c]
        (fun f v => fFma f rnd ftz (getAt (.nan false) v 0) (getAt (.nan false) v 1) (getAt (.nan false) v 2)))
    ∧ one (.fmin st d a b) (vDesc (encode (.fmin st d a b)) 0x84 st.toNat 0 setF d.toNat [a.toNat, b.toNat])
        (fun l => floatLane t [V a.toNat l, V b.toNat l] fun f v => fMinMax f ftz true (getAt 0 v 0) (getAt 0 v 1))
    ∧ one (.fmax st d a b) (vDesc (encode (.fmax st d a b)) 0x85 st.toNat 0 setF d.toNat [a.toNat, b.toNat])
        (fun l => floatLane t [V a.toNat l, V b.toNat l] fun f v => fMinMax f ftz false (getAt 0 v 0) (getAt 0 v 1))
    ∧ one (.frnd st d a) (vDesc (encode (.frnd st d a)) 0x8B st.toNat 1 setF d.toNat [a.toNat])
        (fun l => floatLane t [V a.toNat l] fun f v => fRnd f rnd ftz (getAt 0 v 0))
    ∧ (∀ fn : BitVec 7, one (.fspec st d a fn) (vDesc (encode (.fspec st d a fn)) 0x8E st.toNat 5 setG d.toNat [a.toNat])
        (fun l => let r := fSpec fn.toNat ftz (readFloat .f32 ftz (V a.toNat l).toNat)
                  (BitVec.ofNat 32 r.1, r.2)))
    ∧ (let dot := fun i op types => one i (vDesc (encode i) op st.toNat 2 types d.toNat [a.toNat, b.toNat, c])
          (fun l => dotLane t (mwSat x.regs.mw) ftz rnd (V a.toNat l) (V b.toNat l) (V c l))
       dot (.dot4 st d a b) 0x94 [7, 8, 9, 10] ∧ dot (.dot8 st d a b) 0x95 [11, 12, 13] ∧ dot (.dot2 st d a b) 0x96 [3, 4, 5, 6])
    ∧ (∀ sa : BitVec 6, one (.rqnt st d sa) { vDesc (encode (.rqnt st d sa)) 0x93 st.toNat 1 setQ d.toNat [d.toNat] with
          reads := [d.toNat, codeS sa.toNat] } (fun l =>
        let rs := (List.range (etCount t)).map fun k =>
          requant t rnd ftz (x.regs.readS sa.toNat).toInt (elemAt t (V d.toNat l) k)
        (packElems (etWidth t) (rs.map Prod.fst), rs.foldl (fun acc r => acc ||| r.2) 0)))

/-- R164: CVT converts the elements that both types hold, from the low end; a 64-bit type reads or writes a register
pair. -/
def Claims.Conversion : Prop :=
  ∀ (st : BitVec 3) (d a : BitVec 7) (t : BitVec 4) (r : BitVec 3) (s : State) (x : Group),
    let src := effType s x
    let m := effMask s x
    let ds := if 14 ≤ t.toNat then [2 * d.toNat, 2 * d.toNat + 1] else [d.toNat]
    let as := if 14 ≤ src then [2 * a.toNat, 2 * a.toNat + 1] else [a.toNat]
    let q : Desc := { word := encode (.cvt st d a t r), op := 0x92, st := st.toNat, vtop := topOf (ds ++ as), reads := as
                      min := 1, masked := true, writes := ds }
    flagsGive (.cvt st d a t r) q s x
      (fun l =>
        let rs := (List.range (min (etCount src) (etCount t.toNat))).map fun i =>
          convert src t.toNat r.toNat (mwSat x.regs.mw) (mwFtz x.regs.mw)
            (if 14 ≤ src then (x.regs.readPair (2 * a.toNat) l).toNat else elemAt src (x.regs.readV a.toNat l) i)
        (if 14 ≤ t.toNat then [BitVec.ofNat 32 (getAt 0 (rs.map Prod.fst) 0), BitVec.ofNat 32 (getAt 0 (rs.map Prod.fst) 0 / 4294967296)]
         else [packElems (etWidth t.toNat) (rs.map Prod.fst)], rs.foldl (fun acc e => acc ||| e.2) 0))
      fun F vs => finish s q ((x.raise F).results 1 (ds.zipIdx.map fun e => (e.1, .vec (m ||| zeroLanes s x m) (vs e.2))))

/-- R155, R85: FDIV and FSQRT, rounded once, have variable latency: their results join the outstanding ones under an id
of their own, with the flags set at issue. -/
def Claims.FloatDivide : Prop :=
  ∀ (st : BitVec 3) (d a b : BitVec 7) (s : State) (x : Group),
    let m := effMask s x
    let ftz := mwFtz x.regs.mw
    let val := fun (r : BitVec 7) l => readFloat .f32 ftz (x.regs.readV r.toNat l).toNat
    let out := fun (i : Instr) op rs (f : Nat → FRes) =>
      let q : Desc := { vDesc (encode i) op st.toNat 0 setG d.toNat rs with masked := true, writes := [d.toNat] }
      flagsGive i q s x (fun l => ([BitVec.ofNat 32 (f l).1], (f l).2)) fun F vs =>
        finish { s with nextId := s.nextId + 1 } q
          ((x.raise F).outValue s.nextId [(d.toNat, .vec (m ||| zeroLanes s x m) (vs 0))] x.pc)
    out (.fdiv st d a b) 0x8C [a.toNat, b.toNat] (fun l => fDiv .f32 (effRnd s x) ftz (val a l) (val b l))
    ∧ out (.fsqrt st d a) 0x8D [a.toNat] (fun l => fSqrt .f32 (effRnd s x) ftz (val a l))

/-- R164, R155, R85: CVT, FDIV and FSQRT. -/
def Obligations.ConversionAndDivision : Prop := Claims.Conversion ∧ Claims.FloatDivide

/-- R156, R158, R167, R168: FABS and FNEG clear and invert the sign bit of every element; FCLASS marks one of ten
classes; PACK narrows the double-width elements of va, then those of vb, clamped under MW.SAT for an integer type; UNPK
widens one half of the elements with their sign. -/
def Claims.FloatBits : Prop :=
  ∀ (st : BitVec 3) (d a b : BitVec 7) (s : State) (x : Group),
    let t := effType s x
    let w := etWidth t
    let elems := fun i op min types rs (P : Nat → Nat → Nat → Prop) =>
      vectorGives i (vDesc (encode i) op st.toNat min types d.toNat rs) d.toNat s x
        (fun l r => ∀ k, k < etCount t → P l k (elemAt t r k))
    let pat := fun (r : BitVec 7) l k => elemAt t (x.regs.readV r.toNat l) k
    elems (.fabs st d a) 0x86 0 setH [a.toNat] (fun l k r => r = pat a l k % 2 ^ (w - 1))
    ∧ elems (.fneg st d a) 0x87 0 setH [a.toNat] (fun l k r => r = (pat a l k + 2 ^ (w - 1)) % 2 ^ w)
    ∧ vectorGives (.fclass st d a) (vDesc (encode (.fclass st d a)) 0x8A st.toNat 0 setG d.toNat [a.toNat]) d.toNat s x
        (fun l r =>
          let v := x.regs.readV a.toNat l
          let neg := v.getLsbD 31
          let ex := (v.extractLsb' 23 8).toNat
          let fr := (v.extractLsb' 0 23).toNat
          r = BitVec.ofNat 32 (2 ^ (
            if ex = 255 then (if fr = 0 then (if neg then 0 else 7) else if v.getLsbD 22 then 9 else 8)
            else if ex = 0 then (if fr = 0 then (if neg then 3 else 4) else if neg then 2 else 5)
            else if neg then 1 else 6)))
    ∧ elems (.pack st d a b) 0x97 1 setP [a.toNat, b.toNat] (fun l k r =>
        let h := etCount t / 2
        let src := if k < h then x.regs.readV a.toNat l else x.regs.readV b.toNat l
        let e := src.toNat / 2 ^ (2 * w * (k % h)) % 2 ^ (2 * w)
        if mwSat x.regs.mw && etInt t then
          etInt? t r = max (etRange t).1 (min (if etSigned t then signedOf (2 * w) e else (e : Int)) (etRange t).2)
        else r = e % 2 ^ w)
    ∧ (∀ h : BitVec 1, vectorGives (.unpk st d a h) (vDesc (encode (.unpk st d a h)) 0x98 st.toNat 1 setU d.toNat [a.toNat])
        d.toNat s x (fun l r => ∀ k, k < etCount t / 2 →
          ((r.toNat / 2 ^ (2 * w * k) % 2 ^ (2 * w) : Nat) : Int)
            = etInt? t (pat a l (h.toNat * (etCount t / 2) + k)) % ((2 ^ (2 * w) : Nat) : Int)))

/-- R157: the float compares read their inputs after the flush; a NaN makes EQ, LT, LE, GT, GE and OR false and NE and UN
true; EQ, NE, UN and OR set IV for a signalling NaN, the others for any NaN. -/
def Claims.FloatCompares : Prop :=
  ∀ (st : BitVec 3) (p : BitVec 5) (c : BitVec 2) (a b : BitVec 7) (s : State) (x : Group),
    let m := effMask s x
    let A := fun l => readFloat .f32 (mwFtz x.regs.mw) (x.regs.readV a.toNat l).toNat
    let B := fun l => readFloat .f32 (mwFtz x.regs.mw) (x.regs.readV b.toNat l).toNat
    let un := fun l => (A l).isNan || (B l).isNan
    let sn := fun l => (A l).snan || (B l).snan
    let cmp := fun (i : Instr) op (ordered : Nat → Bool) (unordered quiet : Bool) =>
      let q : Desc := { word := encode i, op := op, st := st.toNat, vtop := topOf [a.toNat, b.toNat], types := setG
                        reads := [a.toNat, b.toNat], masked := true, writes := [codeP p.toNat] }
      Ready q s x → m ≠ 0 →
        let iv := fun l => if quiet then sn l else un l
        ((mwTeiv x.regs.mw = false ∨ ∀ l, l < 128 → m.getLsbD l = true → iv l = false) → ∃ bits F,
          exec i s = .next (finish s q ((x.raise F).result 0 (codeP p.toNat) (.pred (m ||| zeroLanes s x m) bits)))
          ∧ (F = if (List.range 128).any (fun l => m.getLsbD l && iv l) then 1 else 0)
          ∧ ∀ l, l < 128 → bits.getLsbD l = (m.getLsbD l && if un l then unordered else ordered l))
        ∧ (mwTeiv x.regs.mw = true → ∀ L, L < 128 → m.getLsbD L = true → iv L = true →
            (∀ l, l < L → m.getLsbD l = true → iv l = false) → exec i s = .next (takeTrap s 0x20 (BitVec.ofNat 32 L)))
    (c = 0 → cmp (.fcmp st p c a b) 0x88 (fun l => FVal.eqv (A l) (B l)) false true)
    ∧ (c = 1 → cmp (.fcmp st p c a b) 0x88 (fun l => !(FVal.eqv (A l) (B l))) true true)
    ∧ (c = 2 → cmp (.fcmp st p c a b) 0x88 (fun l => FVal.lt (A l) (B l)) false false)
    ∧ (c = 3 → cmp (.fcmp st p c a b) 0x88 (fun l => !(FVal.lt (B l) (A l))) false false)
    ∧ (c = 0 → cmp (.fcmpx st p c a b) 0x89 (fun l => FVal.lt (B l) (A l)) false false)
    ∧ (c = 1 → cmp (.fcmpx st p c a b) 0x89 (fun l => !(FVal.lt (A l) (B l))) false false)
    ∧ (c = 2 → cmp (.fcmpx st p c a b) 0x89 (fun _ => false) true true)
    ∧ (c = 3 → cmp (.fcmpx st p c a b) 0x89 (fun _ => true) false true)

/-- R156, R158, R167, R168, R157: Sign, class, packing and comparison of floats. -/
def Obligations.FloatBitsAndCompares : Prop := Claims.FloatBits ∧ Claims.FloatCompares

/-- R117: a member of an open chain under F32 computes in binary64, writes W in its active lanes, counts CC down and names
its destination; a read of the previous member's destination takes W where that member wrote it and its result is ready. Its F32 result is W
rounded by the rounding mode. Under an all-zero mask a member only counts, and clears every WV. -/
def Obligations.ChainMember : Prop :=
  ∀ (st : BitVec 3) (d a b : BitVec 7) (s : State) (x : Group),
    let m := effMask s x
    let c := accReg s d.toNat
    let read := fun (r : Nat) l =>
      if x.regs.wv.getLsbD l && r == x.regs.prevDest && !(x.pend.any fun p => p.reg == r && p.val.covers l) then
        decodeFloat .b64 (laneGet64 x.regs.w l).toNat
      else readFloat .f32 (mwFtz x.regs.mw) (x.regs.readV r l).toNat
    let member := fun (i : Instr) op (rs : List Nat) (f : Nat → FRes) =>
      let q : Desc := { vDesc (encode i) op st.toNat 1 setF d.toNat rs with masked := true, writes := [d.toNat] }
      let short := fun l => convFloat .f32 (effRnd s x) (mwFtz x.regs.mw) (decodeFloat .b64 (f l).1)
      let flags := fun l => (f l).2 ||| (short l).2
      x.regs.cc ≠ 0 → effType s x = 2 → mwPsr x.regs.mw = false → Ready q s x →
        (m = 0 → ∃ ws, exec i s = .next (finishMember s q { x with regs := { x.regs with w := ws, wv := 0, cc := x.regs.cc - 1, prevDest := d.toNat } })
          ∧ ∀ l, l < 128 → laneGet64 ws l = laneGet64 x.regs.w l)
        ∧ (m ≠ 0 → (∀ F : FlagBits, (∀ j, j < 7 → (F.getLsbD j = true ↔ ∃ l, l < 128 ∧ m.getLsbD l = true ∧ (flags l).getLsbD j = true)) →
          enabledCause x.regs.mw F = none →
          ∃ ws vs, exec i s = .next (finishMember s q
            (Group.result { x.raise F with
                regs := { (x.raise F).regs with w := ws, wv := m, cc := x.regs.cc - 1, prevDest := d.toNat } }
              1 d.toNat (.vec (m ||| zeroLanes s x m) vs)))
            ∧ ∀ l, l < 128 → laneGet64 ws l = (if m.getLsbD l then BitVec.ofNat 64 (f l).1 else laneGet64 x.regs.w l)
              ∧ (m.getLsbD l = true → laneGet vs l = BitVec.ofNat 32 (short l).1)))
    member (.fadd st d a b) 0x80 [a.toNat, b.toNat] (fun l => fAdd .b64 0 false (read a.toNat l) (read b.toNat l))
    ∧ member (.fsub st d a b) 0x81 [a.toNat, b.toNat] (fun l => fAdd .b64 0 false (read a.toNat l) (read b.toNat l).negate)
    ∧ member (.fmul st d a b) 0x82 [a.toNat, b.toNat] (fun l => fMul .b64 0 false (read a.toNat l) (read b.toNat l))
    ∧ member (.ffma st d a b) 0x83 [a.toNat, b.toNat, c] (fun l => fFma .b64 0 false (read a.toNat l) (read b.toNat l) (read c l))

/-- R110, R105: a value that a format holds rounds to itself, exactly and without a flag, in every rounding mode. -/
def Obligations.RoundingIsExact : Prop :=
  ∀ (f : Fmt) (mode : RndMode) (bits : Nat) (neg : Bool) (m : Nat) (e : Int),
    bits < 2 ^ f.width → decodeFloat f bits = .fin neg m e → m ≠ 0 → roundFin f mode false neg m e = (bits, 0)

/-- R161 to R163: TBLEV reads the active copy of its table; TBLSW asks for an exchange, which TABLE_SWAP carries out:
the copies change places and the version rises by one; TBLLD fills the shadow copy from 2,048 scratchpad bytes, and
traps for a misaligned offset, and for one whose bytes pass the crew's scratchpad. That TVAL of the misaligned offset's trap is
the offset is the model's choice (log 59: neither R162 nor R243 says). -/
def Obligations.Tables : Prop :=
  ∀ (st : BitVec 3) (d a : BitVec 7) (t : BitVec 1) (s : State) (x : Group),
    let m := effMask s x
    let c := s.core s.cur.core
    let tb := c.table t.toNat
    (let q : Desc := { vDesc (encode (.tblev st d a t)) 0x8F st.toNat 5 setG d.toNat [a.toNat] with
                       masked := true, writes := [d.toNat] }
     tb.swaps = 0 → flagsGive (.tblev st d a t) q s x
      (fun l => let r := tableEval tb.active (mwFtz x.regs.mw) (x.regs.readV a.toNat l).toNat
                ([BitVec.ofNat 32 r.1], r.2))
      fun F vs => finish s q ((x.raise F).result 5 d.toNat (.vec (m ||| zeroLanes s x m) (vs 0))))
    ∧ (let q : Desc := { word := encode (.tblsw st t), op := 0x91, st := st.toNat, masked := true }
       Ready q s x → m ≠ 0 → exec (.tblsw st t) s
         = .next (finish (s.setCore s.cur.core (c.setTable t.toNat { tb with swaps := tb.swaps + 1 })) q x))
    ∧ (∀ core table : Nat,
        let old := (s.core core).table table
        old.swaps ≠ 0 → ∃ u, exec (.tableSwap core table) s = .next u
          ∧ ((u.core core).table table).active = old.shadow ∧ ((u.core core).table table).shadow = old.active
          ∧ ((u.core core).table table).version = old.version + 1 ∧ ((u.core core).table table).swaps = old.swaps - 1)
    ∧ (∀ (sa sb : BitVec 6) (k : Crew),
        let q : Desc := { word := encode (.tblld st sa sb t), op := 0x90, st := st.toNat, masked := true
                          reads := [codeS sa.toNat, codeS sb.toNat, codeS (sb.toNat + 1)] }
        let o := x.regs.readS sa.toNat
        let lo := x.regs.readS sb.toNat
        let e := x.regs.readS (sb.toNat + 1)
        Ready q s x → m ≠ 0 → s.crew? s.cur.core s.cur.slot = some k →
          (o.toNat % 8 ≠ 0 → exec (.tblld st sa sb t) s = .next (takeTrap s 0x0A o))
          ∧ (o.toNat % 8 = 0 → scratchBytes k.granules < o.toNat + 2048 → exec (.tblld st sa sb t) s = .next (takeTrap s 0x0B o))
          ∧ (o.toNat % 8 = 0 → o.toNat + 2048 ≤ scratchBytes k.granules → acquirePending x = false → tb.swaps = 0 →
              scratchPoison s s.cur.core k.granules o.toNat 2048 = none → (lo.extractLsb' 23 8).toNat ≠ 255 →
              -126 ≤ e.toInt → e.toInt ≤ 119 → ∃ sh : TableCopy,
              exec (.tblld st sa sb t) s
                = .next (finish (s.setCore s.cur.core (c.setTable t.toNat { tb with shadow := sh })) q x)
              ∧ sh.lo = lo ∧ sh.e = e ∧ ∀ j, j < 256 → getAt (0, 0) sh.segs j
                = (scratchWord c k.granules (o.toNat + 8 * j), scratchWord c k.granules (o.toNat + 8 * j + 4))))

/-! ### Control, divergence, barriers, traps and system registers (R37, R80, R117, R126 to R138, R243 to R252) -/

/-- R126, R80, R100: NOP goes on at the next instruction; BRA and CALL go to their own offset plus 4 times the signed
displacement; CALL and JMPI.L write the offset of the next instruction, JMPI reading its target first; RET and JMPI trap
for a target that is not a multiple of 4; BRNZ, BRZ and LOOP branch on a scalar, which LOOP counts down first: it tests the
register as it then stands, for s60 to s63 without the exited lanes. -/
def Claims.Branches : Prop :=
  ∀ (st : BitVec 3) (s : State) (x : Group),
    let next := nextPc s x
    let q := fun i op reads writes => ({ word := encode i, op := op, st := st.toNat, reads := reads, writes := writes } : Desc)
    let goes := fun i op reads writes (y : Group) (pc : Word) =>
      Ready (q i op reads writes) s x → exec i s = .next (finishAt s (q i op reads writes) y pc)
    let jumps := fun i op reads writes (y : Group) (pc : Word) =>
      (pc.toNat % 4 = 0 → goes i op reads writes y.dropChain pc)
      ∧ (pc.toNat % 4 ≠ 0 → Ready (q i op reads writes) s x → exec i s = .next (takeTrap s 0x0A pc))
    goes (.nop st) 0x00 [] [] x.endChain next
    ∧ (∀ d : BitVec 21, goes (.bra st d) 0x01 [] [] x.dropChain (basePc s x + 4 * d.signExtend 32)
        ∧ goes (.call st d) 0x02 [] [codeS 56] (x.result 0 (codeS 56) (.scal next)).dropChain (basePc s x + 4 * d.signExtend 32))
    ∧ jumps (.ret st) 0x03 [codeS 56] [] x (x.regs.readS 56)
    ∧ (∀ a d : BitVec 6,
        jumps (.jmpi st d a 0) 0x04 [codeS a.toNat] [] x (x.regs.readS a.toNat)
        ∧ jumps (.jmpi st d a 1) 0x04 [codeS a.toNat] [codeS d.toNat] (x.result 0 (codeS d.toNat) (.scal next))
            (x.regs.readS a.toNat))
    ∧ (∀ (a : BitVec 6) (d : BitVec 15),
        let A := x.regs.readS a.toNat
        let far := basePc s x + 4 * d.signExtend 32
        goes (.brnz st a d) 0x05 [codeS a.toNat] [] (if A = 0 then x.endChain else x.dropChain) (if A = 0 then next else far)
        ∧ goes (.brz st a d) 0x06 [codeS a.toNat] [] (if A = 0 then x.dropChain else x.endChain) (if A = 0 then far else next)
        ∧ (let y := x.result 0 (codeS a.toNat) (.scal (A - 1))
           let B := y.regs.readS a.toNat
           (a.toNat < 60 → B = A - 1)
           ∧ goes (.loop st a d) 0x0B [codeS a.toNat] [codeS a.toNat] (if B = 0 then y.endChain else y.dropChain) (if B = 0 then next else far)))

/-- R37, R84: SSY pushes a JOIN entry; a divergent BRP or BRPN pushes the taken lanes as a PATH entry and goes on with the
others; a branch that all lanes take goes to its target, one that none takes goes on. A full stack of 32 entries traps
with cause 0x19, value 0. SYNC of an empty stack traps with cause 0x19, value 1; else the topmost entry that still holds a
lane outside XM gives mask, MW and offset, and the entries above it are gone. A new activity mask supersedes older results
of s60 to s63 that are not ready, as a write of them. -/
def Claims.Divergence : Prop :=
  ∀ (st : BitVec 3) (s : State) (x : Group),
    let act := x.regs.act
    let q := fun i op preds writes => ({ word := encode i, op := op, st := st.toNat, writes := writes, preds := preds } : Desc)
    (∀ d : BitVec 21, Ready (q (.ssy st d) 0x07 [] []) s x →
      (x.stack.length < 32 → exec (.ssy st d) s = .next (finish s (q (.ssy st d) 0x07 [] [])
        { x with stack := ⟨false, basePc s x + 4 * d.signExtend 32, act, x.regs.mw⟩ :: x.stack }))
      ∧ (32 ≤ x.stack.length → exec (.ssy st d) s = .next (takeTrap s 0x19 0)))
    ∧ (let branch := fun i op (p : BitVec 5) (taken : Mask) (dest : Word) =>
        let q := q i op [codeP p.toNat] codesAct
        Ready q s x →
          (taken = 0 → exec i s = .next (finish s q x))
          ∧ (taken ≠ 0 → taken = act → exec i s = .next (finishAt s q x.dropChain dest))
          ∧ (taken ≠ 0 → taken ≠ act → x.stack.length < 32 → exec i s = .next (finish s q
              (Group.dropChain { x.setAct (act &&& ~~~ taken) with stack := ⟨true, dest, taken, x.regs.mw⟩ :: x.stack })))
          ∧ (taken ≠ 0 → taken ≠ act → 32 ≤ x.stack.length → exec i s = .next (takeTrap s 0x19 0))
       ∀ (p : BitVec 5) (d : BitVec 16),
        branch (.brp st p d) 0x08 p (act &&& x.regs.readP p.toNat) (basePc s x + 4 * d.signExtend 32)
        ∧ branch (.brpn st p d) 0x09 p (act &&& ~~~ (x.regs.readP p.toNat)) (basePc s x + 4 * d.signExtend 32))
    ∧ (∀ m : Mask, (x.setAct m).regs = { x.regs with act := m })
    ∧ (Ready (q (.sync st) 0x0A [] codesAct) s x →
        (x.stack = [] → exec (.sync st) s = .next (takeTrap s 0x19 1))
        ∧ (∀ above e below, x.stack = above ++ e :: below → (∀ a ∈ above, a.mask &&& ~~~ x.regs.xm = 0) →
            e.mask &&& ~~~ x.regs.xm ≠ 0 → exec (.sync st) s = .next (finishAt s (q (.sync st) 0x0A [] codesAct)
              (let y := ({ x.setAct (e.mask &&& ~~~ x.regs.xm) with
                           stack := below, regs := { x.regs with act := e.mask &&& ~~~ x.regs.xm, mw := e.mw } } : Group)
               if e.path then y.dropChain else y.endChain) e.pc)))

/-- R126, R80, R100, R37, R84: Branches, loops and divergence with the stack. -/
def Obligations.ControlFlow : Prop := Claims.Branches ∧ Claims.Divergence

/-- R129, R323: BAR arrives and waits, BAR.ARV arrives, BAR.WAIT waits for a phase it has not seen, each once the group's
earlier stores have left it; the arrival that reaches the expected count flips the phase, sets the count to 0 and lets the
group and every group that waits for that phase go on. BARINIT sets the expected count, with 0 the number of groups that the
crew was placed with, and the count 0; with 0 in a window or node crew it traps with cause 0x02. -/
def Claims.Barriers : Prop :=
  ∀ (st : BitVec 3) (b : BitVec 4) (s : State) (x : Group) (k : Crew),
    s.crew? s.cur.core s.cur.slot = some k → releasedCore x = true →
    let o := k.barrier b.toNat
    let q := fun i => ({ word := encode i, op := 0x0D, st := st.toNat } : Desc)
    let arrives := fun i (waits : Bool) => Ready (q i) s x → ∃ t k' y, exec i s = .next t
      ∧ t.crew? s.cur.core s.cur.slot = some k' ∧ t.group? s.cur = some y ∧ y.pc = nextPc s x
      ∧ (∀ c, c ≠ b.toNat → k'.barrier c = k.barrier c)
      ∧ (o.arrived + 1 = o.expected → k'.barrier b.toNat = ⟨o.expected, 0, !o.phase⟩ ∧ y.wait = .none
          ∧ ∀ j z, j < 16 → j ≠ s.cur.grp → s.group? ⟨s.cur.core, s.cur.slot, j⟩ = some z → z.wait = .barrier b.toNat →
              z.seenPhase.getLsbD b.toNat = o.phase → ∃ z', t.group? ⟨s.cur.core, s.cur.slot, j⟩ = some z' ∧ z'.wait = .none ∧ z'.pc = z.pc)
      ∧ (o.arrived + 1 ≠ o.expected → k'.barrier b.toNat = ⟨o.expected, o.arrived + 1, o.phase⟩
          ∧ y.wait = if waits then .barrier b.toNat else .none)
    arrives (.bar st b) true ∧ arrives (.barArv st b) false
    ∧ (Ready (q (.barWait st b)) s x → ∃ t y, exec (.barWait st b) s = .next t ∧ t.group? s.cur = some y
        ∧ y.pc = nextPc s x ∧ y.wait = if x.seenPhase.getLsbD b.toNat = o.phase then .barrier b.toNat else .none)
    ∧ (∀ n : BitVec 15,
        let q : Desc := { word := encode (.barinit st b n), op := 0x0E, st := st.toNat }
        let standing := match s.launch? k.launch with | some l => decide (2 ≤ l.block.kind) | none => false
        Ready q s x →
          (n = 0 → standing = true → exec (.barinit st b n) s = .next (takeTrap s 0x02 (encode (.barinit st b n))))
          ∧ ((n = 0 → standing = false) → ∃ t k' y, exec (.barinit st b n) s = .next t ∧ t.crew? s.cur.core s.cur.slot = some k'
            ∧ t.group? s.cur = some y ∧ y.pc = nextPc s x
            ∧ k'.barrier b.toNat = ⟨if n = 0 then k.total else n.toNat, 0, o.phase⟩ ∧ ∀ c, c ≠ b.toNat → k'.barrier c = k.barrier c))

/-- R92, R132, R138, R16, R56, R131: SETMW writes the mode word and traps with cause 0x02 for a reserved value; GETMW reads it; CHAIN
opens a chain of n members; GTIME reads both words of the global time at once; WAITGT goes on at once when its time has
come, and else waits for it; IPREF leaves the four lines of code from the target's on in the core's instruction cache,
those within the code, and goes on; PHINT goes on at the next instruction, and where a request for its crew is pending and the
group is in normal state it stops there, with its live vectors and ranges recorded. -/
def Claims.ModesAndTime : Prop :=
  ∀ (st : BitVec 3) (s : State) (x : Group),
    (∀ i : BitVec 21,
      let q : Desc := { word := encode (.setmw st i), op := 0x10, st := st.toNat }
      Ready q s x →
        (mwReserved (i.zeroExtend 32) = true → exec (.setmw st i) s = .next (takeTrap s 0x02 (encode (.setmw st i))))
        ∧ (mwReserved (i.zeroExtend 32) = false →
            exec (.setmw st i) s = .next (finish s q { x with regs := { x.regs with mw := i.zeroExtend 32 } })))
    ∧ (∀ n : BitVec 21,
        let q : Desc := { word := encode (.chain st n), op := 0x12, st := st.toNat }
        Ready q s x → exec (.chain st n) s
          = .next (finishMember s q { x with regs := { x.regs with cc := n.toNat, wv := 0 } }))
    ∧ (∀ d : BitVec 6,
        let q : Desc := { word := encode (.getmw st d), op := 0x11, st := st.toNat, writes := [codeS d.toNat] }
        let q2 : Desc := { word := encode (.gtime st d), op := 0x1A, st := st.toNat, writes := [codeS d.toNat, codeS (d.toNat + 1)] }
        (Ready q s x → exec (.getmw st d) s = .next (finish s q (x.result 0 (codeS d.toNat) (.scal x.regs.mw))))
        ∧ (Ready q2 s x → exec (.gtime st d) s = .next (finish s q2 ((x.result 0 (codeS d.toNat) (.scal (BitVec.ofNat 32 s.gt))).result 0
            (codeS (d.toNat + 1)) (.scal (BitVec.ofNat 32 (s.gt / 4294967296)))))))
    ∧ (∀ (a : BitVec 6) (f : BitVec 3),
        let q : Desc := { word := encode (.waitgt st a f), op := 0x19, st := st.toNat, reads := [codeS a.toNat, codeS (a.toNat + 1)] }
        let t := (x.regs.readS (a.toNat + 1)).toNat * 4294967296 + (x.regs.readS a.toNat).toNat + (if f = 1 then s.gt else 0)
        Ready q s x →
          (t ≤ s.gt → exec (.waitgt st a f) s = .next (finish s q x))
          ∧ (s.gt < t → ∃ u y, exec (.waitgt st a f) s = .next u ∧ u.group? s.cur = some y ∧ y.wait = .gt t ∧ y.pc = nextPc s x))
    ∧ (∀ d : BitVec 21,
        let q : Desc := { word := encode (.ipref st d), op := 0x1B, st := st.toNat }
        let line := fun i => ((basePc s x + 4 * d.signExtend 32).toNat / 128 + i) * 128
        ∀ k : Crew, s.crew? s.cur.core s.cur.slot = some k → Ready q s x →
          ∃ c : Core, exec (.ipref st d) s = .next (finish (s.setCore s.cur.core c) q x)
          ∧ { c with icache := [] } = { s.core s.cur.core with icache := [] }
          ∧ (∀ i, i < 4 → line i < x.codeSize → lineOf (hdmAddr (s.part k.part) (x.codeBase + line i)) ∈ c.icache)
          ∧ ∀ n ∈ c.icache, n ∈ (s.core s.cur.core).icache
              ∨ ∃ i, i < 4 ∧ line i < x.codeSize ∧ n = lineOf (hdmAddr (s.part k.part) (x.codeBase + line i)))
    ∧ (∀ (a b : BitVec 6) (k : Crew),
        let q : Desc := { word := encode (.phint st a b), op := 0x0F, st := st.toNat
                          reads := [codeS a.toNat, codeS (a.toNat + 1), codeS (a.toNat + 2), codeS (a.toNat + 3),
                                    codeS b.toNat, codeS (b.toNat + 1), codeS (b.toNat + 2), codeS (b.toNat + 3)] }
        s.crew? s.cur.core s.cur.slot = some k → Ready q s x →
          (k.preemptAt = none ∨ x.state ≠ .normal → exec (.phint st a b) s = .next (finish s q x))
          ∧ (k.preemptAt ≠ none → x.state = .normal → ∃ u y k', exec (.phint st a b) s = .next u
              ∧ u.group? s.cur = some y ∧ y.halt = .saving ∧ y.pc = nextPc s x ∧ u.crew? s.cur.core s.cur.slot = some k'
              ∧ k'.hints = k.hints ++ [(s.cur.grp,
                  x.regs.readS (a.toNat + 3) ++ x.regs.readS (a.toNat + 2) ++ x.regs.readS (a.toNat + 1) ++ x.regs.readS a.toNat,
                  hintRanges x b.toNat (scratchBytes k.granules))]))

/-- R133, R134, R103, R124, R252: TRAP takes the trap 0x42 and BRKPT 0x40 with their immediates as the value; a word of no
instruction takes 0x01 with the word, and a fetch at or beyond the code's size 0x08 with the offset; ESC queues an entry of kind 1
with its code, and the group issues nothing until the supervisor completes it. -/
def Claims.TrapInstructions : Prop :=
  ∀ (st : BitVec 3) (i : BitVec 21) (s : State) (x : Group),
    let q := fun i op p => ({ word := encode i, op := op, st := st.toNat, priv := p } : Desc)
    (Ready (q (.trap st i) 0x13 .any) s x → exec (.trap st i) s = .next (takeTrap s 0x42 (i.zeroExtend 32)))
    ∧ (Ready (q (.brkpt st i) 0x16 .any) s x → exec (.brkpt st i) s = .next (takeTrap s 0x40 (i.zeroExtend 32)))
    ∧ (∀ w off : BitVec 32, s.group? s.cur = some x →
        exec (.undefinedOpcode w) s = .next (takeTrap s 0x01 w)
        ∧ exec (.instructionFetchFault off) s = .next (takeTrap s 0x08 off))
    ∧ (Ready (q (.esc st i) 0x15 .handler) s x → ∃ t y, exec (.esc st i) s = .next t ∧ t.group? s.cur = some y
        ∧ y.wait = .esc none ∧ y.pc = nextPc s x
        ∧ (t.core s.cur.core).escQueue = (s.core s.cur.core).escQueue
            ++ [escEntry 1 s.cur i.toNat x.tcause.toNat (basePc s x) x.tval])

/-- R92, R132, R138, R16, R56, R131, R133, R134, R103, R124, R252: MW, chains, GT, waits and hints, and the instructions that trap or escape. -/
def Obligations.ModesTimeAndTraps : Prop := Claims.ModesAndTime ∧ Claims.TrapInstructions

/-- The entry of a trap, from a state with the group x of crew k to a state u (R245, R246, R247, R243, R244). -/
def Claims.Entered (s u : State) (g : Gid) (k : Crew) (x : Group) (cause : Nat) (pc v : Word) : Prop :=
  ∃ y, u.group? g = some y
    ∧ y.tcause = BitVec.ofNat 8 cause ∧ y.tpc = pc ∧ y.tval = v ∧ y.tskid = 0 ∧ y.ps = x.state ∧ y.wait = .none
    ∧ y.pend = [] ∧ (∀ a b, x.halt = .halted a b → y.halt = .running) ∧ ((∀ a b, x.halt ≠ .halted a b) → y.halt = x.halt)
    ∧ y.regs = { x.drain.regs with cc := 0, wv := 0 }
    ∧ (let e := match s.launch? k.launch with | some l => trapEntry s g.core l cause | none => 0xFFFFFFFF
       let core := cause ∈ [0x10, 0x11, 0x30, 0x31, 0x50, 0x51] ∨ (cause ∈ [0x40, 0x41] ∧ k.attached = true)
          ∨ x.state = .user ∨ e = 0xFFFFFFFF
       (core → y.state = .core ∧ y.pc = 0 ∧ y.codeBase = (s.part k.part).cthbase.toNat
          ∧ y.codeSize = (s.part k.part).cthsize.toNat)
       ∧ (¬ core → y.state = .user ∧ y.pc = BitVec.ofNat 32 e ∧ (y.codeBase, y.codeSize) = s.launchCode k))
    ∧ u.mem = s.mem

/-- No other trap of the group stands: it neither waits in an escalation or a double fault nor takes a machine check already. -/
def Claims.NoTrap (w : Wait) : Prop := w.escalated = false ∧ ∀ t v, w ≠ .trap 0x50 t v

/-- R245, R246, R247, R243, R244: taking a trap. The group of a crew traps at offset pc with a value. Every result that is outstanding
is written first: until then the group stays in its state, with its registers, and issues nothing; the result that is
written last enters the trap, and with none outstanding the trap is entered at once. Outside core handler state its trap registers take the cause, the offset and the value, TSKID becomes 0, PS takes its state, and its fixed-latency
results are written. It enters core handler state at offset 0 of the core trap handler code when the cause has core
routing, when it has debug routing and a debugger is attached, when it is taken in user handler state, and when the trap
table has no handler for it; else user handler state at the table's entry in the launch's code. It leaves its crew's halt, and
keeps a stop by the debug node. A machine check that is being taken stands before another trap, and a trap that is raised in a
group that waits in an escalation, or in a double fault, is kept for its completion, with no second entry (the model's choices, log 62). -/
def Claims.TakingATrap : Prop :=
  ∀ (s : State) (g : Gid) (k : Crew) (x : Group) (cause : Nat) (pc v : Word),
    s.crew? g.core g.slot = some k → s.group? g = some x →
      (Claims.NoTrap x.wait →
        (x.outst ≠ [] → ∃ y, (takeTrapAt s g cause pc v).group? g = some y
          ∧ y = { x with wait := .trap cause pc v, held := none, starved := false, ready := 0 }
          ∧ canIssue y = false ∧ (takeTrapAt s g cause pc v).mem = s.mem)
        ∧ (x.outst = [] → x.state ≠ .core → Claims.Entered s (takeTrapAt s g cause pc v) g k x cause pc v))
      ∧ (x.wait = .trap cause pc v →
          (x.outst ≠ [] → trapDue s g = s)
          ∧ (x.outst = [] → x.state ≠ .core → Claims.Entered s (trapDue s g) g k x cause pc v))
      ∧ (∀ t w, x.wait = .trap 0x50 t w → takeTrapAt s g cause pc v = takeTrapAt s g 0x50 t w)
      ∧ (∀ l, x.wait = .esc l → (∀ t w, l ≠ some (0x50, t, w)) →
          (takeTrapAt s g cause pc v).group? g = some { x with wait := .esc (some (cause, pc, v)) }
          ∧ ((takeTrapAt s g cause pc v).core g.core).escQueue = (s.core g.core).escQueue)
      ∧ (∀ l, x.wait = .doubleFault l → (∀ t w, l ≠ some (0x50, t, w)) →
          (takeTrapAt s g cause pc v).group? g = some { x with wait := .doubleFault (some (cause, pc, v)) }
          ∧ ((takeTrapAt s g cause pc v).core g.core).escQueue = (s.core g.core).escQueue)

/-- R249: a trap halts every other group of the crew that is in normal state and runs; a group that waits stops where it
waits; a group in handler state, or on its way into it, is not halted. Other crews keep their groups. That the halt is broadcast before the trapping
group's outstanding results are written is the model's choice (log 61). -/
def Claims.CrewHalt : Prop :=
  ∀ (s : State) (g : Gid) (k : Crew) (x : Group) (cause : Nat) (pc v : Word),
    s.crew? g.core g.slot = some k → s.group? g = some x → x.state ≠ .core → x.wait.escalated = false →
      (∀ i o, i < 16 → i ≠ g.grp → s.group? ⟨g.core, g.slot, i⟩ = some o →
        (takeTrapAt s g cause pc v).group? ⟨g.core, g.slot, i⟩
          = some (if o.state = .normal ∧ o.wait.trapping = false ∧ o.halt = .running
              then { o with halt := .halted 0 (decide (o.wait ≠ .none)), tskid := 0 } else o))
      ∧ ∀ h : Gid, ¬(h.core = g.core ∧ h.slot = g.slot) → (takeTrapAt s g cause pc v).group? h = s.group? h

/-- R247: a trap taken in core handler state, with every result written, is a double fault: TCAUSE, TPC, TVAL and the state keep their values, the group
issues nothing, its pc is the offset of the instruction that trapped, and an escalation entry of kind 2 with the new
cause, offset and value is queued at the core. -/
def Claims.DoubleFault : Prop :=
  ∀ (s : State) (g : Gid) (x : Group) (cause : Nat) (pc v : Word),
    s.group? g = some x → x.state = .core → x.outst = [] → Claims.NoTrap x.wait → ∃ y,
      (takeTrapAt s g cause pc v).group? g = some y
      ∧ y.wait = .doubleFault none ∧ y.pc = pc ∧ y.tcause = x.tcause ∧ y.tpc = x.tpc ∧ y.tval = x.tval ∧ y.state = .core ∧ y.ps = x.ps
      ∧ ((takeTrapAt s g cause pc v).core g.core).escQueue = (s.core g.core).escQueue ++ [escEntry 2 g 0 cause pc v]
      ∧ canIssue y = false

/-- R245, R246, R247, R243, R244, R249: Taking a trap, the halt of the crew, and the double fault. -/
def Obligations.TakingTraps : Prop := Claims.TakingATrap ∧ Claims.CrewHalt ∧ Claims.DoubleFault

/-- R248, R250, R251: RFT and RFT.NEXT in handler state: the state becomes PS and PS normal; the pc becomes TPC, or the offset
after the instruction at TPC; the code is the launch's again. When no group of the crew is left in handler state, the halted
groups run again; until then the group that returned to normal state is halted. A return into user handler state starts the
watchdog's count anew. -/
def Obligations.ReturnFromTrap : Prop :=
  ∀ (st : BitVec 3) (next : Bool) (s : State) (x : Group) (k : Crew),
    let i : Instr := if next then .rftNext st else .rft st
    let q : Desc := { word := encode i, op := 0x14, st := st.toNat, priv := .handler }
    Ready q s x → s.crew? s.cur.core s.cur.slot = some k → x.halt = .running → ∃ t y, exec i s = .next t
      ∧ t.group? s.cur = some y ∧ y.state = x.ps ∧ y.ps = .normal
      ∧ y.pc = (if next then afterInstr s k.part (s.launchCode k).1 (s.launchCode k).2 x.tpc else x.tpc)
      ∧ (y.codeBase, y.codeSize) = s.launchCode k ∧ y.regs = x.regs.endChain
      ∧ y.tcause = x.tcause ∧ y.tpc = x.tpc ∧ y.tval = x.tval ∧ t.mem = s.mem
      ∧ (x.ps = .normal → (∃ j o, j < 16 ∧ j ≠ s.cur.grp ∧ s.group? ⟨s.cur.core, s.cur.slot, j⟩ = some o ∧ o.state ≠ .normal) →
          y.halt = .halted 0 true)
      ∧ (x.ps = .user → y.userSince = s.gt)
      ∧ (x.ps = .normal → (∀ j o, j < 16 → j ≠ s.cur.grp → s.group? ⟨s.cur.core, s.cur.slot, j⟩ = some o →
            o.state = .normal ∧ o.wait.trapping = false ∧ o.halt ≠ .debug) →
          ∀ j o n w, j < 16 → j ≠ s.cur.grp → s.group? ⟨s.cur.core, s.cur.slot, j⟩ = some o → o.halt = .halted n w →
            t.group? ⟨s.cur.core, s.cur.slot, j⟩ = some { o.drain with halt := .running })

/-- R104, R103: the order of the conditions in front of an instruction: a register beyond the budget or a type that is not
accepted (0x01 with the word), a role that may not issue it (0x03), a state without the privilege (0x04), all with the
instruction's word as the value and before any effect. -/
def Claims.TrapOrder : Prop :=
  ∀ (q : Desc) (s : State) (g : Group) (k : Group → Mask → Out), s.group? s.cur = some g →
    let x := g.settle
    let illegal := x.budget < q.vtop ∨ effType s x ∉ q.types
    (illegal → issue q s k = .next (takeTrap s 0x01 q.word))
    ∧ (¬ illegal → roleAllows x.role q.op = false → issue q s k = .next (takeTrap s 0x03 q.word))
    ∧ (¬ illegal → roleAllows x.role q.op = true → q.priv.ok x.state = false → issue q s k = .next (takeTrap s 0x04 q.word))

/-- R123, R248, R134: the instructions reserved to handler state trap with cause 0x04 in normal state. -/
def Claims.HandlerOnly : Prop :=
  ∀ (st : BitVec 3) (i : BitVec 21) (s : State) (g : Group), s.group? s.cur = some g →
    g.settle.state = .normal →
      exec (.rft st) s = .next (takeTrap s 0x04 (encode (.rft st)))
      ∧ exec (.rftNext st) s = .next (takeTrap s 0x04 (encode (.rftNext st)))
      ∧ exec (.esc st i) s = .next (takeTrap s 0x04 (encode (.esc st i)))

/-- R48: which opcodes a role may issue: general all; copy the scalar, control, memory and copy opcodes; matrix those
without the copy engine's but with the matrix ones; vector those without the copy engine's and the matrix ones, with the
window ones. Every other opcode traps with cause 0x03. -/
def Claims.RoleTraps : Prop :=
  ∀ (q : Desc) (s : State) (g : Group) (k : Group → Mask → Out), s.group? s.cur = some g →
    q.vtop ≤ g.settle.budget → effType s g.settle ∈ q.types →
    let op := q.op
    let common := op < 0x40 ∨ (0xB0 ≤ op ∧ op ≤ 0xBF) ∨ (0xC6 ≤ op ∧ op ≤ 0xCC) ∨ (0xE9 ≤ op ∧ op ≤ 0xEE)
    let allowed := match g.settle.role with
      | .general => True
      | .copy => common ∨ (0xC0 ≤ op ∧ op ≤ 0xC5)
      | .matrix => common ∨ (0xD0 ≤ op ∧ op ≤ 0xD9)
      | .vector => common ∨ (0x40 ≤ op ∧ op ≤ 0xAF) ∨ (0xE0 ≤ op ∧ op ≤ 0xE8)
    ¬ allowed → issue q s k = .next (takeTrap s 0x03 q.word)

/-- R104, R103, R123, R248, R134, R48: The order of the conditions before an instruction, by register budget, role and state. -/
def Obligations.OrderOfTrapConditions : Prop := Claims.TrapOrder ∧ Claims.HandlerOnly ∧ Claims.RoleTraps

/-- R135, R136, R88, R163: SYSRD reads a system register at issue, each of those that R136 lists; FLAGS waits for outstanding flag-setting
results, and the table versions count the exchanges that have been ordered. -/
def Claims.SystemRegisterRead : Prop :=
  ∀ (st : BitVec 3) (d : BitVec 6) (r : BitVec 12) (s : State) (x : Group) (k : Crew),
    let q : Desc := { word := encode (.sysrd st d r), op := 0x17, st := st.toNat, writes := [codeS d.toNat] }
    let gives := fun v => exec (.sysrd st d r) s = .next (finish s q (x.result 0 (codeS d.toNat) (.scal v)))
    let c := s.core s.cur.core
    let version := fun t => (c.table t).version + BitVec.ofNat 16 (c.table t).swaps
    Ready q s x → s.crew? s.cur.core s.cur.slot = some k →
      (r = 0x000 → gives x.regs.mw) ∧ (r = 0x001 → flagsPending x = [] → gives (x.regs.flags.zeroExtend 32))
      ∧ (r = 0x001 → flagsPending x ≠ [] → ∃ t y, exec (.sysrd st d r) s = .next t ∧ t.group? s.cur = some y
          ∧ y.wait = .result (flagsPending x) [codeS d.toNat])
      ∧ (r = 0x002 → gives (BitVec.ofNat 32 x.gid)) ∧ (r = 0x003 → gives (BitVec.ofNat 32 k.index))
      ∧ (r = 0x004 → gives (BitVec.ofNat 32 k.launch)) ∧ (r = 0x005 → gives (BitVec.ofNat 32 s.cur.core))
      ∧ (r = 0x006 → gives (BitVec.ofNat 32 x.laneset))
      ∧ (r = 0x007 → gives (match x.role with | .general => 0 | .copy => 1 | .matrix => 2 | .vector => 3))
      ∧ (r = 0x008 → gives (BitVec.ofNat 32 s.gt)) ∧ (r = 0x009 → gives (BitVec.ofNat 32 (s.gt / 4294967296)))
      ∧ (r = 0x00A → gives x.usc) ∧ (r = 0x00B → gives (x.lgwct.extractLsb' 0 32)) ∧ (r = 0x00C → gives (x.lgwct.extractLsb' 32 32))
      ∧ (r = 0x00D → gives x.regs.bcc) ∧ (r = 0x00E → gives x.batch) ∧ (r = 0x00F → gives (if k.preemptAt.isSome then 1 else 0))
      ∧ (r = 0x010 → gives (x.regs.rngKey.extractLsb' 0 32)) ∧ (r = 0x011 → gives (x.regs.rngKey.extractLsb' 32 32))
      ∧ (r = 0x012 → gives (x.regs.rngCtr.extractLsb' 0 32)) ∧ (r = 0x013 → gives (x.regs.rngCtr.extractLsb' 32 32))
      ∧ (r = 0x014 → gives (version 1 ++ version 0))
      ∧ (r = 0x020 → gives (x.tcause.zeroExtend 32)) ∧ (r = 0x021 → gives x.tpc) ∧ (r = 0x022 → gives x.tval)
      ∧ (r = 0x023 → gives (x.tskid.zeroExtend 32)) ∧ (r = 0x024 → gives (if x.sstep then 1 else 0))
      ∧ (r = 0x028 → gives k.ctx) ∧ ∀ n : BitVec 2, r = 0x030 + n.zeroExtend 12 → gives (getAt 0 c.accown n.toNat)

/-- R135 to R137, R92, R118: SYSWR, SYSWR.SET and SYSWR.CLR. A read-only register, and one whose state the group is not in,
of those that R136 lists, traps with cause 0x04; a value with a reserved bit set with 0x02; each with the instruction's word, and
nothing is written. Else the register of the group reads back as the value written, every other system register as before, and
the group goes on at the next instruction; an accumulator owner is written where no job uses its region and no write of it waits. -/
def Claims.SystemRegisterWrite : Prop :=
  ∀ (st : BitVec 3) (a : BitVec 6) (r : BitVec 12) (s : State) (x : Group) (k : Crew), x.halt = .running →
    let n := r.toNat
    let old := sysRead s s.cur.core k x n
    let A := x.regs.readS a.toNat
    let listed := n ≤ 0x014 ∨ (0x020 ≤ n ∧ n ≤ 0x024) ∨ n = 0x028 ∨ (0x030 ≤ n ∧ n ≤ 0x033)
    let free := n ∈ [0x000, 0x001, 0x00D, 0x010, 0x011, 0x012, 0x013, 0x024]
    let handler := n ∈ [0x020, 0x021, 0x022]
    let core := n ∈ [0x030, 0x031, 0x032, 0x033]
    let writable := free ∨ (handler ∧ x.state ≠ .normal) ∨ (core ∧ x.state = .core)
    let form := fun (i : Instr) (v : Word) =>
      let q : Desc := { word := encode i, op := 0x18, st := st.toNat, priv := sysPriv r.toNat, reads := [codeS a.toNat] }
      (listed → ¬ writable → exec i s = .next (takeTrap s 0x04 q.word))
      ∧ (Ready q s x →
      (writable → sysReserved n v = true → exec i s = .next (takeTrap s 0x02 q.word))
      ∧ (writable → ¬ core → sysReserved n v = false → (n = 1 → flagsPending x = []) → ∃ t k' y, exec i s = .next t
          ∧ t.crew? s.cur.core s.cur.slot = some k' ∧ t.group? s.cur = some y ∧ y.pc = nextPc s x ∧ t.mem = s.mem
          ∧ sysRead t s.cur.core k' y n = v
          ∧ ∀ n', n' ≠ n → sysRead t s.cur.core k' y n' = sysRead s s.cur.core k x n')
      ∧ (core → x.state = .core → regionBusy (s.core s.cur.core) (n - 0x030) = false →
          getAt none (s.core s.cur.core).ownWrite (n - 0x030) = none →
          exec i s = .next (finish (s.setCore s.cur.core (setOwner (s.core s.cur.core) (n - 0x030) v)) q x)))
    (s.group? s.cur).map Group.settle = some x → s.crew? s.cur.core s.cur.slot = some k →
      form (.syswr st a r) A ∧ form (.syswrSet st a r) (old ||| A) ∧ form (.syswrClr st a r) (old &&& ~~~ A)

/-- R135, R136, R88, R163, R137, R92, R118: SYSRD and SYSWR for every system register. -/
def Obligations.SystemRegisters : Prop := Claims.SystemRegisterRead ∧ Claims.SystemRegisterWrite

/-- R93 to R97: a prefix acts on the base word after it, in the same issue turn; before an opcode that takes no prefix the
pair traps with cause 0x01 and the base word, and with a field that the base word reserves with cause 0x02 and the prefix
word. -/
def Obligations.PrefixPair : Prop :=
  ∀ (p : BitVec 5) (n z : BitVec 1) (r : BitVec 3) (t : BitVec 4) (c : BitVec 7) (s : State) (g : Group) (b : Word),
    let i : Instr := .pfx p n z r t c
    let w := encode i
    let op := opOf b
    let usesC := op ∈ [0x44, 0x83, 0x94, 0x95, 0x96, 0xA7]
    let bad := (c ≠ 0 ∧ ¬ usesC) ∨ (r ≠ 0 ∧ op = 0x92) ∨ (z = 1 ∧ op = 0x5F)
    s.group? s.cur = some g → fetchWord s s.cur g (g.pc + 4) = some b →
      (prefixable op = false → exec i s = .next (takeTrap s 0x01 b))
      ∧ (prefixable op = true → bad → exec i s = .next (takeTrap s 0x02 w))
      ∧ (prefixable op = true → ¬ bad →
          exec i s = .next { s with pfx := some ⟨p.toNat, decide (n = 1), decide (z = 1), r.toNat, t, c.toNat, w⟩ })

/-! ### Modular arithmetic (R214 to R226) -/

/-- R220: Barrett reduction by a well-formed modulus and its constant gives the remainder of every product of two numbers
below the modulus. -/
def Claims.BarrettReduces : Prop :=
  ∀ q mu x : Nat, modWellFormed q mu = true → x < q * q → barrett q mu x = x % q

/-- R221: Shoup multiplication gives the product modulo q in every case, and sets MQR exactly for a companion that is
not the value's own. -/
def Claims.ShoupMultiplies : Prop :=
  ∀ q w w2 y : Nat, 3 ≤ q → q < 2 ^ 61 → w < q → y < q →
    (shoup q w w2 y).1 = w * y % q ∧ ((shoup q w w2 y).2 = if w2 = w * 2 ^ 64 / q then 0 else flagMQR)

/-- R220, R221: Barrett and Shoup reduction give the remainder. -/
def Obligations.ModularReduction : Prop := Claims.BarrettReduces ∧ Claims.ShoupMultiplies

/-- R215, R223: SETQ stores a pair in an active lane only if it is well-formed, q odd, 3 ≤ q < 2^61 and mu the Barrett
constant of q; for any other pair the lane becomes invalid and MQC is set. GETQ reads both back, whatever the lane. -/
def Claims.ModulusSetup : Prop :=
  ∀ (st : BitVec 3) (w : BitVec 5) (s : State) (x : Group),
    let m := effMask s x
    let z := zeroLanes s x m
    let regs := [4 * w.toNat, 4 * w.toNat + 1, 4 * w.toNat + 2, 4 * w.toNat + 3]
    let qOf := fun l => (x.regs.readPair (4 * w.toNat) l).toNat
    let muOf := fun l => (x.regs.readPair (4 * w.toNat + 2) l).toNat
    let ok := fun l => modWellFormed (qOf l) (muOf l)
    (let q : Desc := { modDesc (encode (.setq st w)) 0xA0 st.toNat 1 [] regs with masked := true, writes := [codeQ] }
     Ready q s x →
      (m = 0 → exec (.setq st w) s = .next (finish s q x))
      ∧ (m ≠ 0 → (mwTemq x.regs.mw = false ∨ ∀ l, l < 128 → m.getLsbD l = true → ok l = true) → ∃ F qs mus,
          exec (.setq st w) s = .next (finish s q ((x.raise F).result 1 codeQ (.modq (m ||| z) qs mus)))
          ∧ (F = if (List.range 128).all (fun l => !(m.getLsbD l) || ok l) then 0 else flagMQC)
          ∧ ∀ l, l < 128 → m.getLsbD l = true →
              ((laneGet64 qs l).toNat = if ok l then qOf l else 0) ∧ ((laneGet64 mus l).toNat = if ok l then muOf l else 0))
      ∧ (mwTemq x.regs.mw = true → ∀ L, L < 128 → m.getLsbD L = true → ok L = false →
          (∀ l, l < L → m.getLsbD l = true → ok l = true) → exec (.setq st w) s = .next (takeTrap s 0x28 (BitVec.ofNat 32 L))))
    ∧ (let q : Desc := { modDesc (encode (.getq st w)) 0xA1 st.toNat 0 regs [] with reads := [codeQ], masked := true, writes := regs }
       Ready q s x →
        (m = 0 → exec (.getq st w) s = .next (finish s q x))
        ∧ (m ≠ 0 → ∃ vs : Nat → List Word, exec (.getq st w) s
              = .next (finish s q (x.results 0 (regs.zipIdx.map fun e => (e.1, .vec (m ||| z) (vs e.2)))))
            ∧ ∀ l, l < 128 → m.getLsbD l = true →
              pairOf (laneGet (vs 0) l) (laneGet (vs 1) l) = laneGet64 x.regs.qm l
              ∧ pairOf (laneGet (vs 2) l) (laneGet (vs 3) l) = laneGet64 x.regs.qb l))

/-- R216 to R218, R222, R224 to R226: the instructions that use q. An invalid lane writes all ones and sets MQC; in a valid
lane every operand marked reduced is taken modulo q, and MQR is set when one was not below q; the pair that is written is
the exact value given here; the flags reach FLAGS or trap by R120. MMULQ, MFMAQ and MREDQ reduce by Barrett, MMULS and
BFLY multiply by Shoup; BFLY pairs lanes at a distance of 2^t, CT before and GS after the twiddle. -/
def Obligations.ModularArithmetic : Prop :=
  ∀ (st : BitVec 3) (d a b : BitVec 7) (s : State) (x : Group),
    let m := effMask s x
    let P := fun (n l : Nat) => x.regs.pairVal n l
    let ovr := fun (q v : Nat) => if q ≤ v then flagMQR else 0
    let uses := fun (i : Instr) op min (dd : Nat) (rs : List Nat) (f : Nat → Nat → Nat → Nat × FlagBits) =>
      let q : Desc := { modDesc (encode i) op st.toNat min [2 * dd, 2 * dd + 1] rs with
                        reads := codeQ :: rs, masked := true, writes := [2 * dd, 2 * dd + 1] }
      flagsGive i q s x
        (fun l =>
          if x.regs.qmOf l = 0 then ([0xFFFFFFFF, 0xFFFFFFFF], flagMQC)
          else
            let r := f (x.regs.qmOf l) (x.regs.qbOf l) l
            ([BitVec.ofNat 32 r.1, BitVec.ofNat 32 (r.1 / 4294967296)], r.2))
        fun F vs => finish s q ((x.raise F).results min
          [(2 * dd, .vec (m ||| zeroLanes s x m) (vs 0)), (2 * dd + 1, .vec (m ||| zeroLanes s x m) (vs 1))])
    let ra := [2 * a.toNat, 2 * a.toNat + 1]
    let rb := [2 * b.toNat, 2 * b.toNat + 1]
    let A := P a.toNat
    let B := P b.toNat
    let c := accReg s d.toNat
    uses (.maddq st d a b) 0xA2 1 d.toNat (ra ++ rb) (fun q _ l => ((A l % q + B l % q) % q, ovr q (A l) ||| ovr q (B l)))
    ∧ uses (.msubq st d a b) 0xA3 1 d.toNat (ra ++ rb)
        (fun q _ l => ((A l % q + q - B l % q) % q, ovr q (A l) ||| ovr q (B l)))
    ∧ uses (.mnegq st d a) 0xA4 1 d.toNat ra (fun q _ l => ((q - A l % q) % q, ovr q (A l)))
    ∧ uses (.mmulq st d a b) 0xA5 3 d.toNat (ra ++ rb)
        (fun q mu l => (barrett q mu (A l % q * (B l % q)), ovr q (A l) ||| ovr q (B l)))
    ∧ uses (.mfmaq st d a b) 0xA7 3 d.toNat (ra ++ rb ++ [2 * c, 2 * c + 1])
        (fun q mu l => (barrett q mu (A l % q * (B l % q) + P c l % q), ovr q (A l) ||| ovr q (B l) ||| ovr q (P c l)))
    ∧ uses (.mredq st d a) 0xA8 3 d.toNat [4 * a.toNat, 4 * a.toNat + 1, 4 * a.toNat + 2, 4 * a.toNat + 3] (fun q mu l =>
        let v := P (2 * a.toNat) l + 18446744073709551616 * P (2 * a.toNat + 1) l
        if q * q ≤ v then (v % q, flagMQR) else (barrett q mu v, 0))
    ∧ uses (.mctrq st d a) 0xA9 1 d.toNat ra (fun q _ l =>
        (if A l % q ≤ (q - 1) / 2 then A l % q else 18446744073709551616 + A l % q - q, ovr q (A l)))
    ∧ (∀ (dd e : BitVec 6) (w : BitVec 5),
        let rs := [2 * e.toNat, 2 * e.toNat + 1] ++ [4 * w.toNat, 4 * w.toNat + 1, 4 * w.toNat + 2, 4 * w.toNat + 3]
        let T := fun l => P (2 * w.toNat) l
        let times := fun q y l => (shoup q (T l % q) (P (2 * w.toNat + 1) l) y)
        uses (.mmuls st dd e w) 0xA6 3 dd.toNat rs (fun q _ l =>
          ((times q (P e.toNat l % q) l).1, ovr q (P e.toNat l) ||| (ovr q (T l) ||| (times q (P e.toNat l % q) l).2)))
        ∧ ∀ (t : BitVec 3),
          let lo := fun (l : Nat) => if l.testBit t.toNat then l - 2 ^ t.toNat else l
          let hi := fun (l : Nat) => if l.testBit t.toNat then l else l + 2 ^ t.toNat
          let X := fun q l => P e.toNat (lo l) % q
          let Y := fun q l => P e.toNat (hi l) % q
          let fl := fun q l => ovr q (P e.toNat (lo l)) ||| ovr q (P e.toNat (hi l))
          uses (.bfly st dd e w t 0) 0xAA 3 dd.toNat rs (fun q _ l =>
            let p := times q (Y q l) l
            (if l.testBit t.toNat then (X q l + q - p.1) % q else (X q l + p.1) % q, fl q l ||| (ovr q (T l) ||| p.2)))
          ∧ uses (.bfly st dd e w t 1) 0xAA 3 dd.toNat rs (fun q _ l =>
            if l.testBit t.toNat then
              let p := times q ((X q l + q - Y q l) % q) l
              (p.1, fl q l ||| (ovr q (T l) ||| p.2))
            else ((X q l + Y q l) % q, fl q l)))

/-- R224, R226, R85: the modular instructions without a modulus: PBF takes the pair of the lane at distance 2^t, PBREV
reverses k bits of the lane's number, PROT.UP and PROT.DN rotate within blocks of 2^k lanes, MULW multiplies into a quad;
and MSHOUP, whose companion has variable latency. -/
def Claims.ModularMoves : Prop :=
  ∀ (st : BitVec 3) (s : State) (x : Group),
    let m := effMask s x
    let P := fun (n l : Nat) => x.regs.pairVal n l
    let moves := fun (i : Instr) op min (ds rs : List Nat) (f : Nat → Nat) =>
      let q : Desc := { modDesc (encode i) op st.toNat min ds rs with masked := true, writes := ds }
      Ready q s x →
        (m = 0 → exec i s = .next (finish s q x))
        ∧ (m ≠ 0 → ∃ vs : Nat → List Word,
            exec i s = .next (finish s q (x.results min (ds.zipIdx.map fun e => (e.1, .vec (m ||| zeroLanes s x m) (vs e.2)))))
            ∧ ∀ j l, j < ds.length → l < 128 → laneGet (vs j) l
                = if m.getLsbD l then BitVec.ofNat 32 (f l / 2 ^ (32 * j)) else 0)
    (∀ (d e : BitVec 6) (k : BitVec 3),
      let ds := [2 * d.toNat, 2 * d.toNat + 1]
      let rs := [2 * e.toNat, 2 * e.toNat + 1]
      let n := 2 ^ k.toNat
      moves (.pbf st d e k) 0xAB 1 ds rs (fun l => P e.toNat (l ^^^ n))
      ∧ (∀ r : BitVec 5,
          moves (.prot st d e r k 0) 0xAD 1 ds rs (fun l => P e.toNat (l / n * n + (l % n + n - r.toNat % n) % n))
          ∧ moves (.prot st d e r k 1) 0xAD 1 ds rs (fun l => P e.toNat (l / n * n + (l % n + r.toNat) % n)))
      ∧ moves (.pbrev st d e k) 0xAC 1 ds rs (fun l =>
          P e.toNat (l / n * n + ((List.range k.toNat).map fun j => ((l % n).testBit (k.toNat - 1 - j)).toNat * 2 ^ j).sum)))
    ∧ (∀ d a b : BitVec 7,
      let qd := [4 * d.toNat, 4 * d.toNat + 1, 4 * d.toNat + 2, 4 * d.toNat + 3]
      moves (.mulw st d a b) 0xAE 3 qd ([2 * a.toNat, 2 * a.toNat + 1] ++ [2 * b.toNat, 2 * b.toNat + 1])
        (fun l => P a.toNat l * P b.toNat l)
      ∧ (let q : Desc := { modDesc (encode (.mshoup st d a)) 0xAF st.toNat 0 [2 * d.toNat, 2 * d.toNat + 1]
                            [2 * a.toNat, 2 * a.toNat + 1] with
                            reads := codeQ :: [2 * a.toNat, 2 * a.toNat + 1], masked := true
                            writes := [2 * d.toNat, 2 * d.toNat + 1] }
         flagsGive (.mshoup st d a) q s x
          (fun l =>
            let qv := x.regs.qmOf l
            let r := P a.toNat l % qv * 18446744073709551616 / qv
            if qv = 0 then ([0xFFFFFFFF, 0xFFFFFFFF], flagMQC)
            else ([BitVec.ofNat 32 r, BitVec.ofNat 32 (r / 4294967296)], if qv ≤ P a.toNat l then flagMQR else 0))
          fun F vs => finish { s with nextId := s.nextId + 1 } q ((x.raise F).outValue s.nextId
            [(2 * d.toNat, .vec (m ||| zeroLanes s x m) (vs 0)), (2 * d.toNat + 1, .vec (m ||| zeroLanes s x m) (vs 1))] x.pc)))

/-- R215, R223, R224, R226, R85: SETQ, GETQ and the modular instructions without a modulus. -/
def Obligations.ModulusSetupAndMoves : Prop := Claims.ModulusSetup ∧ Claims.ModularMoves

/-! ### Memory and capability instructions (R169 to R213) -/

/-- An access of the issuing group x passes: its crew is k, no acquire is pending, which a store does not wait for, no lane
raises a cause, and every page that it touches translates (R171, R174, R187, R196, R197, R256). -/
def accessPasses (s : State) (x : Group) (k : Crew) (a : Access) : Prop :=
  s.crew? s.cur.core s.cur.slot = some k ∧ (a.right ≠ .write → acquirePending x = false)
    ∧ laneCauses (a.causes s s.cur.core k.part x.state) = none ∧ lanePages (a.places s s.cur.core k.part) = []

/-- The bytes of each lane of an access: their addresses, with their lines' effective leases and host visibility. -/
def accessBytes (s : State) (k : Crew) (a : Access) : List (Nat × List ByteAt) :=
  (a.places s s.cur.core k.part).map fun e => (e.1, placeBytes e.2)

/-- An instruction that joins one result o to the group's outstanding results, and otherwise only retires (R85): no
register, no flag and no memory byte changes before the result arrives. -/
def joinsResult (i : Instr) (s : State) (x : Group) (O : State → Outst → Prop) : Prop :=
  ∃ t y o, exec i s = .next t ∧ t.group? s.cur = some y ∧ y.outst = x.outst ++ [o] ∧ y.pc = nextPc s x
    ∧ y.regs = x.regs.endChain ∧ y.pend = x.pend ∧ y.buf = x.buf ∧ y.usc = x.usc
    ∧ (∀ a, cellGet t.mem a = cellGet s.mem a) ∧ O t o

/-- The state of an access by the issuing group, with its object's entry and its translations in the device's caches. -/
def Claims.noted (s : State) (k : Crew) (a : Access) : State :=
  noteAccess s s.cur.core k.part (capObj a.cap) (a.lanes.map fun e => capBase a.cap + e.2) (a.right ≠ .read)

/-- The bytes that lanes load. -/
def Claims.loaded (xs : List (Nat × List ByteAt)) : List Nat := xs.flatMap fun e => e.2.map fun b => b.1

/-- The value that the core's own writes give a byte that the issuing group x loads: forwardBytes of the loaded lines
(R183, R185), which ForwardedBytes states byte by byte. -/
def Claims.forward (s : State) (x : Group) (xs : List (Nat × List ByteAt)) (a : Nat) : Option (BitVec 8) :=
  overlay ((linesOf (Claims.loaded xs)).flatMap (forwardBytes s s.cur x)) a

/-- The copy in the core's cache that serves the bytes of a line that nothing forwards. -/
def Claims.copy (s : State) (x : Group) (xs : List (Nat × List ByteAt)) (line : Nat) : Option HeldLine :=
  cacheHit s s.cur x line (onLine line ((Claims.loaded xs).filter fun a => (overlay (forwarded s s.cur x (Claims.loaded xs)) a).isNone))

/-- A load waits at issue: an atomic of the group targets one of its bytes (R200), an earlier WAITM of the group watches one, or
one of its accesses would read its bytes at two moments (R183, R184; log 64). -/
def Claims.loadHeld (s : State) (x : Group) (xs : List (Nat × List ByteAt)) : Bool :=
  loadWaits s s.cur x (forwarded s s.cur x (Claims.loaded xs)) (Claims.copy s x xs) (xs.map fun e => e.2.map fun b => b.1)

/-- A load (R177, R183, R185, R200) from a state s: each lane holds the addresses of its bytes; a byte that the core's own writes
give has their value; any other is served, with its value and poison, by the live copy in the core's cache that no read or
load of the group rules out, or its line is requested, with one request for each line and its bytes. -/
def loadsBytes (s : State) (x : Group) (xs : List (Nat × List ByteAt)) (ls : List LaneLoad) (got : List (Nat × BitVec 8)) (bad : List Nat)
    (t : State) (o : Outst) : Prop :=
  ls.map (fun l => (l.lane, l.addrs)) = xs.map (fun e => (e.1, e.2.map Prod.fst))
  ∧ (∀ l ∈ ls, ∀ a ∈ l.addrs, overlay l.fwd a = Claims.forward s x xs a)
  ∧ (∀ a ∈ Claims.loaded xs, Claims.forward s x xs a = none →
      (∀ h, Claims.copy s x xs (lineOf a) = some h → overlay got a = some (getAt 0 h.data (a % 128)) ∧ lineOf a ∉ o.awaited
          ∧ h ∈ (s.core s.cur.core).cache ∧ h.line = lineOf a ∧ s.gt + 4 < h.expiry ∧ x.seenVer a ≤ verAt h.vers a
          ∧ (lineOf a ∈ bad ↔ h.poison = true))
      ∧ (Claims.copy s x xs (lineOf a) = none → overlay got a = none ∧ lineOf a ∈ o.awaited))
  ∧ (∀ line ∈ bad, ∃ h ∈ (s.core s.cur.core).cache, h.line = line ∧ h.poison = true)
  ∧ ∃ new : List LoadMsg, t.loads = s.loads ++ new ∧ new.map LoadMsg.line = o.awaited ∧ o.awaited.Nodup
      ∧ ∀ m ∈ new, m.gid = s.cur ∧ m.out = o.id

/-- R183, R185, R188: what a load of a group sees of the writes on its core, byte by byte. First the group's own store buffer, the latest
write; then its own line write in flight, before the others of the core unless a read has placed it before one of them, and
after them once it is performed, until it is acknowledged or the group acquires; then the latest of the core's writes that the
home has not performed. The order of the group's own write against the core's others, by what the group and the core have read and by
acquires, is the model's reading (log 8), and so is that a performed write gives no byte of which a later write is known there. -/
def Claims.ForwardedBytes : Prop :=
  ∀ (s : State) (g : Gid) (x : Group) (line i : Nat), i < 128 →
    let sees := overlay (forwardBytes s g x line) (128 * line + i)
    let last := fun (ws : List WriteMsg) => ws.reverse.findSome? fun w => overlay w.bytes i
    let kept := x.buf.reverse.findSome? fun w => if w.line = line then overlay w.bytes i else none
    let core := s.writes.filter fun w => w.line = line && w.issuer.onCore g.core && w.phase ≠ .ack
    let own := s.writes.find? fun w => w.line = line && w.issuer.isGroup g && (w.phase ≠ .ack || w.acqs = x.acqs)
    (∀ v, kept = some v → sees = some v)
    ∧ (kept = none → own = none → sees = last core)
    ∧ ∀ w, kept = none → own = some w →
        let others := core.filter fun y => y.id ≠ w.id
        (w.phase = .ack → sees = (last others).or (if (s.core g.core).seenVer (128 * line + i) ≤ w.ver ∧ x.seenVer (128 * line + i) ≤ w.ver
            then overlay w.bytes i else none))
        ∧ (w.phase ≠ .ack → (∀ y ∈ others, w.id ∉ y.after) → sees = (overlay w.bytes i).or (last others))
        ∧ (w.phase ≠ .ack → (∃ y ∈ others, w.id ∈ y.after) → sees = last core)

/-- R199, R200, R202, R208, R177, R183, R185: the loads LD, LDU and CAPLD, with the order of the core's writes in flight that log 8 declares. A load that waits at issue (log 64) is held; any other joins its
result to those outstanding, with the values of the bytes that are there already. -/
def Claims.Loads : Prop :=
  ∀ (st : BitVec 3) (c : BitVec 4) (s : State) (x : Group) (k : Crew),
    let cap := getAt 0 x.regs.c c.toNat
    let m := effMask s x
    (∀ (d o : BitVec 7) (z : BitVec 3),
      let ds := sizedRegs z.toNat d.toNat
      let q : Desc := { word := encode (.ld st d c o z), op := 0xB0, st := st.toNat, vtop := topOf (o.toNat :: ds)
                        reads := [o.toNat, codeC c.toNat], writes := ds, masked := true }
      let a : Access := { lanes := (activeLanes m).map fun l => (l, (x.regs.readV o.toNat l).toNat), cap := cap
                          size := 2 ^ z.toNat, right := .read, writes := ds }
      Ready q s x →
        (m = 0 → exec (.ld st d c o z) s = .next (finish s q x))
        ∧ (m ≠ 0 → accessPasses s x k a →
            let u := Claims.noted s k a
            (Claims.loadHeld u x (accessBytes s k a) = true → exec (.ld st d c o z) s = .next (holdIssue u))
            ∧ (Claims.loadHeld u x (accessBytes s k a) = false →
            joinsResult (.ld st d c o z) s x fun t out => out.regs = ds ∧ ∃ ls got bad,
              out.kind = .load (ds.head?.getD 0) (2 ^ z.toNat) ls (zeroLanes s x m) got bad
              ∧ loadsBytes u x (accessBytes s k a) ls got bad t out)))
    ∧ (∀ (d : BitVec 6) (i : BitVec 11),
      let q : Desc := { word := encode (.ldu st d c i), op := 0xB4, st := st.toNat, reads := [codeC c.toNat]
                        writes := [codeS d.toNat] }
      let a : Access := { lanes := [(0, 4 * i.toNat)], cap := cap, size := 4, right := .read, writes := [codeS d.toNat]
                          uniform := true }
      Ready q s x → accessPasses s x k a →
        let u := Claims.noted s k a
        (Claims.loadHeld u x (accessBytes s k a) = true → exec (.ldu st d c i) s = .next (holdIssue u))
        ∧ (Claims.loadHeld u x (accessBytes s k a) = false →
        joinsResult (.ldu st d c i) s x fun t out => out.regs = [codeS d.toNat] ∧ ∃ l got bad,
          out.kind = .loadU d.toNat l got bad ∧ loadsBytes u x (accessBytes s k a) [l] got bad t out))
    ∧ (∀ (d : BitVec 4) (i : BitVec 11),
      let q : Desc := { word := encode (.capld st d c i), op := 0xBB, st := st.toNat, reads := [codeC c.toNat]
                        writes := [codeC d.toNat] }
      let u := s.cacheEntry k.part (capObj cap)
      let bs := placeBytes (objRange u s.cur.core k.part (capObj cap) (capBase cap + 4 * i.toNat) 16 false)
      let xs := [(4 * i.toNat, bs)]
      Ready q s x → s.crew? s.cur.core s.cur.slot = some k → acquirePending x = false →
        leastCause (capCauses s k.part cap (4 * i.toNat) .read) = none →
        (Claims.loadHeld u x xs = true → exec (.capld st d c i) s = .next (holdIssue u))
        ∧ (Claims.loadHeld u x xs = false →
        joinsResult (.capld st d c i) s x fun t out => out.regs = [codeC d.toNat] ∧ ∃ l got bad,
          out.kind = .loadC d.toNat l got bad ∧ loadsBytes u x xs [l] got bad t out))

/-- Bytes at their addresses, the later one of the list prevailing. -/
def lineBytesOf (ws : List (Nat × List (Nat × BitVec 8))) : List (Nat × BitVec 8) :=
  ws.flatMap fun w => w.2.map fun b => (128 * w.1 + b.1, b.2)

/-- A store (R181, R182, R200): the group retires; for each line of the bytes one line write is sent, or put into the
store buffer behind the group's earlier writes of its line; together they hold exactly the bytes `bs`, the later byte of
the list prevailing; USC rises by one for each. One is sent only where nothing of the group is in flight on its line, or waits
for it, and no acquire is pending. The store itself changes no byte of memory and no register. -/
def storesBytes (i : Instr) (s : State) (x : Group) (bs : List (Nat × BitVec 8)) : Prop :=
  ∃ t y sent kept, exec i s = .next t ∧ t.group? s.cur = some y ∧ y.pc = nextPc s x
    ∧ y.regs = x.regs.endChain ∧ y.pend = x.pend ∧ y.outst = x.outst
    ∧ t.writes = s.writes ++ sent ∧ y.buf = x.buf ++ kept
    ∧ (∀ w ∈ sent, w.issuer = .group s.cur ∧ w.phase = .toHome ∧ acquirePending x = false ∧ lineInFlight s s.cur w.line = false
        ∧ ∀ b ∈ x.buf, b.line ≠ w.line)
    ∧ (let new := sent.map (fun w => (w.line, w.bytes)) ++ kept.map fun w => (w.line, w.bytes)
       (new.map Prod.fst).Nodup ∧ (∀ a, overlay (lineBytesOf new) a = overlay bs a)
        ∧ y.usc = x.usc + BitVec.ofNat 32 new.length)
    ∧ ∀ a, cellGet t.mem a = cellGet s.mem a

/-- R199, R200, R202, R208, R182: the stores ST, STU and CAPST: the value's bytes go, lowest first, to the bytes of each
lane, in ascending lane order. A store whose waiting line writes the store buffer has no room for is held (whole: log 50). -/
def Claims.Stores : Prop :=
  ∀ (st : BitVec 3) (c : BitVec 4) (s : State) (x : Group) (k : Crew),
    let cap := getAt 0 x.regs.c c.toNat
    let m := effMask s x
    let room := fun (u : State) (bs : List (Nat × BitVec 8 × Nat × Bool)) => bufferRoom u s.cur x (lineWrites s.nextId bs)
    let stores := fun (i : Instr) (u : State) (bs : List (Nat × BitVec 8 × Nat × Bool)) =>
      (room u bs = false → exec i s = .next (holdIssue u)) ∧ (room u bs = true → storesBytes i s x (bs.map fun b => (b.1, b.2.1)))
    let at' := fun (xs : List ByteAt) (v : Nat) => xs.zipIdx.map fun b => (b.1.1, BitVec.ofNat 8 (v / 256 ^ b.2), b.1.2)
    (∀ (d o : BitVec 7) (z : BitVec 3),
      let ds := sizedRegs z.toNat d.toNat
      let q : Desc := { word := encode (.st st d c o z), op := 0xB1, st := st.toNat, vtop := topOf (o.toNat :: ds)
                        reads := o.toNat :: codeC c.toNat :: ds, masked := true }
      let a : Access := { lanes := (activeLanes m).map fun l => (l, (x.regs.readV o.toNat l).toNat), cap := cap
                          size := 2 ^ z.toNat, right := .write }
      let val := fun l => (ds.zipIdx.map fun r => (x.regs.readV r.1 l).toNat * 2 ^ (32 * r.2)).sum
      let bs := (accessBytes s k a).flatMap fun e => at' e.2 (val e.1)
      Ready q s x →
        (m = 0 → exec (.st st d c o z) s = .next (finish s q x))
        ∧ (m ≠ 0 → accessPasses s x k a → stores (.st st d c o z) (Claims.noted s k a) bs))
    ∧ (∀ (d : BitVec 6) (i : BitVec 11),
      let q : Desc := { word := encode (.stu st d c i), op := 0xB5, st := st.toNat, reads := [codeS d.toNat, codeC c.toNat] }
      let a : Access := { lanes := [(0, 4 * i.toNat)], cap := cap, size := 4, right := .write, uniform := true }
      let bs := (accessBytes s k a).flatMap fun e => at' e.2 (x.regs.readS d.toNat).toNat
      Ready q s x → accessPasses s x k a → stores (.stu st d c i) (Claims.noted s k a) bs)
    ∧ (∀ (d : BitVec 4) (i : BitVec 11),
      let q : Desc := { word := encode (.capst st d c i), op := 0xBC, st := st.toNat, reads := [codeC c.toNat, codeC d.toNat] }
      let u := s.cacheEntry k.part (capObj cap)
      let bs := at' (placeBytes (objRange u s.cur.core k.part (capObj cap)
        (capBase cap + 4 * i.toNat) 16 true)) (getAt 0 x.regs.c d.toNat).toNat
      Ready q s x → s.crew? s.cur.core s.cur.slot = some k →
        leastCause (capCauses s k.part cap (4 * i.toNat) .write) = none → stores (.capst st d c i) u bs)

/-- R183, R185, R188, R199, R200, R202, R208, R177, R182: LD, LDU, CAPLD, ST, STU and CAPST, and the bytes that a load sees of its core's own writes. -/
def Obligations.LoadsAndStores : Prop := Claims.ForwardedBytes ∧ Claims.Loads ∧ Claims.Stores

/-- R203 to R205, R181: ATOM and ATOMX send one message for each line they touch, with the operation of each active lane in
ascending order; USC rises by their number (one for each line: log 26), and the old values are outstanding. While a write or atomic of
the group is in flight on a line, or waits for one, the instruction is held; so it is while an earlier WAITM watches a byte (log 64). -/
def Claims.Atomics : Prop :=
  ∀ (st f : BitVec 3) (d o : BitVec 7) (c : BitVec 4) (s : State) (x : Group) (k : Crew),
    let m := effMask s x
    let a : Access := { lanes := (activeLanes m).map fun l => (l, (x.regs.readV o.toNat l).toNat)
                        cap := getAt 0 x.regs.c c.toNat, size := 4, right := .atomic, writes := [d.toNat] }
    let sends := fun (i : Instr) (q : Desc) (op v2 : Nat) =>
      let bytes := accessBytes s k a
      let ls := linesOf (bytes.flatMap fun e => e.2.map fun b => b.1)
      Ready q s x →
        (m = 0 → exec i s = .next (finish s q x))
        ∧ (m ≠ 0 → accessPasses s x k a →
          let u := Claims.noted s k a
          let waits := (∃ l ∈ ls, lineInFlight s s.cur l = true ∨ ∃ b ∈ x.buf, b.line = l)
            ∨ watched u s.cur x s.nextId (bytes.flatMap fun e => e.2.map fun b => b.1) = true
          (waits → exec i s = .next (holdIssue u))
          ∧ (¬ waits → ∃ t y out new, exec i s = .next t ∧ t.group? s.cur = some y ∧ y.pc = nextPc s x
            ∧ y.regs = x.regs.endChain ∧ y.outst = x.outst ++ [out] ∧ out.regs = [d.toNat]
            ∧ out.kind = .atom d.toNat m [] [] ∧ out.awaited = ls ∧ y.usc = x.usc + BitVec.ofNat 32 ls.length
            ∧ t.atoms = s.atoms ++ new ∧ new.map AtomMsg.line = ls
            ∧ (∀ n ∈ new, n.issuer = .group s.cur ∧ n.out = out.id ∧ n.phase = .toHome
                ∧ n.ops = (bytes.map fun e => (⟨e.1, (e.2.head?.getD (0, 0, false)).1, op,
                    x.regs.readV d.toNat e.1, x.regs.readV v2 e.1⟩ : AtomOp)).filter fun p => p.addr / 128 = n.line)
            ∧ ∀ b, cellGet t.mem b = cellGet s.mem b))
    sends (.atom st d c o f) { word := encode (.atom st d c o f), op := 0xB6, st := st.toNat, vtop := topOf [d.toNat, o.toNat]
                               reads := [o.toNat, d.toNat, codeC c.toNat], writes := [d.toNat], masked := true } f.toNat d.toNat
    ∧ (let v2 := if f = 1 then d.toNat + 1 else d.toNat
       sends (.atomx st d c o f) { word := encode (.atomx st d c o f), op := 0xB7, st := st.toNat, vtop := topOf [v2, o.toNat]
                                   reads := [o.toNat, d.toNat, v2, codeC c.toNat], writes := [d.toNat], masked := true }
        (f.toNat + 8) v2)

/-- R203, R205, R110: the operations of the atomics on a word: sums modulo 2^32, signed and unsigned minima and maxima, logic,
exchange, compare-and-swap, which writes only where the old value is the expected one, and ATOMX.FADD, which writes the exact
sum of two F32 values rounded once to nearest-even, subnormals kept, the canonical NaN for a NaN or opposite infinities. -/
def Claims.AtomicOperations : Prop :=
  ∀ old v v2 : Word,
    atomValue 0 old v v2 = old + v
    ∧ (atomValue 1 old v v2).toInt = min old.toInt v.toInt ∧ (atomValue 2 old v v2).toInt = max old.toInt v.toInt
    ∧ (atomValue 3 old v v2).toNat = min old.toNat v.toNat ∧ (atomValue 4 old v v2).toNat = max old.toNat v.toNat
    ∧ atomValue 5 old v v2 = old &&& v ∧ atomValue 6 old v v2 = old ||| v ∧ atomValue 7 old v v2 = old ^^^ v
    ∧ atomValue 8 old v v2 = v ∧ atomValue 9 old v v2 = (if old = v then v2 else old)
    ∧ (let a := decodeFloat .f32 old.toNat
       let b := decodeFloat .f32 v.toNat
       (∀ n m e n' m' e', a = .fin n m e → b = .fin n' m' e' →
          let z : Int := scaledTo (-149) a + scaledTo (-149) b
          (z ≠ 0 → atomValue 10 old v v2 = BitVec.ofNat 32 (roundFin .f32 0 false (decide (z < 0)) z.natAbs (-149)).1)
          ∧ (z = 0 → atomValue 10 old v v2 = if n = true ∧ n' = true then 0x80000000 else 0))
       ∧ (a.isNan = true ∨ b.isNan = true ∨ (a = .inf true ∧ b = .inf false) ∨ (a = .inf false ∧ b = .inf true) →
          atomValue 10 old v v2 = 0x7FC00000)
       ∧ ∀ n, (a = .inf n ∧ b.isNan = false ∧ b ≠ .inf (!n)) ∨ (b = .inf n ∧ a.isNan = false ∧ a ≠ .inf (!n)) →
          atomValue 10 old v v2 = if n then 0xFF800000 else 0x7F800000)

/-- R203, R205, R181, R110: ATOM and ATOMX, and the value each operation writes. -/
def Obligations.AtomicAccesses : Prop := Claims.Atomics ∧ Claims.AtomicOperations

/-- R171, R170, R196, R174: what an access of z bytes at offset o of a capability raises, for an object that is no accumulator
window: 0x09 without the right, for an empty capability, and for a write of a read-only or capability-bearing object;
0x08 beyond the capability; 0x0A where the address is no multiple of the size; 0x11 for a malformed entry, beyond the object, or where the
translation of one of its bytes is refused (R364), as on a slice that the partition may not reach. The instruction takes the lowest cause
of its lanes, with the lowest lane that raises it, before any lane has an effect. That a write through a malformed entry raises
0x11, and no 0x09 for it, is the model's choice (log 63: R174 does not say). -/
def Claims.AccessCauses : Prop :=
  (∀ (s : State) (part : Nat) (gs : GState) (cap : BitVec 128) (o z : Nat) (r : Right), accWindow? (capObj cap) = none → z ≠ 0 →
    let e := objEntry s part (capObj cap)
    let bad := entryMalformed (s.part part) e
    let cs := accessCauses s part gs cap o z r
    (0x08 ∈ cs ↔ capLen cap < o + z)
    ∧ (0x0A ∈ cs ↔ ¬ z ∣ capBase cap + o)
    ∧ (0x09 ∈ cs ↔ r.of cap = false ∨ (r ≠ .read ∧ bad = false ∧ (entryCapb e = true ∨ entryRo e = true)) ∨ capObj cap = 0)
    ∧ (0x11 ∈ cs ↔ capObj cap ≠ 0 ∧ (bad = true ∨ entrySize e < capBase cap + o + z))
    ∧ ∀ c ∈ cs, c ∈ [0x08, 0x09, 0x0A, 0x11])
  ∧ (∀ (s : State) (core part : Nat) (gs : GState) (cap : BitVec 128) (o z : Nat) (r : Right),
    let cs := laneAccessCauses s core part gs cap o z r
    let e := objEntry s part (capObj cap)
    (∀ c, c ∈ cs ↔ c ∈ accessCauses s part gs cap o z r ∨ (c = 0x11 ∧ accessRefused s core part cap o z r = true))
    ∧ ∀ a, accWindow? (capObj cap) = none → capObj cap ≠ 0 → z ≠ 0 → entryMalformed (s.part part) e = false → entryKind e = 1
        → capBase cap + o < entrySize e
        → translate s (stackOf core) (s.part part).pasid (entryVbase e + capBase cap + o) (decide (r ≠ .read)) = some a
        → (s.part part).reaches a = false → 0x11 ∈ cs)
  ∧ (∀ xs : List (Nat × List Nat),
      (laneCauses xs = none ↔ ∀ e ∈ xs, e.2 = [])
      ∧ ∀ c l, laneCauses xs = some (c, l) → (∀ e ∈ xs, ∀ c' ∈ e.2, c ≤ c')
          ∧ ∃ above e below, xs = above ++ e :: below ∧ e.1 = l ∧ c ∈ e.2 ∧ ∀ e' ∈ above, c ∉ e'.2)
  ∧ (∀ (st : BitVec 3) (d o : BitVec 7) (c : BitVec 4) (z : BitVec 3) (s : State) (x : Group) (k : Crew) (cause lane : Nat),
      let ds := sizedRegs z.toNat d.toNat
      let lanes := (activeLanes (effMask s x)).map fun l => (l, (x.regs.readV o.toNat l).toNat)
      let cap := getAt 0 x.regs.c c.toNat
      let qr : Desc := { word := encode (.ld st d c o z), op := 0xB0, st := st.toNat, vtop := topOf (o.toNat :: ds)
                         reads := [o.toNat, codeC c.toNat], writes := ds, masked := true }
      let qw : Desc := { word := encode (.st st d c o z), op := 0xB1, st := st.toNat, vtop := topOf (o.toNat :: ds)
                         reads := o.toNat :: codeC c.toNat :: ds, masked := true }
      s.crew? s.cur.core s.cur.slot = some k → effMask s x ≠ 0 →
        (acquirePending x = false → Ready qr s x → laneCauses (lanes.map fun e => (e.1, laneAccessCauses s s.cur.core k.part x.state cap e.2 (2 ^ z.toNat) .read)) = some (cause, lane) →
          exec (.ld st d c o z) s = .next (takeTrap s cause (BitVec.ofNat 32 lane)))
        ∧ (Ready qw s x → laneCauses (lanes.map fun e => (e.1, laneAccessCauses s s.cur.core k.part x.state cap e.2 (2 ^ z.toNat) .write)) = some (cause, lane) →
          exec (.st st d c o z) s = .next (takeTrap s cause (BitVec.ofNat 32 lane))))

/-- R120, R171, R170, R196, R174, R364: Which cause an arithmetic condition and an access take, and which lane. -/
def Obligations.TrapCauses : Prop := Claims.ArithmeticTrapCauses ∧ Claims.AccessCauses

/-- R198, R201, R203, R213, R187: scratchpad words and FIFO ports. Below 0x800000 an offset names a scratchpad word; at 0x800000 + 16f + w, w below 4, a word that
LDS pops from FIFO f and STS pushes into it, and w from 4 to 7 the count of FIFO f. A misaligned offset raises 0x0A, one beyond
the crew's scratchpad, of a FIFO that the crew has not, or of no port raises 0x0B; the instruction takes the lowest cause of its
lanes with the lowest lane that raises it. LDS reads scratchpad words, counts and, in ascending lane order, popped words, and
joins them to the outstanding results; with too few words in a FIFO it waits. STS writes and pushes in ascending lane order; with
no room in a FIFO, or with a push before the group's earlier stores have left it, it is held; while an acquire is pending its
scratchpad words are kept. That a count read beside pops is the count before them is the model's choice (log 26). ATOMS reads and updates each word in ascending lane order, with the causes of scratchpad words. -/
def Obligations.ScratchpadWords : Prop :=
  (∀ (granules : List Nat) (n o : Nat) (store : Bool) (c : Nat), c ∈ wordCauses granules n o store ↔
    (c = 0x0A ∧ ¬ 4 ∣ o)
    ∨ (c = 0x0B ∧ o < 0x800000 ∧ 128 * granules.length < o + 4)
    ∨ (c = 0x0B ∧ 0x800000 ≤ o ∧ (n ≤ (o - 0x800000) / 16 ∨ 8 ≤ o % 16 ∨ (store = true ∧ 4 ≤ o % 16))))
  ∧ (∀ (granules : List Nat) (o c : Nat), c ∈ scratchCauses granules o 4 ↔ (c = 0x0A ∧ ¬ 4 ∣ o) ∨ (c = 0x0B ∧ 128 * granules.length < o + 4))
  ∧ ∀ (st f : BitVec 3) (d a i : BitVec 7) (s : State) (x : Group) (k : Crew),
    let m := effMask s x
    let c := s.core s.cur.core
    let off := fun l => (x.regs.readV a.toNat l).toNat + 4 * i.toNat
    let off0 := fun l => (x.regs.readV a.toNat l).toNat
    let D := fun l => x.regs.readV d.toNat l
    let on := activeLanes m
    let causes := fun (g : Nat → List Nat) => laneCauses (on.map fun l => (l, g l))
    let data := fun f l => decide (0x800000 + 16 * f ≤ off l ∧ off l < 0x800000 + 16 * f + 4)
    let moved := fun f L => ((on.filter (data f)).filter fun l => decide (l < L)).length
    let words := fun f => (c.bank (getAt 0 k.fifos f)).fifo
    let n := k.fifos.length
    let clean := s.poison = []
    let ql : Desc := { word := encode (.lds st d a i), op := 0xB2, st := st.toNat, vtop := topOf [d.toNat, a.toNat]
                       reads := [a.toNat], writes := [d.toNat], masked := true }
    let qs : Desc := { word := encode (.sts st d a i), op := 0xB3, st := st.toNat, vtop := topOf [d.toNat, a.toNat]
                       reads := [a.toNat, d.toNat], masked := true }
    let qa : Desc := { word := encode (.atoms st d a f), op := 0xB8, st := st.toNat, vtop := topOf [d.toNat, a.toNat]
                       reads := [a.toNat, d.toNat], writes := [d.toNat], masked := true }
    s.crew? s.cur.core s.cur.slot = some k → k.fifos.Nodup → n ≤ 4 →
      (m = 0 → (Ready ql s x → exec (.lds st d a i) s = .next (finish s ql x)) ∧ (Ready qs s x → exec (.sts st d a i) s = .next (finish s qs x))
        ∧ (Ready qa s x → exec (.atoms st d a f) s = .next (finish s qa x)))
      ∧ (m ≠ 0 → Ready ql s x → acquirePending x = false → clean → causes (fun l => wordCauses k.granules n (off l) false) = none →
          ((∃ f, f < n ∧ (words f).length < moved f 128) → ∃ t y f, exec (.lds st d a i) s = .next t ∧ t.group? s.cur = some y
            ∧ f < n ∧ (words f).length < moved f 128 ∧ y.wait = .fifo f ∧ t.core s.cur.core = { c with crews := (t.core s.cur.core).crews })
          ∧ ((∀ f, f < n → moved f 128 ≤ (words f).length) → ∃ t y vs, exec (.lds st d a i) s = .next t ∧ t.group? s.cur = some y
            ∧ y.pc = nextPc s x ∧ y.regs = x.regs.endChain ∧ y.pend = x.pend
            ∧ y.outst = x.outst ++ [⟨s.nextId, [d.toNat], .scratch [(d.toNat, .vec (m ||| zeroLanes s x m) vs)], [], x.pc⟩]
            ∧ (∀ l, l < 128 → laneGet vs l = if m.getLsbD l = false then 0
                else if off l < 0x800000 then scratchWord c k.granules (off l)
                else let f := (off l - 0x800000) / 16
                  if off l % 16 < 4 then getAt 0 (words f) (moved f l) else BitVec.ofNat 32 (words f).length)
            ∧ (t.core s.cur.core).sram = c.sram ∧ t.mem = s.mem
            ∧ ∀ f, f < n → ((t.core s.cur.core).bank (getAt 0 k.fifos f)).fifo = (words f).drop (moved f 128)))
      ∧ (m ≠ 0 → Ready qs s x → causes (fun l => wordCauses k.granules n (off l) true) = none →
          let ports := ∃ f, f < n ∧ 0 < moved f 128
          ((∃ f, f < n ∧ 65536 < (words f).length + moved f 128) ∨ (ports ∧ (acquirePending x = true ∨ releasedCore x = false)) →
            exec (.sts st d a i) s = .next (holdIssue s))
          ∧ ((∀ f, f < n → (words f).length + moved f 128 ≤ 65536) → acquirePending x = false → (ports → releasedCore x = true) → ∃ t y,
            exec (.sts st d a i) s = .next t ∧ t.group? s.cur = some y ∧ y.pc = nextPc s x ∧ y.regs = x.regs.endChain ∧ t.mem = s.mem
            ∧ (t.core s.cur.core).sram = ((on.filter fun l => decide (off l < 0x800000)).foldl
                (fun c l => scratchWriteWord c k.granules (off l) (D l)) c).sram
            ∧ ∀ f, f < n → ((t.core s.cur.core).bank (getAt 0 k.fifos f)).fifo = words f ++ (on.filter (data f)).map D)
          ∧ (acquirePending x = true → ¬ ports → exec (.sts st d a i) s
              = .next (finish s qs { x with bankBuf := x.bankBuf ++ on.map fun l => (off l, D l) })))
      ∧ (m ≠ 0 → Ready qa s x → acquirePending x = false → clean → causes (fun l => scratchCauses k.granules (off0 l) 4) = none → ∃ c' vs,
          exec (.atoms st d a f) s = .next (finish ({ s with nextId := s.nextId + 1 }.setCore s.cur.core c') qa
            { x with outst := x.outst ++ [⟨s.nextId, [d.toNat], .scratch [(d.toNat, .vec m vs)], [], x.pc⟩] })
          ∧ c' = on.foldl (fun c l =>
              scratchWriteWord c k.granules (off0 l) (atomValue f.toNat (scratchWord c k.granules (off0 l)) (D l) 0)) c
          ∧ ∀ before l after, on = before ++ l :: after → laneGet vs l = scratchWord (before.foldl (fun c l =>
              scratchWriteWord c k.granules (off0 l) (atomValue f.toNat (scratchWord c k.granules (off0 l)) (D l) 0)) c)
              k.granules (off0 l))
      ∧ ∀ cause lane, m ≠ 0 →
          (Ready ql s x → acquirePending x = false → causes (fun l => wordCauses k.granules n (off l) false) = some (cause, lane) →
            exec (.lds st d a i) s = .next (takeTrap s cause (BitVec.ofNat 32 lane)))
          ∧ (Ready qs s x → causes (fun l => wordCauses k.granules n (off l) true) = some (cause, lane) →
            exec (.sts st d a i) s = .next (takeTrap s cause (BitVec.ofNat 32 lane)))
          ∧ (Ready qa s x → acquirePending x = false → causes (fun l => scratchCauses k.granules (off0 l) 4) = some (cause, lane) →
            exec (.atoms st d a f) s = .next (takeTrap s cause (BitVec.ofNat 32 lane)))

/-- R187, R197, R206: FENCE holds its group at issue until it is complete: with release until the group's earlier stores have
left it, at device scope until they are globally complete; with acquire until every earlier load and atomic has returned. -/
def Claims.Fences : Prop :=
  ∀ (st : BitVec 3) (c k : BitVec 2) (s : State) (x : Group),
    let q : Desc := { word := encode (.fence st c k), op := 0xB9, st := st.toNat }
    let left := x.buf = [] ∧ x.bankBuf = [] ∧ ∀ o ∈ x.outst, ∀ r m g p, o.kind ≠ .atom r m g p
    let complete := x.usc = 0 ∧ x.buf = [] ∧ x.bankBuf = [] ∧ x.lgwct.toNat ≤ s.gt
    let released := if c.toNat < 2 then left else complete
    let acquired := ∀ o ∈ x.outst, ∃ ws, o.kind = .value ws
    Ready q s x →
      ((k ≠ 2 ∧ ¬ released) ∨ (k ≠ 1 ∧ ¬ acquired) → ∃ t y, exec (.fence st c k) s = .next t ∧ t.group? s.cur = some y ∧ y.held = some s.gt
        ∧ ∃ g, s.group? s.cur = some g ∧ y = { g with held := some s.gt, starved := false, ready := 0 })
      ∧ (k = 1 → released → exec (.fence st c k) s = .next (finish s q x))
      ∧ (k ≠ 1 → (k = 2 ∨ released) → acquired →
          exec (.fence st c k) s = .next (finish s q { x with acqs := x.acqs + 1, acq := [] }))

/-- R207: WAITM joins a wait on the word at its object's byte, with the comparand, the condition and the deadline of its
scalars; a reserved condition traps with 0x02 and that scalar. WAITM_POLL (a step of the device) reads the word. -/
def Claims.MemoryWait : Prop :=
  ∀ (st : BitVec 3) (d : BitVec 6) (c : BitVec 4) (i : BitVec 11) (s : State) (x : Group) (k : Crew),
    let S := fun j => x.regs.readS (d.toNat + j)
    let cap := getAt 0 x.regs.c c.toNat
    let q : Desc := { word := encode (.waitm st d c i), op := 0xBA, st := st.toNat
                      reads := [codeC c.toNat, codeS d.toNat, codeS (d.toNat + 1), codeS (d.toNat + 2), codeS (d.toNat + 3)]
                      writes := [codeS d.toNat, codeS (d.toNat + 1)] }
    let a : Access := { lanes := [(0, 4 * i.toNat)], cap := cap, size := 4, right := .read
                        writes := [codeS d.toNat, codeS (d.toNat + 1)], uniform := true }
    Ready q s x →
      (3 ≤ (S 1).toNat → exec (.waitm st d c i) s = .next (takeTrap s 0x02 (S 1)))
      ∧ ((S 1).toNat < 3 → accessPasses s x k a → joinsResult (.waitm st d c i) s x fun _ o =>
          o.regs = [codeS d.toNat, codeS (d.toNat + 1)] ∧ o.kind = .waitm ⟨d.toNat, S 0, (S 1).toNat,
            (S 2).toNat + 4294967296 * (S 3).toNat, capObj cap, capBase cap + 4 * i.toNat, none, none, false⟩)

/-- R187, R197, R206, R207: FENCE and WAITM. -/
def Obligations.FencesAndMemoryWait : Prop := Claims.Fences ∧ Claims.MemoryWait

/-- R209, R210, R169: CAPSUB narrows a capability: the base moves up by Δ, the length becomes n, the rights are masked, the
object stays; that a base beyond 40 bits becomes the greatest one is the model's choice (log 65). It traps for reserved bits (0x02), without DERIVE (0x09) and where the new range leaves the old one (0x08), in
this order. CAPINFO reads the four words of a capability. -/
def Claims.Capabilities : Prop :=
  ∀ (st : BitVec 3) (d a : BitVec 4) (b : BitVec 6) (s : State) (x : Group), b.toNat ≤ 60 →
    let S := fun j => x.regs.readS (b.toNat + j)
    let cs := getAt 0 x.regs.c a.toNat
    let q : Desc := { word := encode (.capsub st d a b), op := 0xBD, st := st.toNat
                      reads := [codeC a.toNat, codeS b.toNat, codeS (b.toNat + 1), codeS (b.toNat + 2), codeS (b.toNat + 3)]
                      writes := [codeC d.toNat] }
    let delta := ((S 1).extractLsb' 0 8 ++ S 0).toNat
    let n := ((S 3).extractLsb' 0 8 ++ S 2).toNat
    let bad1 := (S 1).extractLsb' 12 20 ≠ 0
    let bad3 := (S 3).extractLsb' 8 24 ≠ 0
    let base := (cs.extractLsb' 32 40).toNat
    let len := (cs.extractLsb' 72 40).toNat
    let derive := cs.getLsbD 27 = true ∧ cs.extractLsb' 0 24 ≠ 0
    (Ready q s x →
      (bad1 → exec (.capsub st d a b) s = .next (takeTrap s 0x02 (S 1)))
      ∧ (¬ bad1 → bad3 → exec (.capsub st d a b) s = .next (takeTrap s 0x02 (S 3)))
      ∧ (¬ bad1 → ¬ bad3 → ¬ derive → exec (.capsub st d a b) s = .next (takeTrap s 0x09 0))
      ∧ (¬ bad1 → ¬ bad3 → derive → len < delta + n → exec (.capsub st d a b) s = .next (takeTrap s 0x08 (S 0)))
      ∧ (¬ bad1 → ¬ bad3 → derive → delta + n ≤ len → ∃ v : BitVec 128,
          exec (.capsub st d a b) s = .next (finish s q { x with regs := { x.regs with c := setAt 0 x.regs.c d.toNat v } })
          ∧ v.extractLsb' 0 24 = cs.extractLsb' 0 24 ∧ (v.extractLsb' 32 40).toNat = min (2 ^ 40 - 1) (base + delta)
          ∧ (v.extractLsb' 72 40).toNat = n ∧ v.extractLsb' 24 4 = cs.extractLsb' 24 4 &&& (S 1).extractLsb' 8 4
          ∧ v.extractLsb' 28 4 = 0 ∧ v.extractLsb' 112 16 = 0))
    ∧ (let q : Desc := { word := encode (.capinfo st b a), op := 0xBE, st := st.toNat, reads := [codeC a.toNat]
                         writes := [codeS b.toNat, codeS (b.toNat + 1), codeS (b.toNat + 2), codeS (b.toNat + 3)] }
       Ready q s x → exec (.capinfo st b a) s = .next (finish s q ((((x.result 0 (codeS b.toNat) (.scal (cs.extractLsb' 0 32))).result 0
          (codeS (b.toNat + 1)) (.scal (cs.extractLsb' 32 32))).result 0 (codeS (b.toNat + 2)) (.scal (cs.extractLsb' 64 32))).result 0
          (codeS (b.toNat + 3)) (.scal (cs.extractLsb' 96 32)))))

/-- R211, R212: BMODE.Q reads a bank's mode; BMODE in core handler state checks its operands and writes the
status of a refusal, which changes nothing: 1 for a bank or mode that does not exist, 2 for a 25th bank in Dormer mode, 3 for a
scratchpad bank whose granules are in use, 4 for a FIFO in use, 5 for a Dormer bank with a slate that no spill object takes. A
bank that has the mode keeps it, and one that changes from cache mode takes the mode; both read status 0. The other banks stay,
but that those which fell idle while this change was at work return to cache mode, and the placements that waited for it are decided. That a BMODE is held
while another group's is at work on the core (log 54), and that the bank keeps all but its pin where the mode is the same, and that
BMODE.Q takes the low 5 bits of its register, and that status 2 stands before 3 and 4 where two refusals hold (log 26), are the model's choice. -/
def Claims.BankModes : Prop :=
  ∀ (st : BitVec 3) (d a b : BitVec 6) (s : State) (x : Group),
    let c := s.core s.cur.core
    let n := x.regs.readS a.toNat
    let mode := x.regs.readS b.toNat
    let status := fun v => x.result 0 (codeS d.toNat) (.scal v)
    (let q : Desc := { word := encode (.bmodeQ st d a), op := 0xBF, st := st.toNat, priv := .core, reads := [codeS a.toNat]
                       writes := [codeS d.toNat] }
     Ready q s x → exec (.bmodeQ st d a) s = .next (finish s q (status (BitVec.ofNat 32 (match (c.bank (n.toNat % 32)).mode with
      | .cache => 0 | .scratch => 1 | .fifo => 2 | .dormer => 3)))))
    ∧ (let q : Desc := { word := encode (.bmode st d a b), op := 0xBF, st := st.toNat, priv := .core
                         reads := [codeS a.toNat, codeS b.toNat], writes := [codeS d.toNat] }
       let bank := c.bank n.toNat
       let code := match bank.mode with | .cache => 0 | .scratch => 1 | .fifo => 2 | .dormer => 3
       let after := fun c' => finish ((s.bankPoison s.cur.core c').setCore s.cur.core c') q (status 0)
       let completes := fun c' => exec (.bmode st d a b) s
         = .next (if c.changing then placementPass (after c') (slotPart s s.cur) else after c')
       let others := fun (c' : Core) (j : Nat) => c'.bank j = c.bank j
         ∨ (c.changing = true ∧ c.idleBank j = true ∧ (c'.bank j).mode = .cache)
       Ready q s x → (bankBusy s s.cur = true → exec (.bmode st d a b) s = .next (holdIssue s)) ∧ (bankBusy s s.cur = false →
        (32 ≤ n.toNat ∨ 4 ≤ mode.toNat → exec (.bmode st d a b) s = .next (finish s q (status 1)))
        ∧ (n.toNat < 32 → mode = 3 → bank.mode ≠ .dormer →
            24 ≤ ((List.range 32).filter fun j => decide ((c.bank j).mode = .dormer)).length →
            exec (.bmode st d a b) s = .next (finish s q (status 2)))
        ∧ (n.toNat < 32 → bank.mode = .scratch → (mode = 0 ∨ mode = 2) → (∃ g ∈ c.usedGranules, granuleIn n.toNat g = true) →
            exec (.bmode st d a b) s = .next (finish s q (status 3)))
        ∧ (n.toNat < 32 → bank.mode = .fifo → (mode = 0 ∨ mode = 1) → n.toNat ∈ c.usedFifos →
            exec (.bmode st d a b) s = .next (finish s q (status 4)))
        ∧ (n.toNat < 32 → bank.mode = .dormer → mode.toNat < 3 →
            (∃ D ∈ c.dormers, (∃ z ∈ D.slates, z.bank = some n.toNat) ∧ ∀ w, s.win? D.launch = some w → w.spill = 0) →
            exec (.bmode st d a b) s = .next (finish s q (status 5)))
        ∧ (n.toNat < 32 → mode.toNat = code → ∃ c',
            completes c'
            ∧ (c'.bank n.toNat).mode = bank.mode ∧ (c'.bank n.toNat).fifo = bank.fifo ∧ c'.sram = c.sram
            ∧ ∀ j, j ≠ n.toNat → others c' j)
        ∧ (n.toNat < 32 → bank.mode = .cache → (mode = 1 ∨ mode = 2 ∨ (mode = 3
            ∧ ((List.range 32).filter fun j => decide ((c.bank j).mode = .dormer)).length < 24)) → (∀ D ∈ c.dormers, ∀ z ∈ D.slates, z.bank ≠ some n.toNat) → ∃ c',
            completes c'
            ∧ (c'.bank n.toNat).mode = (if mode = 1 then .scratch else if mode = 2 then .fifo else .dormer) ∧ (c'.bank n.toNat).pinned = true
            ∧ ∀ j, j ≠ n.toNat → others c' j)))

/-- R209, R210, R169, R211, R212: CAPSUB, CAPINFO and BMODE. -/
def Obligations.CapabilitiesAndBankModes : Prop := Claims.Capabilities ∧ Claims.BankModes

/-! ### The copy engine (R227 to R242) -/

/-- A job instruction that creates a job (R228): the group goes on, with the job in its open batch and in a slot of its
core; nothing is moved yet. -/
def createsJob (i : Instr) (s : State) (x : Group) (k : Crew) (J : Job → Prop) : Prop :=
  ∃ t y j, exec i s = .next t ∧ t.group? s.cur = some y ∧ y.pc = nextPc s x ∧ y.regs = x.regs.endChain
    ∧ y.openJobs = x.openJobs ++ [j.id] ∧ (t.core s.cur.core).jobs = (s.core s.cur.core).jobs ++ [j]
    ∧ j.part = k.part ∧ j.launch = k.launch ∧ j.crew = k.index ∧ j.slot = s.cur.slot ∧ j.grp = s.cur.grp ∧ j.batch = x.batch + 1
    ∧ j.granules = k.granules ∧ j.started = false ∧ (∀ a, cellGet t.mem a = cellGet s.mem a)
    ∧ (t.core s.cur.core).sram = (s.core s.cur.core).sram ∧ J j

/-- R228, R233 to R237, R240: the job instructions CPY, CRED, CPYT, CPYM, CPYG, CPYS and CTOKEN. With a free job slot and no failure of
R228 each creates the job that its scalars, its capabilities and its layout describe; a job that moves nothing is complete
at once. CPYT names its memory in csrc where that is the source and in cdst where it is the destination (the model's reading, against the opcode
table's row: log 20). Which offsets are checked for
alignment is the model's reading (log 25). -/
def Obligations.CopyJobs : Prop :=
  ∀ (st : BitVec 3) (a : BitVec 6) (c d : BitVec 4) (s : State) (x : Group) (k : Crew),
    let S := fun j => x.regs.readS (a.toNat + j)
    let cs := getAt 0 x.regs.c c.toNat
    let cd := getAt 0 x.regs.c d.toNat
    let ready := s.crew? s.cur.core s.cur.slot = some k ∧ acquirePending x = false ∧ (s.core s.cur.core).jobs.length < 32
    let side := fun (mem : Bool) cap o => if mem then Side.mem (capObj cap) (capBase cap + o) else Side.scratch o
    let three := [codeS a.toNat, codeS (a.toNat + 1), codeS (a.toNat + 2)]
    ready →
    (∀ r : BitVec 2,
      let srcMem := r = 0 ∨ r = 1
      let dstMem := r = 0 ∨ r = 2
      let so := (S 0).toNat
      let dof := (S 1).toNat
      let n := (S 2).toNat
      let q := fun i op => ({ word := encode i, op := op, st := st.toNat
                              reads := three ++ (if srcMem then [codeC c.toNat] else []) ++ (if dstMem then [codeC d.toNat] else []) } : Desc)
      let fails := fun rs => copyRange s k x.state (decide srcMem) cs so n [.read] ++ copyRange s k x.state (decide dstMem) cd dof n rs
        ++ (if n % 4 = 0 then [] else [(0x0A, S 2)])
      let src := side (decide srcMem) cs so
      let dst := side (decide dstMem) cd dof
      let i := Instr.cpy st a c d r
      (Ready (q i 0xC0) s x → firstFailure (fails [.write]) = none →
        (n = 0 → exec i s = .next (finish ((if srcMem then [cs] else []) ++ (if dstMem then [cd] else []) |>.foldl
          (fun s e => s.cacheEntry k.part (capObj e)) s) (q i 0xC0) x))
        ∧ (n ≠ 0 → createsJob i s x k fun j => j.kind = .copy src dst n ∧ j.reads = sideSpan src n ∧ j.writes = sideSpan dst n))
      ∧ (Ready (q i 0xC0) s x → ∀ cause tval, firstFailure (fails [.write]) = some (cause, tval) →
          exec i s = .next (takeTrap s cause tval))
      ∧ ∀ o : BitVec 2, let i := Instr.cred st a c d o r
        Ready (q i 0xC5) s x → firstFailure (fails [.write, .atomic]) = none → n ≠ 0 →
          createsJob i s x k fun j => j.kind = .reduce src dst n o.toNat
            ∧ j.reads = sideSpan src n ++ sideSpan dst n ∧ j.writes = sideSpan dst n)
    ∧ (∀ (l : BitVec 3) (r : BitVec 1),
      let cap := if r = 1 then cd else cs
      let q : Desc := { word := encode (.cpyt st a c d l r), op := 0xC1, st := st.toNat
                        reads := [codeS a.toNat, codeS (a.toNat + 1), codeC (if r = 1 then d.toNat else c.toNat)] }
      let lay := getAt 0 x.regs.lay l.toNat
      let n := layEs lay * layCount lay
      let mem := walkFailures s k.part x.state cap lay (S 0).toNat (if r = 1 then .write else .read)
      let scr := scratchRange k.granules (S 1).toNat n (layEs lay)
      Ready q s x →
        (layCount lay = 0 → exec (.cpyt st a c d l r) s = .next (takeTrap s 0x02 (encode (.cpyt st a c d l r))))
        ∧ (layCount lay ≠ 0 → firstFailure (if r = 1 then scr ++ mem else mem ++ scr) = none →
            createsJob (.cpyt st a c d l r) s x k fun j =>
              j.kind = .tile (capObj cap, capBase cap + (S 0).toNat) (S 1).toNat lay (decide (r = 1))))
    ∧ (∀ (o : BitVec 3) (r : BitVec 1) (L : Launch),
      let q : Desc := { word := encode (.cpym st a c o r), op := 0xC2, st := st.toNat
                        reads := three ++ (if r = 0 then [codeC c.toNat] else []) }
      let mask := (S 2).toNat % 65536
      let n := 128 * ((S 2).toNat / 65536)
      let so := (S 0).toNat
      let dof := (S 1).toNat
      let src := if r = 0 then memRange s k.part x.state cs so n 4 [.read] else scratchRange k.granules so n 1
      s.launch? k.launch = some L → dof % 128 = 0 → dof + n ≤ L.block.scratch → mask / 2 ^ L.block.peers = 0 → n ≠ 0 → mask ≠ 0 →
        firstFailure src = none → Ready q s x → createsJob (.cpym st a c o r) s x k fun j =>
          j.kind = .multicast (side (decide (r = 0)) cs so) dof n
            (((List.range 16).filter fun i => mask.testBit i).map fun i => getAt 0 L.block.bind i) o.toNat)
    ∧ (∀ f : BitVec 4,
      let z := 4 * 2 ^ f.toNat
      let n := (S 2).toNat
      let q := fun i op => ({ word := encode i, op := op, st := st.toNat, reads := three ++ [codeC c.toNat] } : Desc)
      let table := fun r => memRange s k.part x.state cs 0 (if n = 0 then 0 else capLen cs) 1 [r]
      n ≠ 0 →
      (firstFailure (table .read ++ scratchRange k.granules (S 0).toNat (4 * n) 4 ++ scratchRange k.granules (S 1).toNat (n * z) 4) = none →
        Ready (q (.cpyg st a c f) 0xC3) s x → createsJob (.cpyg st a c f) s x k fun j =>
          j.kind = .gather (S 0).toNat (capObj cs) (capBase cs) (capLen cs) (S 1).toNat n z)
      ∧ (firstFailure (scratchRange k.granules (S 0).toNat (n * z) 4 ++ scratchRange k.granules (S 1).toNat (4 * n) 4 ++ table .write) = none →
        Ready (q (.cpys st a c f) 0xC4) s x → createsJob (.cpys st a c f) s x k fun j =>
          j.kind = .scatter (S 0).toNat (S 1).toNat (capObj cs) (capBase cs) (capLen cs) n z))
    ∧ (∀ (b : BitVec 6) (f : BitVec 3), f = 0 ∨ f = 1 →
      let B := fun j => x.regs.readS (b.toNat + j)
      let size := if f = 1 then 8 else 4
      let q : Desc := { word := encode (.ctoken st c a b f), op := 0xC9, st := st.toNat
                        reads := codeS a.toNat :: codesS b.toNat (if f = 1 then 3 else 2) ++ [codeC c.toNat] }
      let ahead := (S 0 - x.batch).toNat
      accessCauses s k.part x.state cs (B 0).toNat size .write = [] → ¬(1 ≤ ahead ∧ ahead < 2147483648) → Ready q s x →
        createsJob (.ctoken st c a b f) s x k fun j => ∃ v, j.kind = .token (S 0) (capObj cs) (capBase cs + (B 0).toNat) v size
          ∧ v.extractLsb' 0 32 = B 1 ∧ v.extractLsb' 32 32 = (if f = 1 then B 2 else 0))

/-- R238, R239, R193: CBATCH closes the open batch under the next number; CTEST reads whether every batch up to a number is
visible at a scope, with CSTAT; CWAIT waits for that, then reads it and clears CSTAT. A batch is visible when it has no job
left, and at device scope when its writes are globally complete. -/
def Claims.CopyBatches : Prop :=
  ∀ (st : BitVec 3) (d : BitVec 6) (c : BitVec 2) (s : State) (x : Group),
    let n := x.regs.readS d.toNat
    let seen := ∀ b ∈ x.closed, (n - b.num).toNat < 2147483648 → b.jobs = [] ∧ (c.toNat < 2 ∨ b.gwct ≤ s.gt)
    let word := fun (met : Bool) => (x.cstat.zeroExtend 32 <<< 1) ||| (if met then (1 : Word) else 0)
    (let q : Desc := { word := encode (.cbatch st d), op := 0xC6, st := st.toNat, writes := [codeS d.toNat] }
     Ready q s x → (x.closed.filter fun b => !(b.jobs.isEmpty)).length < 16 → ∃ t y old, exec (.cbatch st d) s = .next t
      ∧ t = finish s q (Group.result y 0 (codeS d.toNat) (.scal (x.batch + 1)))
      ∧ y = { x with batch := x.batch + 1, openJobs := [], openGwct := 0, closed := old ++ [⟨x.batch + 1, x.openJobs, x.openGwct⟩] }
      ∧ ∀ b, b ∈ old ↔ b ∈ x.closed ∧ ¬(b.jobs = [] ∧ b.gwct ≤ s.gt))
    ∧ (let q : Desc := { word := encode (.ctest st d c), op := 0xC8, st := st.toNat, reads := [codeS d.toNat], writes := [codeS d.toNat] }
       Ready q s x →
        (seen → ∃ ids k, exec (.ctest st d c) s = .next (finish { s with nextId := s.nextId + 1 } q
          (Group.outValue { x with acq := ids, acqs := k } s.nextId [(codeS d.toNat, .scal (word true))] x.pc)))
        ∧ (¬ seen → exec (.ctest st d c) s = .next (finish { s with nextId := s.nextId + 1 } q
          (x.outValue s.nextId [(codeS d.toNat, .scal (word false))] x.pc))))
    ∧ (let q : Desc := { word := encode (.cwait st d c), op := 0xC7, st := st.toNat, reads := [codeS d.toNat], writes := [codeS d.toNat] }
       Ready q s x →
        (seen → ∃ ids k, exec (.cwait st d c) s = .next (finish s q
          { Group.result { x with acq := ids, acqs := k } 0 (codeS d.toNat) (.scal (word true)) with cstat := 0, wait := .none }))
        ∧ (¬ seen → ∃ t y, exec (.cwait st d c) s = .next t ∧ t.group? s.cur = some y ∧ y.wait = .cwait c.toNat n d.toNat
            ∧ y.pc = nextPc s x ∧ y.cstat = x.cstat))

/-- R241: BOINIT adds to an object's count and arms it; an armed object whose count is at most 0 is done: BOTEST then reads 1 and
disarms it, else 0, and BOWAIT goes on and disarms it, or waits for it. -/
def Claims.BarrierObjects : Prop :=
  ∀ (st n : BitVec 3) (a : BitVec 6) (s : State) (x : Group) (k : Crew),
    let o := k.obj n.toNat
    let done := o.armed = true ∧ o.count.toInt ≤ 0
    s.crew? s.cur.core s.cur.slot = some k →
    (let q : Desc := { word := encode (.boinit st n a), op := 0xCA, st := st.toNat, reads := [codeS a.toNat] }
     Ready q s x → (∀ g ∈ k.groups, ∀ y, g = some y → y.wait ≠ .bowait n.toNat) → ∃ t k', exec (.boinit st n a) s = .next t
      ∧ t.crew? s.cur.core s.cur.slot = some k'
      ∧ k'.obj n.toNat = ⟨o.count + (x.regs.readS a.toNat).zeroExtend 64, true⟩ ∧ ∀ m, m ≠ n.toNat → k'.obj m = k.obj m)
    ∧ (let q : Desc := { word := encode (.botest st a n), op := 0xCC, st := st.toNat, writes := [codeS a.toNat] }
       Ready q s x → ∃ t k' y, exec (.botest st a n) s = .next t ∧ t.crew? s.cur.core s.cur.slot = some k'
        ∧ t.group? s.cur = some y ∧ y.pc = nextPc s x
        ∧ y.outst = x.outst ++ [⟨s.nextId, [codeS a.toNat], .value [(codeS a.toNat, .scal (if done then 1 else 0))], [], x.pc⟩]
        ∧ k'.obj n.toNat = (if done then { o with armed := false } else o))
    ∧ (let q : Desc := { word := encode (.bowait st n), op := 0xCB, st := st.toNat }
       Ready q s x →
      (¬ done → ∃ t y, exec (.bowait st n) s = .next t ∧ t.group? s.cur = some y ∧ y.wait = .bowait n.toNat ∧ y.pc = nextPc s x)
      ∧ (done → (∀ g ∈ k.groups, ∀ y, g = some y → y.wait ≠ .bowait n.toNat) → ∃ t k' y, exec (.bowait st n) s = .next t
          ∧ t.crew? s.cur.core s.cur.slot = some k' ∧ t.group? s.cur = some y ∧ y.wait = .none ∧ y.pc = nextPc s x
          ∧ k'.obj n.toNat = { o with armed := false }))

/-- R238, R239, R193, R241: CBATCH, CTEST, CWAIT and the barrier objects. -/
def Obligations.CopyBatchesAndBarrierObjects : Prop := Claims.CopyBatches ∧ Claims.BarrierObjects

/-- Where a byte of a side stands, for a read or a write by a job of a crew with some granules: a byte of the core's memory (false) or of the device's (true). -/
def sideByteAt (s : State) (core part : Nat) (granules : List Nat) (write : Bool) (x : Side) : Option (Bool × Nat) :=
  match x with
  | .scratch o => some (false, sramAddr granules o)
  | .mem obj y => match objPlace s core part obj y write with
    | .at a _ _ _ => some (true, a)
    | _ => none

/-- Where a byte of a side of a copy job stands. -/
def jobByteAt (s : State) (core : Nat) (j : Job) (write : Bool) (x : Side) : Option (Bool × Nat) := sideByteAt s core j.part j.granules write x

/-- The byte that stands at a place. -/
def heldAt (s : State) (core : Nat) (p : Bool × Nat) : BitVec 8 := if p.1 then physByte s p.2 else cellGet (s.core core).sram p.2

/-- A job put the bytes `bs` at their places in the step from s to t, a later one of the list prevailing: those
of the core's memory stand there at once, and nothing else of it changes; those of the device's memory are its n line writes. -/
def putsBytes (s t : State) (core : Nat) (issuer : Issuer) (n : Nat) (bs : List ((Bool × Nat) × BitVec 8)) : Prop :=
  let part := fun (mem : Bool) => (bs.filter fun b => b.1.1 = mem).map fun b => (b.1.2, b.2)
  ∃ (new : List WriteMsg), t.writes = s.writes ++ new ∧ (∀ w ∈ new, w.issuer = issuer) ∧ n = new.length
    ∧ (∀ a, cellGet t.mem a = cellGet s.mem a)
    ∧ (∀ a, cellGet (t.core core).sram a = ((overlay (part false) a).getD (cellGet (s.core core).sram a)))
    ∧ ∀ a, overlay (new.flatMap fun w => w.bytes.map fun b => (128 * w.line + b.1, b.2)) a = overlay (part true) a

/-- Copy job j was performed in the step from s to t and put the bytes `bs` at their places; it has one acknowledgement to wait for from each line write. -/
def jobPuts (s t : State) (core : Nat) (j : Job) (bs : List ((Bool × Nat) × BitVec 8)) : Prop :=
  ∃ (j' : Job), (t.core core).jobs.find? (fun x => x.id = j.id) = some j' ∧ j'.started = true ∧ putsBytes s t core (.job core j.id) j'.acks bs

/-- The bytes that pairs (destination, source) move, as they stand before the job. -/
def movedBytes (s : State) (core : Nat) (j : Job) (ps : List (Side × Side)) : List ((Bool × Nat) × BitVec 8) :=
  ps.filterMap fun p => match jobByteAt s core j true p.1, jobByteAt s core j false p.2 with
    | some d, some x => some (d, heldAt s core x)
    | _, _ => none

/-- The walk of a layout record (R234): the displacement in memory of each element, a byte of it, and the dense scratchpad offset of that byte, in the
order of the walk. -/
def tileWalk (lay : BitVec 256) : List (Int × Nat × Nat) :=
  let e := fun i => layExtent lay i
  (List.range (e 3)).flatMap fun (i3 : Nat) => (List.range (e 2)).flatMap fun (i2 : Nat) => (List.range (e 1)).flatMap fun (i1 : Nat) =>
    (List.range (e 0)).flatMap fun (i0 : Nat) => (List.range (layEs lay)).map fun (b : Nat) =>
      ((layEs lay : Int) * ((i0 : Int) * layStride lay 0 + (i1 : Int) * layStride lay 1 + (i2 : Int) * layStride lay 2 + (i3 : Int) * layStride lay 3), b,
       layEs lay * (i0 + e 0 * (i1 + e 1 * (i2 + e 2 * i3))) + b)

/-- The pairs (destination, source) of the bytes that a copying job moves (R233, R234, R236): a row of an index list is moved where it lies
within its capability and its object offset is a multiple of its size. -/
def jobPairs (s : State) (core : Nat) (j : Job) : List (Side × Side) :=
  let rows := fun li n z limit base => (List.range n).filterMap fun i =>
    let y := (scratchWord (s.core core) j.granules (li + 4 * i)).toNat * z
    if y + z ≤ limit ∧ (base + y) % z = 0 then some (i, y) else none
  match j.kind with
  | .copy src dst n => (List.range n).map fun i => (dst.add i, src.add i)
  | .tile m x lay toMem => (tileWalk lay).map fun p =>
      let a := Side.mem m.1 (((m.2 : Int) + p.1).toNat + p.2.1)
      let b := Side.scratch (x + p.2.2)
      if toMem then (a, b) else (b, a)
  | .gather li obj base limit dst n z => (rows li n z limit base).flatMap fun r => (List.range z).map fun b =>
      (.scratch (dst + r.1 * z + b), .mem obj (base + r.2 + b))
  | .scatter src li obj base limit n z => (rows li n z limit base).flatMap fun r => (List.range z).map fun b =>
      (.mem obj (base + r.2 + b), .scratch (src + r.1 * z + b))
  | _ => []

/-- R228, R190 to R193, R230, R231, R233 to R237, R240, R241: the steps of a job. A job that is ready and whose pages translate is performed. A copy within scratchpad
gives each destination byte its source's byte, which, where the source is itself a destination, is the old or the new one (the model's choice of a free value, log 2). A
linear, tile, gather or scatter job none of whose sources is a destination moves the bytes of its walk or of its rows, a later one prevailing; a row that it
skips raises CSTAT[1]. A reducing job, none of whose sources is a destination, combines each word of its source into the matching word; a multicast sends each named crew every line of its block, whose delivery
writes the receiver's scratchpad and counts its barrier object down; a token is one line write. A page miss while PRE is 0 makes the job skip the
page, with CSTAT[2]. A job without acknowledgements to wait for is complete, leaves its slot, its group's batches forget it, and a token that waits for it learns when its writes are visible. That a job
reads the whole of its source as it starts, and that it skips a page that it misses while PRE is 0, are the model's choice (log 25). -/
def Claims.JobSteps : Prop :=
  ∀ (core job : Nat) (s : State) (j : Job),
    let g : Gid := ⟨core, j.slot, j.grp⟩
    let S := (s.core core).sram
    (s.core core).jobs.find? (fun j => j.id = job) = some j →
    (∀ src dst n, j.kind = .copy (.scratch src) (.scratch dst) n → dst + n ≤ 128 * j.granules.length → j.granules.Nodup →
      Memory.wf S = true → jobReady s core j = true → ∃ t j', exec (.jobStart core job) s = .next t
        ∧ (t.core core).jobs.find? (fun j => j.id = job) = some j' ∧ j'.started = true ∧ j'.acks = 0 ∧ t.mem = s.mem
        ∧ (let before := fun o => cellGet S (sramAddr j.granules o)
           let after := fun o => cellGet (t.core core).sram (sramAddr j.granules o)
           (∀ i, i < n → (∀ m, m < n → src + i ≠ dst + m) → after (dst + i) = before (src + i))
            ∧ ∀ i m, i < n → m < n → src + i = dst + m → after (dst + i) = before (src + i) ∨ after (dst + i) = after (dst + m))
        ∧ ∀ a, (∀ i, i < n → a ≠ sramAddr j.granules (dst + i)) → cellGet (t.core core).sram a = cellGet S a)
    ∧ (jobReady s core j = true → jobMisses s core j = [] → j.skipped = [] → Memory.wf S = true →
      ((∀ p ∈ jobPairs s core j, ∀ q ∈ jobPairs s core j, ∀ a, jobByteAt s core j false p.2 = some a → jobByteAt s core j true q.1 ≠ some a) →
        ((∃ x y n, j.kind = .copy x y n) ∨ (∃ m x l b, j.kind = .tile m x l b) ∨ (∃ l o b e d n z, j.kind = .gather l o b e d n z)
          ∨ ∃ x l o b e n z, j.kind = .scatter x l o b e n z) →
        ∃ t, exec (.jobStart core job) s = .next t ∧ jobPuts s t core j (movedBytes s core j (jobPairs s core j))
          ∧ ∀ y, s.group? g = some y → job ∈ y.openJobs → ∃ y', t.group? g = some y'
            ∧ y'.cstat.getLsbD 0 = (y.cstat.getLsbD 0 || match j.kind with
              | .gather li _ base limit _ n z => (List.range n).any fun i =>
                  let r := (scratchWord (s.core core) j.granules (li + 4 * i)).toNat * z
                  !(decide (r + z ≤ limit ∧ (base + r) % z = 0))
              | .scatter _ li _ base limit n z => (List.range n).any fun i =>
                  let r := (scratchWord (s.core core) j.granules (li + 4 * i)).toNat * z
                  !(decide (r + z ≤ limit ∧ (base + r) % z = 0))
              | _ => false))
      ∧ (∀ n obj off v size, j.kind = .token n obj off v size → ∃ t, exec (.jobStart core job) s = .next t
          ∧ jobPuts s t core j ((List.range size).filterMap fun i => (jobByteAt s core j true (.mem obj (off + i))).map fun d => (d, v.extractLsb' (8 * i) 8)))
      ∧ (∀ src dst len op, j.kind = .reduce src dst len op → len % 4 = 0 →
          (∀ i m, i < len → m < len → jobByteAt s core j false (src.add i) ≠ jobByteAt s core j true (dst.add m)) →
          (∀ i, i < len → (jobByteAt s core j false (src.add i)).isSome ∧ (jobByteAt s core j true (dst.add i)).isSome) →
          let word := fun i => BitVec.ofNat 32 (natLE ((List.range 4).map fun b => ((jobByteAt s core j false (src.add (4 * i + b))).map (heldAt s core)).getD 0))
          let f := match op with | 0 => 10 | 1 => 11 | 2 => 0 | _ => 12
          (∀ o, dst = .scratch o → o % 4 = 0 → o + len ≤ 128 * j.granules.length → j.granules.Nodup → ∃ t, exec (.jobStart core job) s = .next t
            ∧ t.atoms = s.atoms ∧ ∀ i, i < len / 4 → scratchWord (t.core core) j.granules (o + 4 * i)
                = atomValue f (scratchWord (s.core core) j.granules (o + 4 * i)) (word i) 0)
          ∧ (∀ obj y, dst = .mem obj y → ∃ t new, exec (.jobStart core job) s = .next t ∧ t.atoms = s.atoms ++ new ∧ (t.core core).sram = S
            ∧ (∀ m ∈ new, m.issuer = .job core job ∧ m.phase = .toHome ∧ ∀ p ∈ m.ops, lineOf p.addr = m.line)
            ∧ (new.map AtomMsg.line).Nodup
            ∧ ∀ a p, (∃ m ∈ new, p ∈ m.ops ∧ p.addr = a) ↔ ∃ i, i < len / 4 ∧ jobByteAt s core j true (dst.add (4 * i)) = some (true, a)
                ∧ p = ⟨0, a, f, word i, 0⟩))
      ∧ (∀ src dst len peers obj, j.kind = .multicast src dst len peers obj → len % 128 = 0 →
          (∀ i, i < len → (jobByteAt s core j false (src.add i)).isSome) →
          ∃ t j' new, exec (.jobStart core job) s = .next t ∧ t.casts = s.casts ++ new ∧ (t.core core).sram = S
            ∧ (t.core core).jobs.find? (fun x => x.id = job) = some j' ∧ j'.started = true ∧ j'.acks = new.length
            ∧ (∀ m ∈ new, m.core = core ∧ m.job = job ∧ m.launch = j.launch ∧ m.obj = obj)
            ∧ new.map (fun m => (m.crew, m.off, m.bytes)) = peers.flatMap fun p => (List.range (len / 128)).map fun u =>
                (p, dst + 128 * u, (List.range 128).map fun b => ((jobByteAt s core j false (src.add (128 * u + b))).map (heldAt s core)).getD 0)))
    ∧ (∀ m ∈ s.casts, s.casts.find? (fun x => x.id = m.id) = some m → m.core = core → m.job = job →
        ∀ (L : Launch) slot k, s.launch? m.launch = some L → L.state ≠ .cancelling → L.state ≠ .cancelled → m.crew ∉ L.finished →
          L.places.find? (fun p => p.1 = m.crew) = some (m.crew, core, slot) → s.crew? core slot = some k → Memory.wf S = true →
          m.off + m.bytes.length ≤ 128 * k.granules.length → k.granules.Nodup → (∀ y ∈ k.groups, ∀ g, y = some g → g.wait ≠ .bowait m.obj) →
          ∃ t k' j', exec (.multicastDelivery m.id) s = .next t ∧ t.crew? core slot = some k'
            ∧ (∀ i, i < m.bytes.length → cellGet (t.core core).sram (sramAddr k.granules (m.off + i)) = m.bytes.getD i 0)
            ∧ k'.obj m.obj = { k.obj m.obj with count := (k.obj m.obj).count - BitVec.ofNat 64 m.bytes.length }
            ∧ (t.core core).jobs.find? (fun x => x.id = job) = some j' ∧ j'.acks = j.acks - 1)
    ∧ (jobReady s core j = true → jobMisses s core j ≠ [] → (s.part j.part).pctl.getLsbD 7 = false → ∃ t j', exec (.jobStart core job) s = .next t
        ∧ (t.core core).jobs.find? (fun x => x.id = job) = some j' ∧ (∀ p ∈ jobMisses s core j, p.1 ∈ j'.skipped) ∧ j'.started = j.started
        ∧ ∀ y, s.group? g = some y → job ∈ y.openJobs → ∃ y', t.group? g = some y' ∧ y'.cstat.getLsbD 1 = true)
    ∧ (j.started = true → j.acks = 0 → ∃ t, exec (.jobComplete core job) s = .next t
        ∧ (t.core core).jobs = ((s.core core).jobs.filter fun x => x.id ≠ job).map (fun x =>
            if job ∈ x.after then { x with dueAt := max x.dueAt j.gwct } else x)
        ∧ ∀ y, s.group? g = some y → ∃ y', t.group? g = some y' ∧ y'.openJobs = y.openJobs.filter (fun i => i ≠ job)
          ∧ y'.closed.map (fun b => (b.num, b.jobs)) = y.closed.map fun b => (b.num, b.jobs.filter fun i => i ≠ job))

/-! ### The matrix units (R268 to R288) -/

/-- A matrix instruction hands a job to the units (R274, R280): the group goes on with the job in its open batch and in its core's
queue; no element of a tile, byte of a scratchpad or byte of memory has changed yet. -/
def handsOver (i : Instr) (s : State) (x : Group) (k : Crew) (J : MatJob → Prop) : Prop :=
  ∃ t y j, exec i s = .next t ∧ t.group? s.cur = some y ∧ y.pc = nextPc s x ∧ y.regs = x.regs.endChain
    ∧ y.openJobs = x.openJobs ++ [j.id] ∧ (t.core s.cur.core).mats = (s.core s.cur.core).mats ++ [j]
    ∧ j.part = k.part ∧ j.launch = k.launch ∧ j.crew = k.index ∧ j.ctx = k.ctx ∧ j.slot = s.cur.slot ∧ j.granules = k.granules ∧ j.pc = x.pc
    ∧ j.owners = [(s.cur.grp, x.batch + 1)] ∧ j.started = false ∧ (∀ a, cellGet t.mem a = cellGet s.mem a)
    ∧ (t.core s.cur.core).sram = (s.core s.cur.core).sram ∧ (t.core s.cur.core).acc = (s.core s.cur.core).acc ∧ J j

/-- The crew of the issuing group is k, nothing holds a matrix instruction on tiles ts back, and the queue has room
(R278, R280, R286). -/
def unitsFree (s : State) (x : Group) (k : Crew) (ts : List Nat) : Prop :=
  s.crew? s.cur.core s.cur.slot = some k ∧ acquirePending x = false ∧ tilesLocked (s.core s.cur.core) ts = false
    ∧ (s.core s.cur.core).mats.length < 16

/-- The crew holds every tile of ts, and its context owns their regions (R278). -/
def holdsTiles (s : State) (k : Crew) (ts : List Nat) : Prop :=
  ∀ t ∈ ts, t < 64 ∧ (s.core s.cur.core).owner (t / 16) = k.ctx ∧ k.held.getLsbD t = true

/-- R271, R273, R275, R323: MLAY writes a layout record of eight scalars, but traps on a reserved bit or an extent of zero; MGANG writes the
gang register, but traps on a malformed list (a count of 7, a nonzero slot at or beyond the count, equal indices, an index that is no group of the crew, a
reserved bit) and on a gang in a window or node crew; MLAY.GET and MGANG.GET read them; MREL empties the reuse latch. -/
def Claims.MatrixRegisters : Prop :=
  ∀ (st n : BitVec 3) (a : BitVec 6) (s : State) (x : Group) (k : Crew),
    let S := fun j => x.regs.readS (a.toNat + j)
    (let q : Desc := { word := encode (.mlay st n a), op := 0xD0, st := st.toNat, reads := codesS a.toNat 8 }
     Ready q s x →
      (S 1 < 64 → (S 2).extractLsb' 0 16 ≠ 0 → (S 2).extractLsb' 16 16 ≠ 0 → (S 3).extractLsb' 0 16 ≠ 0 →
        (S 3).extractLsb' 16 16 ≠ 0 → ∃ r, exec (.mlay st n a) s = .next (finish s q { x with regs := r })
          ∧ (∀ m : Nat, m < 8 → (getAt 0 r.lay n.toNat).extractLsb' (32 * m) 32 = S m)
          ∧ (∀ m, m ≠ n.toNat → getAt 0 r.lay m = getAt 0 x.regs.lay m) ∧ { r with lay := x.regs.lay } = x.regs)
      ∧ (¬ S 1 < 64 → exec (.mlay st n a) s = .next (takeTrap s 0x02 (S 1)))
      ∧ (S 1 < 64 → ((S 2).extractLsb' 0 16 = 0 ∨ (S 2).extractLsb' 16 16 = 0) → exec (.mlay st n a) s = .next (takeTrap s 0x02 (S 2)))
      ∧ (S 1 < 64 → (S 2).extractLsb' 0 16 ≠ 0 → (S 2).extractLsb' 16 16 ≠ 0 → ((S 3).extractLsb' 0 16 = 0 ∨ (S 3).extractLsb' 16 16 = 0) →
          exec (.mlay st n a) s = .next (takeTrap s 0x02 (S 3))))
    ∧ (let q : Desc := { word := encode (.mlayGet st n a), op := 0xD0, st := st.toNat, writes := codesS a.toNat 8 }
       Ready q s x → exec (.mlayGet st n a) s = .next (finish s q (x.results 0 ((List.range 8).map fun m =>
        (codeS (a.toNat + m), .scal ((getAt 0 x.regs.lay n.toNat).extractLsb' (32 * m) 32))))))
    ∧ (let q : Desc := { word := encode (.mgang st a), op := 0xD1, st := st.toNat, reads := [codeS a.toNat] }
       Ready q s x → s.crew? s.cur.core s.cur.slot = some k →
        let slot := fun j => ((S 0).toNat / 16 ^ j) % 16
        let count := ((S 0).toNat / 2 ^ 24) % 8
        ((S 0).toNat < 2 ^ 27 ∧ count ≤ 6 ∧ (∀ j, j < 6 → count ≤ j → slot j = 0)
            ∧ (∀ i j, i < count → j < count → slot i = slot j → i = j) ∧ (∀ j, j < count → slot j < k.groups.length)
            ∧ ((∀ l, s.launch? k.launch = some l → l.standing = false) ∨ count = 0) →
          exec (.mgang st a) s = .next (finish s q { x with regs := { x.regs with gang := S 0 } }))
        ∧ ((2 ^ 27 ≤ (S 0).toNat ∨ count = 7 ∨ (∃ j, j < count ∧ j < 6 ∧ k.groups.length ≤ slot j) ∨ (∃ j, j < 6 ∧ count ≤ j ∧ slot j ≠ 0)
              ∨ (∃ i j, i < j ∧ j < count ∧ j < 6 ∧ slot i = slot j) ∨ (count ≠ 0 ∧ ∃ l, s.launch? k.launch = some l ∧ l.standing = true)) →
          exec (.mgang st a) s = .next (takeTrap s 0x02 (S 0))))
    ∧ (let q : Desc := { word := encode (.mgangGet st a), op := 0xD1, st := st.toNat, writes := [codeS a.toNat] }
       Ready q s x → exec (.mgangGet st a) s = .next (finish s q (x.result 0 (codeS a.toNat) (.scal x.regs.gang))))
    ∧ (let q : Desc := { word := encode (.mrel st), op := 0xD9, st := st.toNat }
       Ready q s x → exec (.mrel st) s = .next (finish s q { x with reuse := none }))

/-- R268, R270, R274, R275, R277, R278, R36: a solo matrix operation, of a group whose gang register lists no group. With a lane to act on,
a well-formed record for B and a tile that the crew holds, it hands the units one operation on that tile, with A
as its registers hold it, or as a matching reuse latch holds it, and then it reads no register; the latch keeps that A or becomes invalid; with no lane to act on it does nothing; a
tile that another context owns traps with cause 0x30, and one that the crew does not hold with 0x31. -/
def Claims.MatrixOperations : Prop :=
  ∀ (i : Instr) (op pattern : Nat) (st : BitVec 3) (t : BitVec 6) (a : BitVec 7) (l : BitVec 3) (r : BitVec 1) (s : State)
      (x : Group) (k : Crew) (hit : Option (List (List Word) × Mask)),
    (i = .mma st t a l r ∧ op = 0xD2 ∧ pattern = 0 ∨ ∃ p : BitVec 4, i = .mmas st t a l r p ∧ op = 0xD3 ∧ pattern = p.toNat) →
    let e := mwEtype x.regs.mw
    (∀ rs m, hit = some (rs, m) → x.reuse = some ⟨a.toNat, e, op, pattern, rs, m⟩) →
    (hit = none → ∀ u, x.reuse = some u → ¬(u.va = a.toNat ∧ u.etype = e ∧ u.op = op ∧ u.pattern = pattern)) →
    let regs := (List.range ((if etWidth e = 8 then 2 else 4) + (if op = 0xD3 then 1 else 0))).map fun j => a.toNat + j
    let q : Desc := { word := encode i, op := op, st := st.toNat, vtop := topOf regs, types := setX, masked := true
                      reads := if hit.isSome then [] else regs }
    let y : MatOp := ⟨op, pattern, e, getAt 0 x.regs.lay l.toNat, decide (r = 1)⟩
    let A := hit.getD (regs.map x.regs.vreg, effMask s x)
    Ready q s x → x.regs.gang = 0 → s.crew? s.cur.core s.cur.slot = some k →
    (effMask s x = 0 → exec i s = .next (finish s q x))
    ∧ (effMask s x ≠ 0 → unitsFree s x k [t.toNat] →
      let b := recordFailures k.granules y (encode i)
      (b = [] → holdsTiles s k [t.toNat] → ∃ s', exec i s = .next s' ∧ (s'.core s.cur.core).acc = (s.core s.cur.core).acc
        ∧ (∀ a, cellGet s'.mem a = cellGet s.mem a)
        ∧ (∃ z, s'.group? s.cur = some z ∧ z.pc = nextPc s x ∧ z.reuse = (if r = 1 then
            some ⟨a.toNat, e, op, pattern, A.1, A.2⟩ else none))
        ∧ ∃ j, (s'.core s.cur.core).mats = (s.core s.cur.core).mats ++ [j]
          ∧ j.kind = .mma y [⟨s.cur.grp, t.toNat, a.toNat, A.1, A.2⟩] ∧ j.started = false
          ∧ j.owners = [(s.cur.grp, x.batch + 1)] ∧ j.slot = s.cur.slot ∧ j.launch = k.launch ∧ j.crew = k.index)
      ∧ (b = [] → (s.core s.cur.core).owner (t.toNat / 16) ≠ k.ctx →
          exec i s = .next (trapFailure s 0x30 (BitVec.ofNat 32 t.toNat)))
      ∧ (b = [] → (s.core s.cur.core).owner (t.toNat / 16) = k.ctx → k.held.getLsbD t.toNat = false →
          exec i s = .next (takeTrap s 0x31 (BitVec.ofNat 32 t.toNat))))

/-- R281 to R283, R278: ACCZ clears 2^n tiles, ACCLD loads a tile from a scratchpad or memory walk, ACCST stores one, scaled by factors
of the scratchpad where the form says so. Each hands the units a job when its tiles are held and its walk is inside its
capability or its scratchpad; beyond tile 63 ACCZ traps with 0x02, which its word alone decides (R104's condition 2), whatever its group's role, state and results. -/
def Claims.TileTransfers : Prop :=
  ∀ (st : BitVec 3) (s : State) (x : Group) (k : Crew),
    (∀ (t : BitVec 6) (n : BitVec 3),
      let q : Desc := { word := encode (.accz st t n), op := 0xD4, st := st.toNat }
      let ts := (List.range (2 ^ n.toNat)).map fun j => t.toNat + j
      (Ready q s x → t.toNat + 2 ^ n.toNat ≤ 64 → unitsFree s x k ts → holdsTiles s k ts →
          handsOver (.accz st t n) s x k fun j => j.kind = .zero t.toNat (2 ^ n.toNat))
      ∧ (64 < t.toNat + 2 ^ n.toNat → s.group? s.cur ≠ none → exec (.accz st t n) s = .next (takeTrap s 0x02 (encode (.accz st t n)))))
    ∧ (∀ (a : BitVec 6) (c : BitVec 4) (l : BitVec 3) (f : BitVec 1),
      let S := fun j => x.regs.readS (a.toNat + j)
      let cap := getAt 0 x.regs.c c.toNat
      let lay := getAt 0 x.regs.lay l.toNat
      let side := if f = 1 then Side.mem (capObj cap) (capBase cap + (S 1).toNat) else Side.scratch (S 1).toNat
      let tile := (S 0).toNat
      let walks := fun r => elementFailures s k x.state (decide (f = 1)) cap lay (S 1).toNat r = []
      let record := fun (es : List Nat) => layEtype lay ∈ es ∧ 8 * layEs lay = etWidth (layEtype lay) ∧ layCount lay = 1024
      tile < 64 → unitsFree s x k [tile] → holdsTiles s k [tile] →
      (let q : Desc := { word := encode (.accld st a c l f), op := 0xD5, st := st.toNat
                         reads := codesS a.toNat 2 ++ (if f = 1 then [codeC c.toNat] else []) }
       record [2, 5, 6] → walks .read → Ready q s x → handsOver (.accld st a c l f) s x k fun j => j.kind = .load tile side lay)
      ∧ (∀ (r : BitVec 2) (z : BitVec 1),
        let q : Desc := { word := encode (.accst st a c l r z f), op := 0xD6, st := st.toNat
                          reads := codesS a.toNat (if z = 1 then 3 else 2) ++ (if f = 1 then [codeC c.toNat] else []) }
        record [0, 2, 5, 6, 7, 9, 10] → walks .write → (z = 1 → scratchRange k.granules (S 2).toNat 256 4 = []) → Ready q s x →
          handsOver (.accst st a c l r z f) s x k fun j =>
            j.kind = .store tile side lay (if z = 1 then some (S 2).toNat else none) r.toNat))

/-- R268, R270, R274, R275, R277, R278, R36, R281, R283, R104: Solo MMA and MMAS with the reuse latch, ACCZ, ACCLD and ACCST hand jobs to the matrix units. -/
def Obligations.MatrixOperationsAndTransfers : Prop := Claims.MatrixOperations ∧ Claims.TileTransfers

/-- A block of n tiles from b on that a context may take (R284, R285): aligned on n, in a region that the context owns or that has no live tile, every tile
neither live nor held by a crew of the context, nor set aside, unless the request may take those. -/
def usableBlock (c : Core) (ctx : Word) (aside : Bool) (n b : Nat) : Prop :=
  b % n = 0 ∧ b + n ≤ 64 ∧ (c.owner (b / 16) = ctx ∨ c.liveMask (b / 16) = 0)
  ∧ ∀ u, b ≤ u → u < b + n → (c.liveMask (u / 16)).getLsbD (u % 16) = false ∧ (aside = true ∨ c.setAside.getLsbD u = false)
    ∧ ∀ y ∈ c.crews, ∀ k, y = some k → k.ctx = ctx → k.held.getLsbD u = false

/-- R284, R285: ACCALLOC takes the lowest usable aligned block for its crew, with its predicate set in the lanes of the active mask and
its scalar the block's first tile; the retry of the oldest reservation may take set-aside tiles. Where there is none the crew's reservation stands and the scalar is
0xFFFFFFFF when it is then the core's oldest, and 0xFFFFFFFE while an older crew's stands. ACCALLOC.Q reads the tiles held; ACCFREE gives a block back, and
traps where it is not aligned, where another context owns its region, and where a tile is not held, with the lowest such tile. -/
def Claims.TileAllocation : Prop :=
  ∀ (st n : BitVec 3) (d : BitVec 6) (s : State) (x : Group) (k : Crew),
    let c := s.core s.cur.core
    let size := 2 ^ n.toNat
    s.crew? s.cur.core s.cur.slot = some k → n.toNat ≤ 4 → s.cur.slot < 16 →
    (∀ (p : BitVec 5) (aside : Bool),
      let q : Desc := { word := encode (.accalloc st d n p), op := 0xD7, st := st.toNat, writes := [codeS d.toNat, codeP p.toNat] }
      let out := fun (y : Group) w m => y.outst = x.outst ++
        [⟨s.nextId, [codeS d.toNat, codeP p.toNat], .value [(codeS d.toNat, .scal w), (codeP p.toNat, .pred x.regs.act m)], [], x.pc⟩]
      let fails := fun w => ∃ t y k', exec (.accalloc st d n p) s = .next t ∧ t.group? s.cur = some y
        ∧ y.pc = nextPc s x ∧ out y w 0 ∧ t.crew? s.cur.core s.cur.slot = some k' ∧ k'.held = k.held ∧ k'.reserve = some (size, k.launch)
      Ready q s x →
        (if aside then c.oldestReserve = some s.cur.slot ∧ (∃ a, k.reserve = some (size, a)) else c.oldestReserve ≠ some s.cur.slot) →
        (∀ b, usableBlock c k.ctx aside size b → (∀ b' < b, ¬ usableBlock c k.ctx aside size b') →
          ∃ t y k', exec (.accalloc st d n p) s = .next t ∧ t.group? s.cur = some y
          ∧ y.pc = nextPc s x ∧ out y (BitVec.ofNat 32 b) x.regs.act ∧ t.crew? s.cur.core s.cur.slot = some k'
          ∧ k'.held = k.held ||| tileMask b size ∧ k'.reserve = none)
        ∧ ((∀ b, ¬ usableBlock c k.ctx aside size b) →
          ((∀ j k', j ≠ s.cur.slot → s.crew? s.cur.core j = some k' → k'.reserve = none) → fails 0xFFFFFFFF)
          ∧ ((∃ j k', j < 16 ∧ s.crew? s.cur.core j = some k' ∧ k'.reserve ≠ none ∧ k'.launch < k.launch) → fails 0xFFFFFFFE)))
    ∧ (let q : Desc := { word := encode (.accallocQ st d), op := 0xD7, st := st.toNat, writes := [codeS d.toNat, codeS (d.toNat + 1)] }
       Ready q s x → ∃ t y, exec (.accallocQ st d) s = .next t ∧ t.group? s.cur = some y ∧ y.pc = nextPc s x ∧ y.regs = x.regs.endChain
        ∧ y.outst = x.outst ++ [⟨s.nextId, [codeS d.toNat, codeS (d.toNat + 1)], .value [(codeS d.toNat, .scal (k.held.extractLsb' 0 32)),
            (codeS (d.toNat + 1), .scal (k.held.extractLsb' 32 32))], [], x.pc⟩])
    ∧ (let q : Desc := { word := encode (.accfree st d n), op := 0xD8, st := st.toNat, reads := [codeS d.toNat] }
       let b := (x.regs.readS d.toNat).toNat
       let ts := (List.range size).map fun j => b + j
       Ready q s x → tilesLocked c ts = false →
        (b < 64 → b % size = 0 → holdsTiles s k ts → tilesBusy c k.launch k.index b size = false →
          ∃ t y k', exec (.accfree st d n) s = .next t ∧ t.group? s.cur = some y ∧ y.pc = nextPc s x
            ∧ t.crew? s.cur.core s.cur.slot = some k' ∧ (∀ u, u < 64 → (k'.held.getLsbD u = true ↔ k.held.getLsbD u = true ∧ u ∉ ts)))
        ∧ (b % size ≠ 0 → exec (.accfree st d n) s = .next (takeTrap s 0x0A (x.regs.readS d.toNat)))
        ∧ (b % size = 0 → b < 64 → c.owner (b / 16) ≠ k.ctx → exec (.accfree st d n) s = .next (trapFailure s 0x30 (x.regs.readS d.toNat)))
        ∧ (b % size = 0 → (b < 64 → c.owner (b / 16) = k.ctx) → ∀ u ∈ ts, k.held.getLsbD u = false → (∀ v ∈ ts, v < u → k.held.getLsbD v = true) →
            exec (.accfree st d n) s = .next (takeTrap s 0x31 (BitVec.ofNat 32 u))))

/-- R271, R273, R275, R323, R284, R285: Layout and gang registers, and the allocation of tiles. -/
def Obligations.MatrixRegistersAndTiles : Prop := Claims.MatrixRegisters ∧ Claims.TileAllocation

/-- R116, R230, R279 to R283, R286: the steps of a matrix job. ACCZ's job clears its tiles and no other; an operation's job gives each element
of each of its tiles the exact sum of products of R116 rounded block by block, and changes no other element; neither
changes memory. ACCLD's job gives each element of its tile the value at its place in the walk, as an F32; ACCST's writes each element, times its factors where it has
them, in the record's type at its place. A job that waits for no acknowledgement completes, leaves the queue, and its groups' batches forget it; a write of ACCOWNk that waited
takes effect when its region is idle. -/
def Claims.MatrixSteps : Prop :=
  ∀ (core job : Nat) (s : State) (j : MatJob),
    let A := (s.core core).acc
    let at' := fun (write : Bool) (side : Side) (d : Int) (b : Nat) => sideByteAt s core j.part j.granules write (match side with
      | .scratch o => Side.scratch ((o + d : Int).toNat + b)
      | .mem obj y => Side.mem obj ((y + d : Int).toNat + b))
    (s.core core).mats.find? (fun j => j.id = job) = some j → A.Pairwise (fun a b => a.1 < b.1) →
    (∀ first count, j.kind = .zero first count → matReady s core j = true → ∃ t, exec (.matrixJobStart core job) s = .next t
      ∧ t.mem = s.mem ∧ ∀ u, accGet (t.core core).acc u
          = (if 1024 * first ≤ u ∧ u < 1024 * (first + count) then 0 else accGet A u))
    ∧ (∀ x ts, j.kind = .mma x ts → (ts.map TileIn.tile).Nodup → matReady s core j = true → matPoison s core j = none →
        recordFailures j.granules x 0 = [] → ∃ t, exec (.matrixJobStart core job) s = .next t ∧ t.mem = s.mem
          ∧ (∀ ti ∈ ts, ∀ u, u < 1024 → accGet (t.core core).acc (1024 * ti.tile + u) = tileElement x ti
              (fun k n => getAt 0 (bElements s core j x) (32 * k + n)) (accGet A (1024 * ti.tile + u)) (u / 32) (u % 32))
          ∧ ∀ u, (∀ ti ∈ ts, u < 1024 * ti.tile ∨ 1024 * (ti.tile + 1) ≤ u) → accGet (t.core core).acc u = accGet A u)
    ∧ (∀ tile side lay, j.kind = .load tile side lay → matReady s core j = true → matMisses s core j = [] → matPoison s core j = none → j.skipped = [] →
        (layWalk lay).length ≤ 1024 → (∀ d ∈ layWalk lay, ∀ b, b < layEs lay → (at' false side d b).isSome) →
        ∃ t, exec (.matrixJobStart core job) s = .next t ∧ t.mem = s.mem
          ∧ (∀ u d, (layWalk lay)[u]? = some d →
              let bits := natLE ((List.range (layEs lay)).map fun b => ((at' false side d b).map (heldAt s core)).getD 0)
              accGet (t.core core).acc (1024 * tile + u) = BitVec.ofNat 32 (if layEtype lay = 2 then bits else (convert (layEtype lay) 2 0 false false bits).1))
          ∧ ∀ u, (u < 1024 * tile ∨ 1024 * tile + (layWalk lay).length ≤ u) → accGet (t.core core).acc u = accGet A u)
    ∧ (∀ tile side lay scale rnd, j.kind = .store tile side lay scale rnd → matReady s core j = true → matMisses s core j = [] → matPoison s core j = none →
        j.skipped = [] → Memory.wf (s.core core).sram = true →
        let factor := fun (i : Nat) => match scale with
          | some o => [decodeFloat .f32 (scratchWord (s.core core) j.granules (o + 4 * i)).toNat]
          | none => []
        ∃ t j', exec (.matrixJobStart core job) s = .next t ∧ (t.core core).acc = A ∧ (t.core core).mats.find? (fun j => j.id = job) = some j' ∧ j'.started = true
          ∧ putsBytes s t core (.mat core job) j'.acks ((layWalk lay).zipIdx.flatMap fun p =>
              let bits := storedBits (layEtype lay) rnd (decodeFloat .f32 (accGet A (1024 * tile + p.2)).toNat :: (factor (p.2 / 32) ++ factor (32 + p.2 % 32)))
              (List.range (layEs lay)).filterMap fun b => (at' true side p.1 b).map fun d => (d, BitVec.ofNat 8 (bits / 256 ^ b))))
    ∧ (j.started = true → j.acks = 0 → ∃ t, exec (.matrixJobComplete core job) s = .next t
        ∧ (t.core core).mats = (s.core core).mats.filter (fun x => x.id ≠ job)
        ∧ ∀ o ∈ j.owners, ∀ y, s.group? ⟨core, j.slot, o.1⟩ = some y → ∃ y', t.group? ⟨core, j.slot, o.1⟩ = some y'
          ∧ y'.openJobs = y.openJobs.filter (fun i => i ≠ job)
          ∧ y'.closed.map (fun b => (b.num, b.jobs)) = y.closed.map fun b => (b.num, b.jobs.filter fun i => i ≠ job))
    ∧ (∀ region v st, getAt none (s.core core).ownWrite region = some (v, st) → regionBusy (s.core core) region = false →
        ∃ t, exec (.accownTakeEffect core region) s = .next t ∧ (t.core core).owner region = v ∧ getAt none (t.core core).locked region = none)

/-- R228, R190, R193, R230, R231, R233, R237, R240, R241, R116, R279, R283: The steps of the jobs of the copy engine and of the matrix units. -/
def Obligations.JobAndMatrixSteps : Prop := Claims.JobSteps ∧ Claims.MatrixSteps

/-! ### Windows, posts and scheduling (R37, R305 to R310, R325, R331 to R335) -/

/-- A lane of a wake that ends (R306): what becomes of its slate, of a merge's partner, and of the Dormer's count of check-ins. An unbacked
lane's slate, which has no slot, is dropped. WCLOSE frees slate and partner; a close's slate that is no pane and whose END was not moved is freed by
WYIELD; else the slate is checked in, with the lane's frame but at EXIT, the partner of a merge is freed, and the close of a slate
whose END was moved is raised again where it is due (R300). -/
def Claims.laneEnd (w : WinDesc) (kind : WakeKind) (how : LaneEnd) (y : WakeLane) (frame : List Word) (d : Dormer) : Dormer :=
  match y.slate with
  | none => d
  | some id =>
    let others := d.slates.filter fun z => decide (z.id ≠ id)
    let partnerless := fun (zs : List Slate) => zs.filter fun z => decide (y.partner ≠ some z.id)
    let pane := match d.slates.find? fun z => z.id = id with | some z => z.flags.getLsbD 2 | none => false
    let kept := fun (z : Slate) => if z.id = id then
        let v := { z with frame := if how = .exits then z.frame else frame, out := false, shut := false, stamp := d.stamp }
        if y.moved = true ∧ w.kind ≠ 2 ∧ closeHolds w d v = true ∧ v.closePending = false then
          { v with items := v.items ++ [.close none], flags := v.flags ||| 2, fetching := v.fetching || v.spilled }
        else v
      else z
    if y.unbacked then { d with slates := others }
    else if how = .closes then { d with slates := partnerless others }
    else if how = .exits ∨ kind = .merge then { d with slates := (partnerless d.slates).map kept, stamp := d.stamp + 1 }
    else if kind = .close ∧ pane = false ∧ y.moved = false then { d with slates := others }
    else { d with slates := d.slates.map kept, stamp := d.stamp + 1 }

/-- The Dormer after the lanes m of a wake group x have ended, in lane order; the due closes of a kind-2 window go on (R296). -/
def Claims.slatesEnd (w : WinDesc) (kind : WakeKind) (how : LaneEnd) (x : Group) (m : Mask) (d : Dormer) : Dormer :=
  ((activeLanes m).foldl (fun d l => Claims.laneEnd w kind how (x.lane l) ((List.range w.frame).map fun r => x.regs.readV r l) d) d).tidy w

/-- The lanes m of a wake group hold no slate any more, and the others hold what they held. -/
def Claims.noSlates (x y : Group) (m : Mask) : Prop :=
  ∀ l, y.lane l = if m.getLsbD l then { x.lane l with slate := none, partner := none } else x.lane l

/-- The issuing group's crew k is not over where the group retires: another group is resident, or its launch stands. -/
def Claims.crewStays (s : State) (k : Crew) : Prop :=
  (∃ i z, i < 16 ∧ i ≠ s.cur.grp ∧ getAt none k.groups i = some z) ∨ ∃ L, s.launch? k.launch = some L ∧ L.standing = true

/-- R37, R42, R86, R306: EXIT waits until no result of the group is outstanding, then puts the active lanes into XM. The group goes on at the topmost stack entry that still holds a lane outside XM; where
there is none, it retires: its place in the crew is free, and with the crew's last group the crew of a launch that does not stand has finished. Lanes that still hold slates check them in with their
frames as they were before the wake, and a merge's partners are freed, whether the group goes on or retires. -/
def Claims.Exit : Prop :=
  ∀ (st : BitVec 3) (s : State) (x : Group) (k : Crew),
    let q : Desc := { word := encode (.exit st), op := 0x0C, st := st.toNat }
    let z := x.drain
    let xm := z.regs.xm ||| z.regs.act
    Ready q s x → s.crew? s.cur.core s.cur.slot = some k →
      (x.outst ≠ [] → ∃ t y, exec (.exit st) s = .next t ∧ t.group? s.cur = some y ∧ y.wait = .drain ∧ y.pc = x.pc)
      ∧ (∀ above e below, x.outst = [] → z.stack = above ++ e :: below → (∀ a ∈ above, a.mask &&& ~~~ xm = 0) → e.mask &&& ~~~ xm ≠ 0 →
        ∃ t y, exec (.exit st) s = .next t ∧ t.group? s.cur = some y ∧ y.pc = e.pc ∧ y.regs.xm = xm ∧ y.stack = below
          ∧ y.regs.act = e.mask &&& ~~~ xm ∧ y.regs.mw = e.mw
          ∧ ∀ w d kind, curWindow s = some (k, w) → s.dormer? s.cur.core k.launch = some d → z.windowWake = some kind →
              t.dormer? s.cur.core k.launch = some (Claims.slatesEnd w kind .exits z z.regs.act d) ∧ Claims.noSlates z y z.regs.act)
      ∧ (x.outst = [] → (∀ a ∈ z.stack, a.mask &&& ~~~ xm = 0) → ∃ t, exec (.exit st) s = .next t
        ∧ (∀ w d kind, curWindow s = some (k, w) → s.dormer? s.cur.core k.launch = some d → z.windowWake = some kind → Claims.crewStays s k →
            let d1 := Claims.slatesEnd w kind .exits z z.regs.act d
            t.dormer? s.cur.core k.launch = some (if kind = .close then d1.windowOver w s.cur.grp else d1))
        ∧ ((∃ i z, i < 16 ∧ i ≠ s.cur.grp ∧ getAt none k.groups i = some z) → t.group? s.cur = none)
        ∧ ∀ L, s.launch? k.launch = some L →
          (L.standing = true → t.group? s.cur = none)
          ∧ (L.standing = false → (∀ i, i ≠ s.cur.grp → getAt none k.groups i = none) → ∃ L', t.launch? k.launch = some L' ∧ k.index ∈ L'.finished))

/-- R305, R306: WYIELD, WCLOSE and WMERGE do nothing without a lane to act on, and trap with cause 0x01 in a group that no wake of a window
started, but for WYIELD in a node group. They are held at issue until the group's stores are gone. Then the lanes of the effective mask join XM and hold no slate; the others go on, and a group with no
other goes on at a stack entry, or retires once no result of it is outstanding. The slate of each of these lanes: WYIELD and WMERGE check it in
with the lane's frame, but WYIELD frees it at the end of a close that is no pane's; a merge's partner is freed; WCLOSE frees slate and partner.
Before WYIELD and WMERGE an unbacked lane takes a slot; where none is free the group waits for one (R302). -/
def Claims.WakeEnds : Prop :=
  ∀ (i : Instr) (op : Nat) (how : LaneEnd) (st : BitVec 3) (s : State) (x : Group),
    (i = .wyield st ∧ op = 0xE0 ∧ how = .yields ∨ i = .wclose st ∧ op = 0xE1 ∧ how = .closes
      ∨ i = .wmerge st ∧ op = 0xE3 ∧ how = .merges) →
    let q : Desc := { word := encode i, op := op, st := st.toNat, masked := true, reads := if how = .closes then [] else frameRegs s, writes := codesAct }
    let m := effMask s x
    let leaves := fun (T : Bool → State → Prop) (G : Group → Prop) =>
      (x.regs.act &&& ~~~ m ≠ 0 → ∃ t y, exec i s = .next t ∧ t.group? s.cur = some y ∧ y.pc = nextPc s x ∧ y.regs.xm = x.regs.xm ||| m
          ∧ y.regs.act = x.regs.act &&& ~~~ m ∧ (∀ a, cellGet t.mem a = cellGet s.mem a) ∧ T false t ∧ G y)
      ∧ (∀ above e below, x.regs.act &&& ~~~ m = 0 → x.stack = above ++ e :: below → (∀ a ∈ above, a.mask &&& ~~~ (x.regs.xm ||| m) = 0) →
          e.mask &&& ~~~ (x.regs.xm ||| m) ≠ 0 → ∃ t y, exec i s = .next t ∧ t.group? s.cur = some y ∧ y.pc = e.pc ∧ y.regs.xm = x.regs.xm ||| m ∧ T false t ∧ G y)
      ∧ (x.regs.act &&& ~~~ m = 0 → (∀ a ∈ x.stack, a.mask &&& ~~~ (x.regs.xm ||| m) = 0) → x.outst = [] →
          ∀ k, s.crew? s.cur.core s.cur.slot = some k → Claims.crewStays s k →
          ∃ t, exec i s = .next t ∧ t.group? s.cur = none ∧ T true t)
      ∧ (x.regs.act &&& ~~~ m = 0 → (∀ a ∈ x.stack, a.mask &&& ~~~ (x.regs.xm ||| m) = 0) → x.outst ≠ [] →
          ∃ t y, exec i s = .next t ∧ t.group? s.cur = some y ∧ y.wait = .drain ∧ y.pc = x.pc)
    Ready q s x →
      (m = 0 → exec i s = .next (finish s q x))
      ∧ (m ≠ 0 → x.windowWake = none → (how ≠ .yields ∨ x.wake = none) → exec i s = .next (takeTrap s 0x01 (encode i)))
      ∧ (m ≠ 0 → (x.windowWake ≠ none ∨ how = .yields ∧ x.wake ≠ none) → releasedCore x = false → exec i s = .next (holdIssue s))
      ∧ (m ≠ 0 → x.windowWake = none → how = .yields → x.wake ≠ none → releasedCore x = true →
          leaves (fun _ t => ∀ n, t.dormer? s.cur.core n = s.dormer? s.cur.core n) fun y => y.wake = x.wake)
      ∧ (∀ k w d kind xs, curWindow s = some (k, w) → s.dormer? s.cur.core k.launch = some d → x.wake = some (kind, xs) → kind ≠ .node →
          releasedCore x = true → m ≠ 0 →
          let p := placeLanes (if how = .closes then [] else activeLanes m) (d, xs, [])
          let x1 := { x with wake := some (kind, p.2.1) }
          let d1 := Claims.slatesEnd w kind how x1 m p.1
          (p.2.2 ≠ [] → ∃ t y, exec i s = .next t ∧ t.group? s.cur = some y ∧ y.wait = .slot ∧ y.pc = x.pc ∧ y.wake = x1.wake
              ∧ t.dormer? s.cur.core k.launch = some p.1)
          ∧ (p.2.2 = [] → leaves (fun gone t => t.dormer? s.cur.core k.launch
                = some (if gone = true ∧ kind = .close then d1.windowOver w s.cur.grp else d1)) fun y => Claims.noSlates x1 y m))

/-- R308, R310: what a lane of a wake reads and changes. WINFO writes seven registers with START, END, KEY, COUNT and the flags of its
slate as they stood at the wake, and all zero with bit 31 of the flags in a lane without one; WMARK reads the watermark of its stream at
its core; WEXT sets a slate's END and its flag bit 0. WINFO and WEXT trap with cause 0x01 outside a window's wake, WMARK
outside a window launch. -/
def Claims.WakeReads : Prop :=
  ∀ (st : BitVec 3) (s : State) (x : Group),
    let m := effMask s x
    (∀ (d : BitVec 7) (p : BitVec 1),
      let ds := (List.range 7).map fun j => d.toNat + j
      let q : Desc := { word := encode (.winfo st d p), op := 0xE4, st := st.toNat, vtop := topOf ds, writes := ds, masked := true }
      Ready q s x →
        (m = 0 → exec (.winfo st d p) s = .next (finish s q x))
        ∧ (m ≠ 0 → x.windowWake = none → exec (.winfo st d p) s = .next (takeTrap s 0x01 (encode (.winfo st d p))))
        ∧ (m ≠ 0 → x.windowWake ≠ none → ∃ t y vs, exec (.winfo st d p) s = .next t ∧ t.group? s.cur = some y ∧ y.pc = nextPc s x
            ∧ y.regs = x.regs.endChain ∧ y.outst = x.outst ++ [⟨s.nextId, ds, .value vs, [], x.pc⟩]
            ∧ vs.map Prod.fst = ds ∧ ∀ j, j < 7 → ∃ ws, (vs.map Prod.snd)[j]? = some (.vec m ws) ∧ ∀ l, m.getLsbD l = true →
                laneGet ws l = match (if p = 1 then (x.lane l).infoP else (x.lane l).info) with
                  | some z => getAt 0 [z.start.extractLsb' 0 32, z.start.extractLsb' 32 32, z.stop.extractLsb' 0 32,
                      z.stop.extractLsb' 32 32, z.key, z.count, z.flags] j
                  | none => if j = 6 then 0x80000000 else 0))
    ∧ (∀ d : BitVec 6,
      let q : Desc := { word := encode (.wmark st d), op := 0xE5, st := st.toNat, writes := [codeS d.toNat, codeS (d.toNat + 1)] }
      Ready q s x →
        (curWindow s = none → exec (.wmark st d) s = .next (takeTrap s 0x01 (encode (.wmark st d))))
        ∧ (∀ k w z, curWindow s = some (k, w) → s.dormer? s.cur.core k.launch = some z →
            let v := BitVec.ofInt 64 (z.mark x.stream).wmark
            exec (.wmark st d) s = .next (finish { s with nextId := s.nextId + 1 } q (x.outValue s.nextId
              [(codeS d.toNat, .scal (v.extractLsb' 0 32)), (codeS (d.toNat + 1), .scal (v.extractLsb' 32 32))] x.pc))))
    ∧ (∀ a : BitVec 7,
      let q : Desc := { word := encode (.wext st a), op := 0xE8, st := st.toNat, vtop := topOf [a.toNat + 1]
                        reads := [a.toNat, a.toNat + 1], masked := true }
      Ready q s x →
        (m = 0 → exec (.wext st a) s = .next (finish s q x))
        ∧ (m ≠ 0 → x.windowWake = none → exec (.wext st a) s = .next (takeTrap s 0x01 (encode (.wext st a))))
        ∧ (∀ k w d, m ≠ 0 → x.windowWake ≠ none → curWindow s = some (k, w) → s.dormer? s.cur.core k.launch = some d →
            ∃ t y d', exec (.wext st a) s = .next t ∧ t.group? s.cur = some y ∧ y.pc = nextPc s x
              ∧ t.dormer? s.cur.core k.launch = some d' ∧ ∀ l id, m = BitVec.ofNat 128 (2 ^ l) → l < 128 →
                (x.lane l).slate = some id → (x.lane l).unbacked = false → d'.slates = d.slates.map fun z => if z.id = id then
                  { z with stop := (x.regs.readV (a.toNat + 1) l ++ x.regs.readV a.toNat l).toInt, flags := z.flags ||| 1 } else z))

/-- R37, R42, R86, R306, R305, R302, R308, R310: EXIT, the ends of a wake, and what a wake's lanes read. -/
def Obligations.ExitAndWakes : Prop := Claims.Exit ∧ Claims.WakeEnds ∧ Claims.WakeReads

/-- Every active lane posts its record at once (R309, R344): the records follow those in flight, in lane order. -/
def postsAll (i : Instr) (s : State) (x : Group) (m : Mask) (rcd : Nat → BitVec 512) : Prop :=
  ∃ t y new, exec i s = .next t ∧ t.group? s.cur = some y ∧ y.pc = nextPc s x ∧ y.wait = .none ∧ t.recs = s.recs ++ new
    ∧ new.map (fun r => r.record.bits) = (activeLanes m).map rcd
    ∧ ∀ r ∈ new, r.poster = s.cur ∧ r.phase = .toIngress ∧ r.waits = false

/-- A record with its KEY, bits 63 to 32, and its TS, bits 127 to 64, replaced where one is given (R289, R307). -/
def withKeyTs (r : BitVec 512) (key : Option Word) (ts : Option DWord) : BitVec 512 :=
  r.extractLsb' 128 384 ++ ts.getD (r.extractLsb' 64 64) ++ key.getD (r.extractLsb' 32 32) ++ r.extractLsb' 0 32

/-- Active lanes find too few credits (R309, R344): the first of them post their records, and the instruction stays at issue until the rest have theirs. -/
def postsSome (i : Instr) (s : State) (x : Group) (n : Nat) (m : Mask) (rcd : Nat → BitVec 512) : Prop :=
  ∃ t y p new, exec i s = .next t ∧ t.group? s.cur = some y ∧ y.pc = x.pc ∧ y.wait = .post p ∧ t.recs = s.recs ++ new
    ∧ new.map (fun r => r.record.bits) = ((activeLanes m).take n).map rcd ∧ p.todo.map Prod.snd = ((activeLanes m).drop n).map rcd

/-- R307, R309, R325, R344: the posts. RPOST posts the record of each active lane with ORD clear, while the core has credits, and is held at issue for the rest;
an ordered one posts the first lane's with ORD set and is held at issue for its acceptance; a reserved flag bit traps with
cause 0x02 and the lane. WEMIT puts the slate's KEY and END into the record but where the form keeps them. BPOST, here of
one active lane, appends its record to the bin that the lane names. That the rest of a plain post is held, that the credits are those of the node of
the poster's stack, and that a post waits for a pending acquire, are the model's choice (log 29). -/
def Obligations.Posts : Prop :=
  ∀ (st : BitVec 3) (d a : BitVec 7) (s : State) (x : Group) (k : Crew),
    let ds := (List.range 16).map fun j => d.toNat + j
    let rcd := fun l => BitVec.ofNat 512 ((List.range 16).foldr (fun j acc => (x.regs.readV (d.toNat + j) l).toNat + 2 ^ 32 * acc) 0)
    let m := effMask s x
    let ready := s.crew? s.cur.core s.cur.slot = some k ∧ acquirePending x = false ∧ (s.part k.part).pctl.getLsbD 0 = true
    let inFlight := (s.recs.filter fun r => r.phase = .toIngress && r.credit && r.poster.core = s.cur.core && r.node = stackOf s.cur.core).length
    let clean := fun (f : Nat → BitVec 512) => ∀ l, m.getLsbD l = true → (f l).extractLsb' 19 13 = 0
    let ordBit := fun (r : BitVec 512) (b : Bool) => (r &&& ~~~ (BitVec.ofNat 512 (2 ^ 18))) ||| (if b then BitVec.ofNat 512 (2 ^ 18) else 0)
    ready →
    (∀ mode : BitVec 7,
      let q : Desc := { word := encode (.rpost st d a mode), op := 0xE6, st := st.toNat
                        vtop := topOf (if mode ≠ 0 then a.toNat :: ds else ds), reads := ds
                        writes := if mode ≠ 0 then [a.toNat] else [], masked := true }
      Ready q s x →
        (m = 0 → exec (.rpost st d a mode) s = .next (finish s q x))
        ∧ (m ≠ 0 → clean rcd → mode = 0 → inFlight + (activeLanes m).length ≤ 16 → postsAll (.rpost st d a mode) s x m fun l => ordBit (rcd l) false)
        ∧ (clean rcd → mode = 0 → inFlight ≤ 16 → 16 < inFlight + (activeLanes m).length →
            postsSome (.rpost st d a mode) s x (16 - inFlight) m fun l => ordBit (rcd l) false)
        ∧ (∀ l, (activeLanes m).head? = some l → clean rcd → mode ≠ 0 → inFlight < 16 → ∃ t y p r, exec (.rpost st d a mode) s = .next t
            ∧ t.group? s.cur = some y ∧ y.pc = x.pc ∧ y.wait = .post p ∧ p.msg = some r.id ∧ t.recs = s.recs ++ [r]
            ∧ r.record.bits = ordBit (rcd l) true ∧ r.waits = true)
        ∧ (∀ l, (activeLanes m).find? (fun l => (rcd l).extractLsb' 19 13 ≠ 0) = some l →
            exec (.rpost st d a mode) s = .next (takeTrap s 0x02 (BitVec.ofNat 32 l))))
    ∧ (∀ t e : BitVec 1,
      let q : Desc := { word := encode (.wemit st d t e), op := 0xE2, st := st.toNat, vtop := topOf ds, reads := ds, masked := true }
      let out := fun l => match curWindow s, (x.lane l).live with
        | some (c, _), some id => (match (s.dormer? s.cur.core c.launch).bind fun z => z.slate? id with
          | some z => withKeyTs (rcd l) (if e = 1 then none else some z.key) (if t = 1 then none else some (BitVec.ofInt 64 z.stop))
          | none => rcd l)
        | _, _ => rcd l
      Ready q s x →
        (m = 0 → exec (.wemit st d t e) s = .next (finish s q x))
        ∧ (m ≠ 0 → x.windowWake = none → exec (.wemit st d t e) s = .next (takeTrap s 0x01 (encode (.wemit st d t e))))
        ∧ (m ≠ 0 → x.windowWake ≠ none → clean out → inFlight + (activeLanes m).length ≤ 16 →
            postsAll (.wemit st d t e) s x m fun l => ordBit (out l) false)
        ∧ (x.windowWake ≠ none → clean out → inFlight ≤ 16 → 16 < inFlight + (activeLanes m).length →
            postsSome (.wemit st d t e) s x (16 - inFlight) m fun l => ordBit (out l) false))
    ∧ (let q : Desc := { word := encode (.bpost st d a), op := 0xE7, st := st.toNat, vtop := topOf (a.toNat :: ds)
                         reads := a.toNat :: ds, masked := true }
       Ready q s x →
        (m = 0 → exec (.bpost st d a) s = .next (finish s q x))
        ∧ (∀ l b, m = BitVec.ofNat 128 (2 ^ l) → l < 128 → (s.part k.part).bin? (x.regs.readV a.toNat l).toNat = some b →
            b.records.length < 1024 → ∃ t y, exec (.bpost st d a) s = .next t ∧ t.group? s.cur = some y ∧ y.pc = nextPc s x
              ∧ (b.records.length + 1 < b.count → ∃ b', (t.part k.part).bin? b.bin = some b' ∧ b'.records = b.records ++ [(s.gt, rcd l)])
              ∧ (b.count ≤ b.records.length + 1 → (t.part k.part).nodeGroups = (s.part k.part).nodeGroups
                  ++ [⟨b.launch, ((b.records.map Prod.snd) ++ [rcd l]).take b.count⟩])))

/-- R49, R332: SRWAIT goes on where the slot's phase is the one it names, and else waits for it; SRSIG, once the group's stores have
left it, counts one arrival at its slot, and the one that reaches the ring's arrival count flips the phase and sets the
count to 0; no other slot changes. The .R forms take slot and phase from a scalar. -/
def Claims.StageRings : Prop :=
  ∀ (st : BitVec 3) (r : BitVec 2) (s : State) (x : Group) (k : Crew),
    s.crew? s.cur.core s.cur.slot = some k →
    let ring := getAt Ring.start k.rings r.toNat
    let waits := fun i (rs : List Nat) (l : Nat) (h : Bool) =>
      Ready ({ word := encode i, op := 0xEA, st := st.toNat, reads := rs } : Desc) s x → ∃ t y, exec i s = .next t ∧ t.group? s.cur = some y
        ∧ y.pc = nextPc s x ∧ y.wait = if (k.ringSlot r.toNat l).1 = h then .none else .ring r.toNat l h
    let signals := fun i (rs : List Nat) (l : Nat) =>
      Ready ({ word := encode i, op := 0xEB, st := st.toNat, reads := rs } : Desc) s x → releasedCore x = true → ∃ t k' y, exec i s = .next t
        ∧ t.crew? s.cur.core s.cur.slot = some k' ∧ t.group? s.cur = some y ∧ y.pc = nextPc s x
        ∧ k'.ringSlot r.toNat l = (if (k.ringSlot r.toNat l).2 + 1 = ring.arrival then (!(k.ringSlot r.toNat l).1, 0)
            else ((k.ringSlot r.toNat l).1, (k.ringSlot r.toNat l).2 + 1))
        ∧ ∀ r' l', (r' ≠ r.toNat ∨ l' ≠ l) → k'.ringSlot r' l' = k.ringSlot r' l'
    (∀ (h : BitVec 1) (l : BitVec 3), waits (.srwait st h r l) [] l.toNat (decide (h = 1)) ∧ signals (.srsig st r l) [] l.toNat)
    ∧ ∀ a : BitVec 6, let w := x.regs.readS a.toNat
      waits (.srwaitR st a r) [codeS a.toNat] (w.extractLsb' 0 3).toNat (w.getLsbD 3)
      ∧ signals (.srsigR st a r) [codeS a.toNat] (w.extractLsb' 0 3).toNat

/-- R129, R323, R49, R332: BAR, BAR.ARV, BAR.WAIT, BARINIT, SRWAIT and SRSIG. -/
def Obligations.BarriersAndStageRings : Prop := Claims.Barriers ∧ Claims.StageRings

/-- Bits hi to lo of a block. -/
def fieldOf (x hi lo : Nat) : Nat := x / 2 ^ lo % 2 ^ (hi + 1 - lo)

/-- A window descriptor of bits d that R75 and R292 allow to a launch with some bytes of code. -/
def legalWindow (s : State) (part codeSize d : Nat) : Prop :=
  let f := fieldOf d
  let kind := f 2 0
  let size := f 127 64
  let slide := f 191 128
  let spill := objEntry s part (f 55 32)
  let used := fun (u : Prop) v => (u → 1 ≤ v ∧ v < 2 ^ 63) ∧ (¬ u → v = 0)
  let label := fun e => e < codeSize ∧ e % 4 = 0
  f 1023 480 = 0 ∧ f 63 56 = 0 ∧ f 31 18 = 0 ∧ f 7 3 = 0 ∧ kind ≤ 5
  ∧ used (kind = 0 ∨ kind = 1 ∨ kind = 2 ∨ kind = 4) size ∧ used (kind = 1 ∨ kind = 2) slide ∧ used (kind = 3) (f 255 192) ∧ f 319 256 < 2 ^ 63
  ∧ (kind = 1 ∨ kind = 2 → slide ≤ size) ∧ (kind = 2 → size % slide = 0 ∧ size / slide ≤ 128)
  ∧ 1 ≤ f 12 8 ∧ f 12 8 ≤ 24 ∧ 1 ≤ f 17 13 ∧ f 17 13 ≤ 24
  ∧ label (f 351 320) ∧ label (f 383 352) ∧ label (f 447 416) ∧ (kind = 3 → label (f 415 384)) ∧ (kind ≠ 3 → f 415 384 = 0xFFFFFFFF)
  ∧ (f 479 448 = 0xFFFFFFFF ∨ label (f 479 448))
  ∧ (f 55 32 = 0 ∨ entryMalformed (s.part part) spill = false ∧ entryKind spill = 0 ∧ entryCapb spill = false ∧ entrySize spill % 128 = 0)

/-- A launch block of bits x that R318, R319, R47 and R51 let a context with some bytes of save area launch: every check of R319, field by field. That the image of a standing crew
counts 16 groups and that every block's SELF is checked are the model's readings (log 34). -/
def legalBlock (s : State) (part : Nat) (ctx : Word) (saveBytes x : Nat) : Prop :=
  let f := fieldOf x
  let kind := f 7 0
  let n := f 23 16
  let role := fun (i : Nat) => f (64 * i + 127) (64 * i + 64)
  let code := fun (i : Nat) => role i / 2 ^ 32 % 4
  let budget := fun (i : Nat) => role i / 2 ^ 40 % 256
  let count := fun (i : Nat) => role i / 2 ^ 48 % 32
  let codeSize := f 511 480
  let read := fun (a bytes : Nat) => vaNat? s (s.part part).homeStack part a bytes
  let counter := fun (c : Nat) => c = 0xFFFFFFFF ∨ counterValid s part ctx c = true
  let groups := if 2 ≤ kind then 16 * (512 * budget 0 + 16384) else ((List.range n).map fun i => count i * (512 * budget i + 16384)).sum
  let image := (4096 + groups + f 319 288 + 262144 * f 354 352 + 4095) / 4096 * 4096
  let bind := fun (i : Nat) => f (32 * i + 671) (32 * i + 640)
  (f 479 464 = 0 ∧ f 383 368 = 0 ∧ f 359 355 = 0 ∧ f 335 327 = 0 ∧ f 47 33 = 0 ∧ f 31 24 = 1 ∧ kind ≤ 3 ∧ 1 ≤ n ∧ n ≤ 3)
  ∧ (∀ i, i < n → role i / 2 ^ 34 % 64 = 0 ∧ role i / 2 ^ 53 = 0 ∧ role i % 2 ^ 32 % 4 = 0 ∧ role i % 2 ^ 32 < codeSize
      ∧ budget i % 8 = 0 ∧ 16 ≤ budget i ∧ budget i ≤ 128 ∧ 1 ≤ count i ∧ (2 ≤ kind → code i = 0 ∧ 64 ≤ budget i) ∧ (code i = 0 → n = 1)
      ∧ ∀ j, j < i → code j ≠ code i)
  ∧ ((List.range n).map count).sum ≤ 16
  ∧ (1 ≤ f 287 256 ∧ f 319 288 % 128 = 0 ∧ f 319 288 ≤ 8388608 ∧ f 326 320 ≤ 64 ∧ 1 ≤ f 351 336 ∧ f 354 352 ≤ 4 ∧ (2 ≤ kind → f 354 352 = 0))
  ∧ (f 367 360 ≤ 16 ∧ f 367 360 ≤ f 287 256 ∧ ∀ i, i < f 367 360 → bind i < f 287 256 ∧ ∀ j, j < i → bind j ≠ bind i)
  ∧ (1 ≤ codeSize ∧ codeSize % 4 = 0 ∧ f 639 576 % 128 = 0 ∧ f 639 576 + codeSize ≤ (s.part part).hdmSize)
  ∧ (f 463 448 ≤ 256 ∧ f 447 384 % 16 = 0 ∧ (read (f 447 384) (16 * f 463 448)).isSome)
  ∧ (f 575 512 % 128 = 0 ∧ (f 575 512 ≠ 0 → ∃ w, read (f 575 512) 1024 = some w ∧ ∀ c, c < 256 →
      w / 2 ^ (32 * c) % 2 ^ 32 = 0xFFFFFFFF ∨ w / 2 ^ (32 * c) % 2 ^ 32 < codeSize))
  ∧ (kind = 1 → f 1951 1920 = 0) ∧ (kind = 0 ∨ kind = 3 → f 1951 1888 = 0)
  ∧ (kind = 2 → f 1951 1888 % 128 = 0 ∧ ∃ d, read (f 1951 1888) 128 = some d ∧ legalWindow s part codeSize d)
  ∧ (counterValid s part ctx (f 1983 1952) = true ∧ counter (f 1183 1152) ∧ counter (f 1215 1184) ∧ counter (f 1247 1216)
      ∧ (∀ i, i < 4 → counter (f (96 * i + 1279) (96 * i + 1248))) ∧ ∀ i, i < 8 → counter (f (32 * i + 1663) (32 * i + 1632)))
  ∧ 0x40000 + f 2047 1984 + f 287 256 * image ≤ saveBytes

/-- A launch accepted from a block of bits x (R318, R319): the next in order, waiting, with the block's fields, and a priority of at most `cap`. -/
def acceptedAs (s t : State) (part : Nat) (ctx : Word) (cap x : Nat) : Prop :=
  let f := fieldOf x
  ∃ n, t.launches = s.launches ++ [n] ∧ n.seq = s.nextSeq ∧ t.nextSeq = s.nextSeq + 1 ∧ n.part = part ∧ n.ctx = ctx ∧ n.state = .waiting ∧ n.saved = [] ∧ n.places = []
    ∧ n.block.kind = f 7 0 ∧ n.block.prio = min (f 15 8) cap ∧ n.block.crews = f 287 256 ∧ n.block.scratch = f 319 288 ∧ n.block.accTiles = f 326 320
    ∧ n.block.fifos = f 354 352 ∧ n.block.code = f 639 576 ∧ n.block.codeSize = f 511 480 ∧ n.block.trapTab = f 575 512 ∧ n.block.self = f 1983 1952
    ∧ n.block.deadline = f 351 336 ∧ n.block.saveOff = f 2047 1984 ∧ n.block.roles.length = f 23 16
    ∧ ∀ i r, n.block.roles[i]? = some r → r.offset = f (64 * i + 95) (64 * i + 64) ∧ r.budget = f (64 * i + 111) (64 * i + 104) ∧ r.count = f (64 * i + 116) (64 * i + 112)

/-- R318, R319, R326, R331, R333 to R335: scheduling from device code. WDQ of a persistent launch joins a query job; CNTWAIT reads a counter that
is met, or waits; CANCEL marks every launch of its level as cancelled that waits or runs, and no other; LAUNCHQ submits a block and reads
0 where every check of R319 passes: the launch is accepted, with a priority of at most the issuing launch's; else it reads 1 and no launch is. Ids that are not the context's trap. The size of a standing crew's image,
the check of SELF in every block and the refusal of a misaligned block are the model's readings (log 34). -/
def Obligations.Scheduling : Prop :=
  ∀ (st : BitVec 3) (d a : BitVec 6) (s : State) (x : Group) (k : Crew) (L : Launch),
    s.crew? s.cur.core s.cur.slot = some k → s.launch? k.launch = some L →
    let S := fun j => x.regs.readS (a.toNat + j)
    (let q : Desc := { word := encode (.wdq st a), op := 0xE9, st := st.toNat, reads := [codeS a.toNat] }
     Ready q s x → acquirePending x = false → (s.core s.cur.core).jobs.length < 32 →
      (L.block.kind = 1 → (S 0).toNat % 4 = 0 → (S 0).toNat + 4 ≤ 128 * k.granules.length →
        createsJob (.wdq st a) s x k fun j => j.kind = .query (S 0).toNat)
      ∧ (L.block.kind ≠ 1 → exec (.wdq st a) s = .next (takeTrap s 0x01 (encode (.wdq st a)))))
    ∧ (∀ f : BitVec 3,
      let q : Desc := { word := encode (.cntwait st d a f), op := 0xEC, st := st.toNat, reads := codesS a.toNat 3, writes := [codeS d.toNat] }
      let v := (S 2).toNat * 2 ^ 32 + (S 1).toNat
      let status := counterStatus s k.part (S 0).toNat
      let met := v ≤ (counterValue s k.part (S 0).toNat).toNat ∨ status.getLsbD 0 = true
      Ready q s x →
        (counterValid s k.part k.ctx (S 0).toNat = false → exec (.cntwait st d a f) s = .next (takeTrap s 0x02 (S 0)))
        ∧ (counterValid s k.part k.ctx (S 0).toNat = true →
          (met → ∃ ids c, exec (.cntwait st d a f) s = .next (finish { s with nextId := s.nextId + 1 } q
            (Group.outValue { x with acq := ids, acqs := c } s.nextId [(codeS d.toNat, .scal (1 + 2 * status.zeroExtend 32))] x.pc)))
          ∧ (¬ met → f = 1 → exec (.cntwait st d a f) s = .next (finish { s with nextId := s.nextId + 1 } q
            (x.outValue s.nextId [(codeS d.toNat, .scal 0)] x.pc)))
          ∧ (¬ met → f = 0 → ∃ t y, exec (.cntwait st d a f) s = .next t ∧ t.group? s.cur = some y ∧ y.pc = nextPc s x
            ∧ y.wait = .cntwait d.toNat (S 0).toNat v)))
    ∧ (∀ f : BitVec 3,
      let q : Desc := { word := encode (.cancel st a f), op := 0xED, st := st.toNat, reads := [codeS a.toNat] }
      Ready q s x →
        (counterValid s k.part k.ctx (S 0).toNat = false → exec (.cancel st a f) s = .next (takeTrap s 0x04 (S 0)))
        ∧ (counterValid s k.part k.ctx (S 0).toNat = true → (s.launches.map Launch.seq).Nodup → ∃ t, exec (.cancel st a f) s = .next t
            ∧ t.launches.map Launch.seq = s.launches.map Launch.seq
            ∧ ∀ l ∈ s.launches, ∃ l' ∈ t.launches, l'.seq = l.seq
              ∧ (if l.part = k.part ∧ atLevel f.toNat (S 0).toNat l = true ∧ (l.state = .waiting ∨ l.state = .eligible)
                 then l'.state = .cancelling ∧ l'.saved = [] else l' = l)))
    ∧ (∀ c : BitVec 4,
      let q : Desc := { word := encode (.launchq st d a c), op := 0xEE, st := st.toNat, reads := [codeS a.toNat, codeC c.toNat], writes := [codeS d.toNat] }
      let cap := getAt 0 x.regs.c c.toNat
      let acc : Access := { lanes := [(0, (S 0).toNat)], cap := cap, size := 256, right := .read, writes := [codeS d.toNat], uniform := true }
      Ready q s x →
        (leastCause ((if (S 0).toNat % 256 ≠ 0 then [0x0A] else []) ++ accessCauses s k.part x.state cap (S 0).toNat 256 .read) = none →
          accessPasses s x k acc → x.usc = 0 → x.buf = [] → x.lgwct.toNat ≤ s.gt →
          let v := noteAccess s s.cur.core k.part (capObj cap) [capBase cap + (S 0).toNat] false
          let block := natLE ((accessBytes s k acc).flatMap fun e => e.2.map fun b => physByte v b.1)
          ∃ u r, exec (.launchq st d a c) s = .next (finish u q (x.result 0 (codeS d.toNat) (.scal r))) ∧ u.cur = s.cur ∧ u.gt = s.gt
            ∧ (legalBlock v k.part k.ctx L.saveBytes block → r = 0 ∧ acceptedAs s u k.part k.ctx L.block.prio block)
            ∧ (¬ legalBlock v k.part k.ctx L.saveBytes block → r = 1 ∧ u.launches = s.launches))
        ∧ (∀ cause, leastCause ((if (S 0).toNat % 256 ≠ 0 then [0x0A] else []) ++ accessCauses s k.part x.state cap (S 0).toNat 256 .read) = some cause →
          exec (.launchq st d a c) s = .next (takeTrap s cause (S 0))))

/-! ### Steps of the memory system (R85, R177 to R181, R189, R193, R237, R351) -/

/-- A line write is performed at its home (R180): its bytes, and no others, change; the message carries the global write
completion time on its way back. -/
def linePerformed (i : Instr) (s : State) (m : WriteMsg) (t : State) : Prop :=
  exec i s = .next t ∧ (∃ m' ∈ t.writes, m'.id = m.id ∧ m'.phase = .ack ∧ m'.gwct = s.gwct m.line)
    ∧ ∀ a, cellGet t.mem a = (overlay (m.bytes.map fun b => (128 * m.line + b.1, b.2)) a).getD (cellGet s.mem a)

/-- R177, R179 to R181, R189, R351: loads, line writes and atomics at the homes, the gateway caches and the CXL port. HOME_LOAD answers with the
line and an expiry of GT plus the lease, which E then reaches; GATEWAY_LOAD answers from a live copy within its own lease,
or asks the home; GATEWAY_FILL_RESPONSE keeps the line in a way of its partition and answers while GT lies below the expiry less
4, and else the line is fetched again. What a message waits for and which versions a copy may have are
the model's account of the coherence order (log 8), the one GT its choice (log 47). HOME_WRITE performs a line write that nothing holds
back, waits for hosts that hold the line, and goes through the CXL port for host memory. HOME_ATOMIC replaces the word by its new value. STORE_ACK lowers USC and
raises LGWCT. A core may drop a line of its cache at any time. -/
def Claims.HomeSteps : Prop :=
  ∀ (n : Nat) (s : State),
    (∀ m, s.loads.find? (fun m => m.id = n && m.phase = .toHome) = some m → tileBusy s m.line = false →
      sliceMoving s m.line = false → mustFollowMsgs s m.after = false →
      ∃ t m', exec (.homeLoad n) s = .next t ∧ m' ∈ t.loads ∧ m'.id = n ∧ m'.data = lineBytes s m.line
        ∧ m'.phase = (if m.gateway.isSome then .gatewayFill else .response)
        ∧ m'.expiry = (if m.lease = 0 then 0 else s.gt + m.lease) ∧ m'.expiry ≤ t.expiry m.line ∧ t.mem = s.mem)
    ∧ (∀ m, s.loads.find? (fun m => m.id = n && m.phase = .toGateway) = some m → mustFollowMsgs s m.after = false →
        let gw := getAt Gateway.reset s.gateways (m.gateway.getD 0)
        (∀ h, liveCopy s.gt m.line gw.lines = some h → (∀ a ∈ m.bytes, loadVer s m a ≤ verAt h.vers a) → s.gt + 4 < h.expiry ∧
          ∃ t m', exec (.gatewayLoad n) s = .next t ∧ m' ∈ t.loads ∧ m'.id = n ∧ m'.data = h.data ∧ m'.phase = .response
            ∧ m'.expiry = min (s.gt + m.lease) h.expiry ∧ t.mem = s.mem)
        ∧ ((∀ h, liveCopy s.gt m.line gw.lines = some h → ∃ a ∈ m.bytes, verAt h.vers a < loadVer s m a) →
          ∃ t m', exec (.gatewayLoad n) s = .next t ∧ m' ∈ t.loads ∧ m'.id = n ∧ m'.phase = .toHome ∧ t.mem = s.mem))
    ∧ (∀ m, s.loads.find? (fun m => m.id = n && m.phase = .gatewayFill) = some m →
        let ways := getAt 0 (getAt Gateway.reset s.gateways (m.gateway.getD 0)).ways m.part
        (s.gt + 4 < m.expiry → ways ≠ 0 →
          ∃ t m' h, exec (.gatewayFillResponse n) s = .next t ∧ m' ∈ t.loads ∧ m'.id = n ∧ m'.phase = .response
            ∧ m'.expiry = min (s.gt + m.lease) m.expiry ∧ h ∈ (getAt Gateway.reset t.gateways (m.gateway.getD 0)).lines
            ∧ h.line = m.line ∧ h.data = m.data ∧ h.expiry = m.expiry ∧ ways.getLsbD h.way = true ∧ t.mem = s.mem)
        ∧ (m.expiry ≤ s.gt + 4 → ∃ t m', exec (.gatewayFillResponse n) s = .next t ∧ m' ∈ t.loads ∧ m'.id = n ∧ m'.phase = .toHome
            ∧ t.mem = s.mem))
    ∧ (s.memOk = true → ∀ m, (∀ b ∈ m.bytes, isAccAddr (128 * m.line + b.1) = false) →
        (s.writes.find? (fun m => m.id = n && m.phase = .toHome) = some m → homeWaits s m.part m.line m.shared m.after = false →
          (m.shared = false → m.line ∉ s.hostCopies → ∃ t, linePerformed (.homeWrite n) s m t)
          ∧ (m.shared = false → m.line ∈ s.hostCopies → ∃ t m', exec (.homeWrite n) s = .next t
              ∧ m' ∈ t.writes ∧ m'.id = n ∧ m'.phase = .backInval ∧ t.mem = s.mem)
          ∧ (m.shared = true → ∃ t m', exec (.homeWrite n) s = .next t ∧ m' ∈ t.writes ∧ m'.id = n
              ∧ m'.phase = .atPort ∧ (portOf s m.part, m.line) ∈ t.portLines ∧ t.mem = s.mem))
        ∧ (s.writes.find? (fun m => m.id = n && m.phase = .backInval) = some m → mustFollowMsgs s m.after = false →
            ∃ t, linePerformed (.backInvalidationResponse n) s m t ∧ m.line ∉ t.hostCopies)
        ∧ (s.writes.find? (fun m => m.id = n && m.phase = .atPort) = some m → mustFollowMsgs s m.after = false →
            ∃ t, linePerformed (.cxlCacheGloballyObserved n) s m t
              ∧ ((∀ w ∈ s.writes, w.id ≠ n → w.phase ≠ .atPort) → (∀ w ∈ s.atoms, w.phase ≠ .atPort) →
                  (portOf s m.part, m.line) ∉ t.portLines)))
    ∧ (∀ m, mustFollowMsgs s m.after = true →
        (s.writes.find? (fun m => m.id = n && m.phase = .toHome) = some m → exec (.homeWrite n) s = .refused (.notEnabled "HOME_WRITE"))
        ∧ (s.writes.find? (fun m => m.id = n && m.phase = .backInval) = some m →
            exec (.backInvalidationResponse n) s = .refused (.notEnabled "BACK_INVALIDATION_RESPONSE"))
        ∧ (s.writes.find? (fun m => m.id = n && m.phase = .atPort) = some m →
            exec (.cxlCacheGloballyObserved n) s = .refused (.notEnabled "CXL_CACHE_GLOBALLY_OBSERVED")))
    ∧ (∀ m, m.shared = true → s.writes.find? (fun m => m.id = n && m.phase = .toHome) = some m →
        256 ≤ (s.portLines.filter fun x => decide (x.1 = portOf s m.part)).length → (portOf s m.part, m.line) ∉ s.portLines →
        exec (.homeWrite n) s = .refused (.notEnabled "HOME_WRITE"))
    ∧ (s.memOk = true → ∀ m o, s.atoms.find? (fun m => m.id = n && m.phase = .toHome) = some m → homeWaits s m.part m.line m.shared m.after = false →
        m.shared = false → m.line ∉ s.hostCopies → m.ops = [o] →
        isAccAddr (o.addr + 3) = false → ∃ t m', exec (.homeAtomic n) s = .next t ∧ m' ∈ t.atoms ∧ m'.id = n ∧ m'.phase = .ack
          ∧ m'.olds = [(o.lane, BitVec.ofNat 32 (cellsNat s.mem o.addr 4))] ∧ m'.gwct = s.gwct m.line
          ∧ cellsNat t.mem o.addr 4 = (atomValue o.op (BitVec.ofNat 32 (cellsNat s.mem o.addr 4)) o.v o.v2).toNat
          ∧ ∀ a, (a < o.addr ∨ o.addr + 4 ≤ a) → cellGet t.mem a = cellGet s.mem a)
    ∧ (∀ m g x, s.writes.find? (fun m => m.id = n && m.phase = .ack) = some m → m.issuer = .group g → s.group? g = some x →
        ∃ t y, exec (.storeAck n) s = .next t ∧ t.group? g = some y ∧ y.usc = x.usc - 1
          ∧ y.lgwct = BitVec.ofNat 64 (max x.lgwct.toNat m.gwct) ∧ y.regs = x.regs ∧ t.mem = s.mem)
    ∧ ∀ core line, (∃ h ∈ (s.core core).cache, h.line = line) → ∃ t, exec (.coreCacheLineDrop core line) s = .next t
        ∧ (t.core core).cache = (s.core core).cache.filter (fun h => h.line ≠ line) ∧ t.mem = s.mem

/-- The value of a lane of a load: its bytes, lowest first; each the core's own, or collected. -/
def Claims.valueOf (l : LaneLoad) (got : List (Nat × BitVec 8)) : Nat :=
  natLE (l.addrs.map fun a => (overlay l.fwd a).getD ((overlay got a).getD 0))

/-- A result consumes no poison: a byte of a poisoned line is forwarded from the core's own writes (R266). -/
def Claims.unpoisoned : OutKind → Prop
  | .load _ _ ls _ _ bad => ∀ l ∈ ls, ∀ a ∈ l.addrs, lineOf a ∈ bad → (overlay l.fwd a).isSome
  | .loadU _ l _ bad => ∀ a ∈ l.addrs, lineOf a ∈ bad → (overlay l.fwd a).isSome
  | .loadC _ l _ bad => ∀ a ∈ l.addrs, lineOf a ∈ bad → (overlay l.fwd a).isSome
  | .atom _ _ _ bad => bad = []
  | _ => False

/-- What a result whose bytes, or old values, are all there writes (R199, R200, R202 to R204, R208): of LD's lanes, from 8 to 128 bits zero-extended,
one register for each 32 bits, and zero in the lanes that the mask mode clears; the scalar of LDU; the capability of CAPLD;
the old words of an atomic's lanes. Every other register keeps its value. -/
def Claims.written (x y : Group) : OutKind → Prop
  | .load r z ls zero got _ => ∀ j L, j < 128 → L < 128 → y.regs.readV j L =
      if r ≤ j ∧ j < r + max 1 (z / 4) then
        match ls.find? (fun l => l.lane = L) with
        | some l => BitVec.ofNat 32 (Claims.valueOf l got / 2 ^ (32 * (j - r)))
        | none => if zero.getLsbD L then 0 else x.regs.readV j L
      else x.regs.readV j L
  | .loadU d l got _ => d < 60 → ∀ j, j < 60 → y.regs.readS j = if j = d then BitVec.ofNat 32 (Claims.valueOf l got) else x.regs.readS j
  | .loadC d l got _ => y.regs = { x.regs with c := setAt 0 x.regs.c d (BitVec.ofNat 128 (Claims.valueOf l got)) }
  | .atom r m got _ => ∀ j L, j < 128 → L < 128 → y.regs.readV j L =
      if j = r ∧ m.getLsbD L = true then ((got.find? fun p => p.1 = L).map Prod.snd).getD 0 else x.regs.readV j L
  | _ => True

/-- A capability that CAPLD has loaded may be one (R208, R287). -/
def Claims.capFits (s : State) (part : Nat) : OutKind → Prop
  | .loadC _ l got _ => capLoadable s part (BitVec.ofNat 128 (Claims.valueOf l got)) = true
  | _ => True

/-- What the line of a load adds to a result (R85): the bytes of the lanes that lie in it, and its poison. -/
def Claims.collects (m : LoadMsg) : OutKind → OutKind → Prop
  | .load r z ls zero got bad, new => ∃ got', new = .load r z ls zero got' (if m.poison then m.line :: bad else bad)
      ∧ ∀ l ∈ ls, ∀ a ∈ l.addrs, overlay got' a = if lineOf a = m.line then some (getAt 0 m.data (a % 128)) else overlay got a
  | .loadU d l got bad, new => ∃ got', new = .loadU d l got' (if m.poison then m.line :: bad else bad)
      ∧ ∀ a ∈ l.addrs, overlay got' a = if lineOf a = m.line then some (getAt 0 m.data (a % 128)) else overlay got a
  | .loadC d l got bad, new => ∃ got', new = .loadC d l got' (if m.poison then m.line :: bad else bad)
      ∧ ∀ a ∈ l.addrs, overlay got' a = if lineOf a = m.line then some (getAt 0 m.data (a % 128)) else overlay got a
  | old, new => new = old

/-- A result o of the group x, of crew k, is delivered by a step from s to t: it leaves the outstanding results with its
registers written. -/
def Claims.delivered (s t : State) (g : Gid) (x : Group) (o : Outst) : Prop :=
  ∃ y, t.group? g = some y ∧ y.pc = x.pc ∧ y.outst = x.outst.filter (fun q => q.id ≠ o.id) ∧ Claims.written x y o.kind ∧ t.mem = s.mem

/-- R85, R163, R187, R193, R199, R200, R202, R204, R208, R237: results reach their group, outside a trap that waits for them. LOAD_RESPONSE collects a load's line, one of several; with
the last one it writes the registers of LD, LDU or CAPLD from the bytes collected and those that the core forwards; so it does for a
load whose bytes its core has, and for the old values of ATOM and ATOMX, line by line; a capability that may not be loaded traps
with cause 0x09. VARIABLE_LATENCY_RESULT writes a result that was known at issue, those of LDS and ATOMS among them;
GLOBAL_WRITE_COMPLETION_TIME_REACHED ends a CWAIT; MULTICAST_DELIVERY fills the receiver's
scratchpad. -/
def Claims.ResultSteps : Prop :=
  ∀ (s : State) (g : Gid) (x : Group), s.group? g = some x →
    (∀ n m o k, s.crew? g.core g.slot = some k → s.loads.find? (fun m => m.id = n && m.phase = .response) = some m → m.gid = g →
      (∀ a ∈ m.bytes, loadVer s m a ≤ verAt m.vers a) → x.outst.find? (fun o => o.id = m.out) = some o → x.wait.trapping = false → ∃ new : Outst,
        Claims.collects m o.kind new.kind ∧ new = { o with awaited := o.awaited.filter (fun l => l ≠ m.line), kind := new.kind }
        ∧ (new.awaited ≠ [] → ∃ t y, exec (.loadResponse n) s = .next t ∧ t.group? g = some y ∧ y.pc = x.pc ∧ y.regs = x.regs ∧ t.mem = s.mem
            ∧ y.outst.find? (fun o => o.id = m.out) = some new ∧ y.outst.map Outst.id = x.outst.map Outst.id)
        ∧ (new.awaited = [] → Claims.unpoisoned new.kind → Claims.capFits s k.part new.kind →
            ∃ t, exec (.loadResponse n) s = .next t ∧ Claims.delivered s t g x new)
        ∧ (new.awaited = [] → Claims.unpoisoned new.kind → ¬ Claims.capFits s k.part new.kind → x.outst.filter (fun q => q.id ≠ m.out) = [] →
            x.state ≠ .core → x.wait.escalated = false → ∃ t y, exec (.loadResponse n) s = .next t ∧ t.group? g = some y ∧ y.tcause = 0x09 ∧ y.tpc = o.pc
              ∧ y.regs.c = x.drain.regs.c ∧ t.mem = s.mem))
    ∧ (∀ n o k, s.crew? g.core g.slot = some k → s.loads.find? (fun m => m.id = n && m.phase = .response) = none →
        s.atoms.find? (fun a => a.id = n && a.phase = .ack) = none → readyOut s n = some g → x.outst.find? (fun o => o.id = n) = some o →
        x.wait.trapping = false → Claims.unpoisoned o.kind → Claims.capFits s k.part o.kind →
        ∃ t, exec (.loadResponse n) s = .next t ∧ Claims.delivered s t g x o)
    ∧ (∀ n a o r m got bad, s.loads.find? (fun m => m.id = n && m.phase = .response) = none →
        s.atoms.find? (fun a => a.id = n && a.phase = .ack) = some a → a.issuer = .group g → x.outst.find? (fun o => o.id = a.out) = some o →
        o.kind = .atom r m got bad → x.wait.trapping = false →
        let new : Outst := { o with awaited := o.awaited.filter (fun l => l ≠ a.line)
                                    kind := .atom r m (got ++ a.olds) (if a.poison then bad ++ a.olds.map (fun p => (p.1, a.line)) else bad) }
        let acked := fun (t : State) => ∃ y, t.group? g = some y ∧ y.usc = x.usc - 1 ∧ y.lgwct = BitVec.ofNat 64 (max x.lgwct.toNat a.gwct)
        (new.awaited ≠ [] → ∃ t y, exec (.loadResponse n) s = .next t ∧ acked t ∧ t.group? g = some y ∧ y.pc = x.pc ∧ y.regs = x.regs
            ∧ y.outst.find? (fun o => o.id = a.out) = some new ∧ t.mem = s.mem)
        ∧ (new.awaited = [] → Claims.unpoisoned new.kind → ∃ t, exec (.loadResponse n) s = .next t ∧ acked t ∧ Claims.delivered s t g x new))
    ∧ (∀ n o vs, x.wait.trapping = false → x.outst.find? (fun o => o.id = n) = some o →
        (o.kind = .value vs ∨ o.kind = .scratch vs) → ∃ t y,
        exec (.variableLatencyResult g.core g.slot g.grp n) s = .next t ∧ t.group? g = some y ∧ y.outst = x.outst.filter (fun o => o.id ≠ n)
          ∧ y.regs = (x.results 0 vs).regs ∧ y.pc = x.pc ∧ t.mem = s.mem)
    ∧ (∀ c n d, x.wait = .cwait c n d → (∀ b ∈ x.closed, (n - b.num).toNat < 2147483648 → b.jobs = [] ∧ (c < 2 ∨ b.gwct ≤ s.gt)) →
        d < 60 → ∃ t y, exec (.globalWriteCompletionTimeReached g.core g.slot g.grp) s = .next t ∧ t.group? g = some y ∧ y.wait = .none
          ∧ y.cstat = 0 ∧ y.regs.readS d = ((x.cstat.zeroExtend 32 <<< 1) ||| 1) ∧ y.pc = x.pc)
    ∧ (∀ h, x.wait = .none → x.held = some h → x.lgwct.toNat ≤ s.gt → ∃ t, exec (.globalWriteCompletionTimeReached g.core g.slot g.grp) s = .next t
        ∧ t.group? g = some { x with held := none })
    ∧ ∀ n m L core slot k, s.casts.find? (fun m => m.id = n) = some m → s.launch? m.launch = some L → L.state = .eligible → m.crew ∉ L.finished →
        L.places.find? (fun p => p.1 = m.crew) = some (m.crew, core, slot) → s.crew? core slot = some k → Memory.wf (s.core core).sram = true →
        k.granules.Nodup → m.off + m.bytes.length ≤ 128 * k.granules.length → ∃ t, exec (.multicastDelivery n) s = .next t
          ∧ t.casts = s.casts.filter (fun c => c.id ≠ n) ∧ t.mem = s.mem
          ∧ ∀ i, i < m.bytes.length → cellGet (t.core core).sram (sramAddr k.granules (m.off + i)) = getAt 0 m.bytes i

/-- R138, R207, R251, R53, R257, R258, R358: the timers and page answers of a group. WATCHDOG takes trap 0x51 of a group that has been in user
handler state for 16,777,216 ticks, once its outstanding results are written, and of one that waits in an escalation after it (log 62); WAITGT_DEADLINE ends the wait whose time has come; WAITM_POLL reads the word of a WAITM at least 16 ticks after the last read (when within R207's bounds is the model's choice, log 22), and ends it, with the word and 0 where
the word meets the condition, with 1 where its deadline has passed; a WAITM that could read is read within 256 ticks, for which
time stands still (log 51); ISSUE_STARVATION marks a group that has been ready for 1,024 clocks, counted in twelfths of a nominal one;
PAGE_RESPONSE maps the pages (with the frames that the host has, the model's choice, log 27) and lets the group try again where it still waits for them (log 62); ATS_INVALIDATION removes the translations once no access uses them. -/
def Claims.WaitSteps : Prop :=
  ∀ (s : State) (g : Gid) (x : Group), s.group? g = some x →
    (x.state = .user → x.userSince + 16777216 ≤ s.gt → x.wait.pastWatchdog = false → ∃ t y, exec (.watchdog g.core g.slot g.grp) s = .next t
      ∧ t.group? g = some y
      ∧ (let late := (0x51, x.pc, BitVec.ofNat 32 (s.gt - x.userSince))
         ((∃ l, x.wait = .esc l) → y = { x with wait := .esc (some late) })
         ∧ (x.wait.escalated = false → x.outst ≠ [] → y = { x with wait := .trap late.1 late.2.1 late.2.2, held := none, starved := false, ready := 0 })
         ∧ (x.wait.escalated = false → x.outst = [] → y.state = .core ∧ y.tcause = 0x51 ∧ y.tpc = x.pc ∧ y.tval = late.2.2)))
    ∧ (∀ u, x.wait = .gt u → u ≤ s.gt → ∃ t, exec (.waitgtDeadline g.core g.slot g.grp) s = .next t ∧ t.group? g = some { x with wait := .none })
    ∧ (∀ k o w, s.crew? g.core g.slot = some k → x.halt ≠ .cancelled → x.wait.trapping = false → x.outst = [o] → o.kind = .waitm w → w.sd + 1 < 60 → w.page = none →
        (∀ r, w.readAt = some r → r + 16 ≤ s.gt) →
        let ps := waitmPlaces s g k.part w
        let as := (placeBytes ps).map fun b => b.1
        let v := waitmWord s g x o.id as
        let met := (w.cond = 0 ∧ v ≠ w.v) ∨ (w.cond = 1 ∧ v = w.v) ∨ (w.cond = 2 ∧ w.v.toNat ≤ v.toNat)
        let late := w.deadline ≤ s.gt ∧ w.deadline ≠ 18446744073709551615
        w.cond < 3 → missPages ps = [] → as.length = 4 → readWaits s g x o.id as = false → (∀ a ∈ as, lineOf a ∉ s.poison) →
        ∃ t z, exec (.waitmPoll g.core g.slot g.grp) s = .next t ∧ t.group? g = some z ∧ z.pc = x.pc ∧ t.mem = s.mem
          ∧ (met ∨ late → z.outst = [] ∧ z.regs.readS w.sd = v ∧ z.regs.readS (w.sd + 1) = if met then 0 else 1)
          ∧ (¬ met → ¬ late → z.regs = x.regs ∧ z.outst = [{ o with kind := .waitm { w with readAt := some s.gt, granted := false } }]))
    ∧ (∀ n, s.allGroups = [g] → x.halt ≠ .cancelled → (∀ o w, (o, w) ∈ x.waitms → ∀ k, s.crew? g.core g.slot = some k → ∃ r, w.readAt = some r
          ∧ r + 256 ≤ s.gt ∧ w.page = none ∧ readWaits s g x o.id ((placeBytes (waitmPlaces s g k.part w)).map fun b => b.1) = false
          ∧ missPages (waitmPlaces s g k.part w) = []) → x.waitms ≠ [] → waitmSlack s n = 0)
    ∧ (x.wait = .none → x.halt = .running → x.starved = false → 1024 * 12 ≤ x.ready →
        ∃ t, exec (.issueStarvation g.core g.slot g.grp) s = .next t ∧ t.group? g = some { x with starved := true })
    ∧ (∀ part n pg fs, (s.part part).pages.find? (fun p => p.index = n) = some pg → pg.owner = g → pg.job = none → pg.out = none → pg.fate = .live →
        pg.ctx ∉ (s.part part).retired → (∀ h z, s.group? h = some z → ∀ a b c, z.wait ≠ .pageIndex a b c) →
        ∃ t, exec (.pageResponse part n .success fs) s = .next t
          ∧ t.group? g = some (if x.wait = .page n then { x with wait := .none, granted := pg.pages.map Prod.fst } else x)
          ∧ t.hostPages = ((pg.pages.zip fs).map fun p => ⟨(s.part part).pasid, p.1.1, p.2, true⟩) ++ s.hostPages)
    ∧ ∀ part va n, s.loads = [] → s.buffered = [] → (∀ m ∈ s.writes, m.phase = .ack) → (∀ m ∈ s.atoms, m.phase = .ack) → ∃ t,
        exec (.atsInvalidation part va n) s = .next t ∧ (∀ h, h ∈ t.hostPages ↔ h ∈ s.hostPages
          ∧ ¬(h.pasid = (s.part part).pasid ∧ va / 4096 ≤ h.page ∧ h.page < va / 4096 + n))

/-- R177, R179, R181, R189, R351, R85, R163, R187, R193, R199, R200, R202: Loads, writes and atomics at their homes, and the results and waits that end. -/
def Obligations.MemorySystemSteps : Prop := Claims.HomeSteps ∧ Claims.ResultSteps ∧ Claims.WaitSteps

/-! ### Launches, queues, records and wakes (R41 to R56, R259 to R262, R289 to R329) -/

/-- R45, R46, R55, R259, R260, R262, R280, R321, R325: the life of a launch and of its crews. LAUNCH_ELIGIBLE when every wait is met; PRIORITY_AGING raises a
launch that has waited for 16,384 nominal clocks (counted in twelfths of one, in the partition's lowest core's clock, log 48); EVICTION asks to save a crew that has long been parked while work wants a
place; LAUNCH_COMPLETE when every crew has retired, or the windows or bins are over, and no work is left; CANCEL_COMPLETE once the matrix jobs already created are over; FORCED_SAVE stops every group where it is at
the deadline; CREW_SAVE freezes its groups while there is something to wait for, and then adds the crew's image to its launch (what of it lies in memory is the model's choice, log 35); CREW_RESTORE puts the saved crew that comes next in the order of placement into a slot again. -/
def Claims.LaunchSteps : Prop :=
  ∀ (n : Nat) (s : State) (l : Launch), s.launch? n = some l →
    (l.state = .waiting → (∀ w ∈ l.block.waits, counterMet s l.part w.1 w.2 = true) → ∃ t l', exec (.launchEligible n) s = .next t
      ∧ t.launch? n = some l' ∧ l'.state = .eligible ∧ l'.block = l.block)
    ∧ (l.wants = true → l.prio < 255 → 16384 * 12 ≤ l.waited → ∃ t, exec (.priorityAging n) s = .next t
        ∧ t.launch? n = some { l with raised := l.raised + 1, waited := l.waited - 16384 * 12 })
    ∧ (l.state = .eligible → (l.block.kind < 2 ∧ l.finished.length = l.block.crews ∨ l.block.kind = 2 ∧ windowDone s l = true ∨ l.block.kind = 3 ∧ nodeDone s l = true) →
        workLeft s l = false → ∃ t l', exec (.launchComplete n) s = .next t ∧ t.launch? n = some l' ∧ l'.state = .complete ∧ l'.places = [])
    ∧ (l.state = .cancelling → (∀ c ∈ s.cores, ∀ j ∈ c.mats, j.launch ≠ n) → ∃ t l', exec (.cancelComplete n) s = .next t ∧ t.launch? n = some l'
        ∧ l'.state = .cancelled ∧ l'.places = [])
    ∧ (l.state = .cancelling → (∃ c ∈ s.cores, ∃ j ∈ c.mats, j.launch = l.seq) → ∃ e, exec (.cancelComplete n) s = .refused (.notEnabled e))
    ∧ (∀ core slot k, s.crew? core slot = some k →
        (k.preemptAt = none → k.longParked = true → (∃ o ∈ s.launches, o.part = k.part ∧ o.wants = true) →
          ∃ t k', exec (.eviction core slot) s = .next t ∧ t.crew? core slot = some k' ∧ k'.preemptAt = some s.gt)
        ∧ (∀ u, k.preemptAt = some u → k.launch = n → u + l.block.deadline * 1200 ≤ s.gt → k.forced = false → (∃ y ∈ k.members, y.2.stopped false = false) →
          ∃ t k', exec (.forcedSave core slot) s = .next t ∧ t.crew? core slot = some k' ∧ k'.forced = true ∧ ∀ i g, getAt none k.groups i = some g →
            getAt none k'.groups i = some (if g.halt = .cancelled then g else { g with halt := .saving }))
        ∧ (k.preemptAt ≠ none → k.launch = n → l.state = .eligible → (∀ y ∈ k.members, y.2.stopped k.forced = true) → saveWaits s core slot k = false →
          ∃ t l', exec (.crewSave core slot) s = .next t ∧ t.launch? n = some l' ∧ l'.saved = l.saved ++ [(k.index, saveImage s core slot k)])
        ∧ (k.preemptAt ≠ none → k.launch = n → l.state = .eligible → (∀ y ∈ k.members, y.2.stopped k.forced = true) → saveWaits s core slot k = true →
          ((∃ y ∈ k.members, y.2.halt ≠ .saving ∧ y.2.halt ≠ .cancelled) →
            ∃ t k', exec (.crewSave core slot) s = .next t ∧ t.crew? core slot = some k' ∧ ∀ i g, getAt none k.groups i = some g →
              getAt none k'.groups i = some (if g.halt = .cancelled then g else { g with halt := .saving }))
          ∧ ((∀ y ∈ k.members, y.2.halt = .saving ∨ y.2.halt = .cancelled) → exec (.crewSave core slot) s = .refused (.notEnabled "CREW_SAVE"))))
    ∧ ∀ s1 l1 crew v core slot c, passRun s l.part = (s1, some n) → s1.launch? n = some l1 → l1.nextSaved = some (crew, v) →
        pickReplace s1 l1 crew v = some (core, slot, c) → ∃ t k' l',
          exec (.crewRestore n crew core) s = .next t ∧ t.crew? core slot = some k' ∧ k'.index = v.crew.index ∧ k'.ctx = v.crew.ctx
            ∧ k'.launch = l1.seq ∧ t.launch? n = some l' ∧ l'.saved = l1.saved.filter (fun x => x.1 ≠ crew)

/-- A served queue with an entry e that R313 and R315 allow at its head. -/
def entryAt (s : State) (part queue : Nat) (x : Queue) (e kind : Nat) : Prop :=
  (s.part part).queue? queue = some x ∧ bitOf (s.part part).pctl.toNat 6 = true ∧ x.stopped = false ∧ x.head ≠ x.tail
    ∧ headEntry s part x = some e ∧ entKind e = kind ∧ entOk queue e = true

/-- The queue's head has moved past one entry, and the queue has had its turn (R314). -/
def headMoved (t : State) (part queue : Nat) (x : Queue) : Prop :=
  ∃ y, (t.part part).queue? queue = some y ∧ (t.part part).turn = queue ∧ y.head = (x.head + 1) % 2 ^ 32 ∧ { y with head := x.head, tail := x.tail } = x

/-- R311 to R319, R325: kicks and queue entries. KICK moves the tail, or stops a queue that it would overfill; other writes are ignored. Each kind of
entry has its effect, and the head moves on: a launch is accepted as waiting where every check of R319 passes, and else refused; a wait on a counter lets the
queue go on (head and tail are indices modulo 2^32, the model's reading, log 33); a counter is raised; a stream or a bin is attached or detached; a queue is created or destroyed; a level is
cancelled; a crew is asked to save itself. The size of a standing crew's image, the check of SELF in every block and the refusal of a
block that is not 256-byte aligned, which legalBlock and the launch entry's clause hold, are the model's readings (log 34). -/
def Claims.QueueSteps : Prop :=
  ∀ (part queue : Nat) (s : State) (x : Queue), (s.part part).queue? queue = some x →
    (∀ v : BitVec 32, x.stopped = false → bitOf (s.part part).pctl.toNat 0 = true →
      let ahead := (v - BitVec.ofNat 32 x.head).toNat
      (ahead ≤ 2 ^ x.log2n → ∃ t, exec (.kick part queue 0 4 v) s = .next t ∧ (t.part part).queue? queue = some { x with tail := x.head + ahead })
      ∧ (2 ^ x.log2n < ahead → ∃ t, exec (.kick part queue 0 4 v) s = .next t ∧ (t.part part).queue? queue = some { x with stopped := true }))
    ∧ (∀ off size v, (off ≠ 0 ∨ size ≠ 4) → exec (.kick part queue off size v) s = .next s)
    ∧ (∀ e, entryAt s part queue x e 1 → ∃ t, exec (.launchEntry part queue) s = .next t ∧ headMoved t part queue x
        ∧ (let legal := entArg e 0 % 256 = 0 ∧ ∃ b, vaNat? s (s.part part).homeStack part (entArg e 0) 256 = some b
              ∧ legalBlock s part x.ctx x.saveBytes b
           (legal → ∃ b, vaNat? s (s.part part).homeStack part (entArg e 0) 256 = some b ∧ acceptedAs s t part x.ctx 255 b
              ∧ ∀ n ∈ t.launches.getLast?, n.addr = entArg e 0 ∧ n.saveArea = x.saveArea ∧ n.saveBytes = x.saveBytes)
           ∧ (¬ legal → t.launches = s.launches)))
    ∧ (∀ e, entryAt s part queue x e 2 → counterValid s part x.ctx (entArg e 0) = true → counterMet s part (entArg e 0) (entArg e 1) = true →
        ∃ t, exec (.waitCounterEntry part queue) s = .next t ∧ headMoved t part queue x)
    ∧ (∀ e, entryAt s part queue x e 3 → counterValid s part x.ctx (entArg e 0) = true → exec (.signalCounterEntry part queue) s
        = .next (takeEntry (wakeCounters (counterSet s part (entArg e 0) (counterValue s part (entArg e 0) + BitVec.ofNat 64 (entArg e 1))
            (counterStatus s part (entArg e 0))) part) part queue))
    ∧ (∀ e, entryAt s part queue x e 3 → counterValid s part x.ctx (entArg e 0) = false → ∃ t, exec (.signalCounterEntry part queue) s = .next t
        ∧ (t.part part).queue? queue = some { x with stopped := true })
    ∧ (∀ e l, entryAt s part queue x e 4 → attachLaunch s part x.ctx (entArg e 1) = some l →
        (entBin e = false → l.block.kind = 2 → 4 ≤ bitsOf (entArg e 0) 36 32 → bitsOf (entArg e 0) 36 32 ≤ 20 → entArg e 2 % 4096 = 0 →
          (∀ b ∈ (s.part part).bindings, b.stream ≠ entArg e 0 % 65536) → ∃ t, exec (.streamAttach part queue) s = .next t ∧ headMoved t part queue x
            ∧ (t.part part).bindings = ⟨entArg e 0 % 65536, l.seq, bitsOf (entArg e 0) 36 32, entArg e 2⟩ :: (s.part part).bindings)
        ∧ (entBin e = true → l.block.kind = 3 → bitsOf (entArg e 0) 23 16 < 128 → (s.part part).bin? (entArg e 0 % 4096) = none →
          ∃ t b, exec (.streamAttach part queue) s = .next t ∧ headMoved t part queue x ∧ (t.part part).bin? (entArg e 0 % 4096) = some b
            ∧ b.launch = l.seq ∧ b.count = bitsOf (entArg e 0) 23 16 + 1 ∧ b.timer = bitsOf (entArg e 0) 47 32 ∧ b.records = []))
    ∧ (∀ e b, entryAt s part queue x e 5 → entBin e = false → (s.part part).bindings.find? (fun b => b.stream = entArg e 0) = some b →
        ofContext s b.launch x.ctx = true → ∃ t, exec (.streamDetach part queue) s = .next t ∧ headMoved t part queue x
          ∧ (t.part part).bindings = (s.part part).bindings.filter (fun y => y.stream ≠ b.stream))
    ∧ (∀ e, entryAt s part queue x e 8 → let n := entArg e 1 % 1024
        n ≠ queue → entArg e 1 / 2 ^ 32 ≠ 0 → bitsOf (entArg e 1) 19 16 ≤ 10 → entArg e 0 % 4096 = 0 → entArg e 2 % 8 = 0 → entArg e 3 % 4096 = 0 →
          ∃ t, exec (.queueCreate part queue) s = .next t ∧ headMoved t part queue x ∧ (t.part part).queue? n = some
            { ring := entArg e 0, log2n := bitsOf (entArg e 1) 19 16 + 6, head := 0, tail := 0, ctx := BitVec.ofNat 32 (entArg e 1 / 2 ^ 32)
              headAddr := entArg e 2, saveArea := entArg e 3, saveBytes := entArg e 4, stopped := false }
            ∧ BitVec.ofNat 32 (entArg e 1 / 2 ^ 32) ∉ (t.part part).retired)
    ∧ (∀ e, entryAt s part queue x e 9 → entArg e 0 ≠ queue → ∃ t, exec (.queueDestroy part queue) s = .next t ∧ headMoved t part queue x
        ∧ (t.part part).queue? (entArg e 0) = none)
    ∧ (∀ e b, entryAt s part queue x e 5 → entBin e = true → (s.part part).bin? (entArg e 0) = some b → ofContext s b.launch x.ctx = true →
        ∃ t, exec (.streamDetach part queue) s = .next t ∧ headMoved t part queue x ∧ (t.part part).bin? b.bin = none
          ∧ (t.part part).nodeGroups = (s.part part).nodeGroups ++ (if b.records = [] then [] else [⟨b.launch, (b.records.take b.count).map Prod.snd⟩]))
    ∧ (∀ e, entryAt s part queue x e 10 → exec (.cancelEntry part queue) s = .next (takeEntry (cancelLevel s part (entArg e 0) (entArg e 1)) part queue))
    ∧ ∀ e k, entryAt s part queue x e 11 → (s.part part).cores.getLsbD (entArg e 0) = true → s.crew? (entArg e 0) (entArg e 1) = some k →
        ∃ t k', exec (.preEmptEntry part queue) s = .next t ∧ headMoved t part queue x ∧ t.crew? (entArg e 0) (entArg e 1) = some k'
          ∧ k'.preemptAt.isSome = true

/-- R45, R46, R55, R259, R260, R262, R280, R321, R325, R311, R319: The life of a launch and its crews, kicks and queue entries. -/
def Obligations.LaunchAndQueueSteps : Prop := Claims.LaunchSteps ∧ Claims.QueueSteps

/-- R46, R290, R291, R294, R297 to R301, R309, R325, R326, R328, R329: records on their way. RECORD_INGRESS sends a data record to the core of its key, a
control record to every partition core, a bridge stream's to the package controller, and refuses one of a stream that is
not attached; a launch cancelled before it was placed gets no record: its copy goes to the fault queue (at the poster's core, log 55). RECORD_ACCEPT raises its stream's watermark for a control record, opens the slate of a new window of kind 0, and
changes no slate for a late record. RPOST_ORD_ACCEPTANCE writes a lane's status; BRIDGE_FILTER posts what its entry passes
into the destination and refuses what none matches (a record goes to the node of its poster's stack, log 29, and waits behind a slate that is being fetched, logs 30 and 54: the model's readings); the timer of a bin forms a node group; a second sample that agrees
with a quiet one detaches a graph's streams and bins; WD_QUERY writes the distributor's answer. -/
def Claims.RecordSteps : Prop :=
  ∀ (n : Nat) (s : State) (m : RecMsg),
    (s.recs.find? (fun m => m.id = n && m.phase = .toIngress) = some m →
      let r := m.record.bits
      ((s.part m.record.part).bridge.contains (recStream r) = true → ∃ t m', exec (.recordIngress n) s = .next t ∧ m' ∈ t.recs ∧ m'.id = n
        ∧ m'.phase = .toBridge)
      ∧ ((s.part m.record.part).bridge.contains (recStream r) = false →
        (boundLaunch s m.record.part (recStream r) = none → m.parent = none → m.waits = true → ∃ t m', exec (.recordIngress n) s = .next t
          ∧ m' ∈ t.recs ∧ m'.id = n ∧ m'.phase = .done ∧ m'.status = 2)
        ∧ (∀ q l, boundLaunch s m.record.part (recStream r) = some q → s.launch? q = some l → (l.state = .cancelling ∨ l.state = .cancelled) → l.partitionCores = [] →
            (∃ b w, (s.part m.record.part).bindings.find? (fun b => b.stream = recStream r) = some b ∧ l.block.win = some w ∧ faultFull s m.poster.core m.record.part b = false) →
            m.parent = none → m.waits = true → ∃ t m', exec (.recordIngress n) s = .next t ∧ m' ∈ t.recs ∧ m'.id = n ∧ m'.phase = .done
              ∧ m'.status = (if recControl r then 0 else 1))
        ∧ (∀ q l c0 cs, boundLaunch s m.record.part (recStream r) = some q → s.launch? q = some l → l.partitionCores = c0 :: cs →
            (l.state = .cancelling ∨ l.state = .cancelled ∨ l.unplaced = 0) →
            (∀ c ∈ c0 :: cs, nodeHasCredit s m.node c = true) →
            (recControl r = false → ∃ t m', exec (.recordIngress n) s = .next t ∧ m' ∈ t.recs ∧ m'.id = n
              ∧ m'.phase = .toCore (getAt c0 (c0 :: cs) ((recKey r).toNat * 0x8F1BC4D3 % 2 ^ 32 / 2 ^ 16 % (c0 :: cs).length)))
            ∧ (recControl r = true → ∃ t, exec (.recordIngress n) s = .next t ∧ ∀ c ∈ c0 :: cs, ∃ m' ∈ t.recs, m'.parent = some n
              ∧ m'.record = m.record ∧ m'.phase = .toCore c))))
    ∧ (s.recs.find? (fun m => m.id = n) = some m → ∀ core b l w d, m.core? = some core → recBlocked s m core = false →
        (s.part m.record.part).bindings.find? (fun b => b.stream = recStream m.record.bits) = some b → s.launch? b.launch = some l →
        s.win? b.launch = some w → s.dormer? core b.launch = some d → faultFull s core m.record.part b = false →
        let r := m.record.bits
        (recControl r = true → (d.acceptControl w r).overfull = false → ∃ t d', exec (.recordAccept n) s = .next t ∧ t.dormer? core b.launch = some d'
          ∧ (let k := (recId r).1
             (recEos r = false → (d'.mark k).wmark = max (d.mark k).wmark (if recWm r then recTs r else (d.mark k).wmark) ∧ (d'.mark k).ended = (d.mark k).ended)
             ∧ (recEos r = true → (d'.mark k).wmark = 2 ^ 63 - 1 ∧ (d'.mark k).ended = true)
             ∧ ∀ k', k' ≠ k → d'.mark k' = d.mark k'))
        ∧ (recControl r = false → lateReason l w d r ≠ 0 → ∃ t d', exec (.recordAccept n) s = .next t ∧ t.dormer? core b.launch = some d'
          ∧ d'.slates = d.slates)
        ∧ (recControl r = false → lateReason l w d r = 0 → w.kind = 0 → d.overfull = false → d.freeBank ≠ none →
          (∀ x ∈ d.slates, (x.spilled = true → x.place ≠ none) ∧ (x.sk = recId r → x.spilled = false ∧ x.start ≠ recTs r / w.size * w.size)) →
          ∃ t d' x, exec (.recordAccept n) s = .next t
            ∧ t.dormer? core b.launch = some d' ∧ d'.slates = d.slates ++ [x] ∧ x.key = recKey r ∧ x.stream = (recId r).1 ∧ x.count = 1 ∧ x.out = true
            ∧ x.bank = d.freeBank ∧ x.start = recTs r / w.size * w.size ∧ x.stop = recTs r / w.size * w.size + w.size))
    ∧ (∀ x p lane, s.recs.find? (fun m => m.id = n && m.phase = .done) = some m → s.group? m.poster = some x → x.wait = .post p →
        p.msg = some n → p.ord = true → p.tl = false → p.todo = [] → p.done = [(lane, 0)] → lane < 128 → p.va < 128 → ∃ t y,
          exec (.rpostOrdAcceptance n) s = .next t ∧ t.group? m.poster = some y ∧ y.wait = .none ∧ y.pc = p.pc + 4 ∧ y.regs.readV p.va lane = BitVec.ofNat 32 m.status)
    ∧ (s.recs.find? (fun m => m.id = n && m.phase = .toBridge) = some m → m.parent = none → m.waits = true →
        ((∀ e ∈ s.pkg.filter, filterMatches e.toNat m.record.part (recStream m.record.bits) = false) → ∃ t m', exec (.bridgeFilter n) s = .next t
          ∧ m' ∈ t.recs ∧ m'.id = n ∧ m'.phase = .done ∧ m'.status = 2)
        ∧ (∀ e i, s.pkg.filter.zipIdx.find? (fun e => filterMatches e.1.toNat m.record.part (recStream m.record.bits)) = some (e, i) →
            filterPasses e.toNat m.record.bits = true → e.extractLsb' 160 32 = 0 → ∃ t m', exec (.bridgeFilter n) s = .next t ∧ m' ∈ t.recs
              ∧ m'.id = n ∧ m'.phase = .toIngress ∧ m'.record.part = (e.extractLsb' 72 8).toNat
              ∧ recStream m'.record.bits = (e.extractLsb' 80 16).toNat))
    ∧ (∀ part b, (s.part part).bin? n = some b → b.timer ≠ 0 → (∀ r ∈ b.records.head?, r.1 + b.timer ≤ s.gt) → b.records ≠ [] → ∃ t,
        exec (.nodeBinTimer part n) s = .next t
          ∧ (t.part part).nodeGroups = (s.part part).nodeGroups ++ [⟨b.launch, (b.records.take b.count).map Prod.snd⟩])
    ∧ (∀ part, let ls := quiescentLaunches s part n
        ls ≠ [] →
        ((∀ x ∈ (s.part part).samples, x.counter ≠ n) → ∃ t y, exec (.quiescenceSample part n) s = .next t ∧ (t.part part).samples = (s.part part).samples ++ [y]
          ∧ y.counter = n ∧ y.waited = 0 ∧ y.posted = (ls.map Launch.posted).sum ∧ y.taken = (ls.map Launch.taken).sum)
        ∧ (∀ old, (s.part part).samples.find? (fun x => x.counter = n) = some old → 1024 * 12 ≤ old.waited → old.quiet = true →
          (∀ l ∈ ls, launchQuiet s l = true) → old.posted = (ls.map Launch.posted).sum → old.taken = (ls.map Launch.taken).sum → old.posted = old.taken →
          ∃ t, exec (.quiescenceSample part n) s = .next t ∧ ∀ l ∈ ls, (∃ l', t.launch? l.seq = some l' ∧ l'.detached = true)
            ∧ (∀ b ∈ (t.part part).bindings, b.launch ≠ l.seq) ∧ ∀ b ∈ (t.part part).bins, b.launch ≠ l.seq))
    ∧ ∀ core j o l, (s.core core).jobs.find? (fun j => j.id = n) = some j → j.kind = .query o → s.launch? j.launch = some l →
        earlierQuery (s.core core) j = false → mustFollow (s.core core) j.launch j.crew j.id j.reads j.writes = false →
        storesPending s ⟨core, j.slot, j.grp⟩ j.after = false → j.granules.Nodup → o % 4 = 0 → o + 4 ≤ 128 * j.granules.length →
        Memory.wf (s.core core).sram = true → ∃ t l', exec (.wdQuery core n) s = .next t ∧ t.launch? j.launch = some l'
          ∧ (if l.cursor < l.block.gridX * l.block.gridY then l'.cursor = l.cursor + 1 else l'.cursor = l.cursor)
          ∧ scratchWord (t.core core) j.granules o = (if l.cursor < l.block.gridX * l.block.gridY then
              BitVec.ofNat 32 (l.cursor % l.block.gridX + 65536 * (l.cursor / l.block.gridX)) else 0xFFFFFFFF)

/-- R51, R301, R303, R323, R325: WAKE_START starts a group of the records that wait, each in a lane of its own, on the crew of its core: a node
group at the role's offset with its records in v48 to v63; an open wake at OPEN with the slates that it opens.
No group starts on a fenced core (R266). How many of the waiting items a wake takes, from the oldest on (log 32), and which bank a slate takes (log 54), are the model's choice. SLATE_FETCH_COMPLETE brings a spilled slate that is wanted back into a free slot. -/
def Claims.WakeSteps : Prop :=
  ∀ (core launch : Nat) (s : State) (l : Launch), s.launch? launch = some l → l.state = .eligible →
    (∀ index c slot k r rs i lane, (s.core core).fenced = false → l.places.find? (fun p => p.2.1 = core) = some (index, c, slot) → s.crew? core slot = some k → l.block.roles = r :: rs →
      (List.range 16).find? (fun i => (getAt none k.groups i).isNone) = some i → pickLaneset (s.core core).use r.budget = some lane →
      (∀ g count, (s.part l.part).nodeGroups.find? (fun g => g.launch = l.seq) = some g → g.records.length ≤ 128 → ∃ t y,
        exec (.wakeStart core launch 5 count) s = .next t ∧ t.group? ⟨core, slot, i⟩ = some y ∧ y.pc = BitVec.ofNat 32 r.offset
          ∧ y.regs.act = (maskOf fun n => n < g.records.length)
          ∧ ∀ n w, n < g.records.length → w < 16 → y.regs.readV (48 + w) n = (getAt 0 g.records n).extractLsb' (32 * w) 32)
      ∧ (∀ w d it, l.block.win = some w → s.dormer? core l.seq = some d → d.ready.filter (fun j => j.kind = .open) = [it] →
        (∀ id, it.slate = some id → ∃ z, d.slate? id = some z ∧ z.backed = true) → ∃ t y d', exec (.wakeStart core launch 0 1) s = .next t
          ∧ t.group? ⟨core, slot, i⟩ = some y ∧ y.pc = BitVec.ofNat 32 w.openE ∧ y.regs.act = 1 ∧ (y.lane 0).slate = it.slate
          ∧ t.dormer? core l.seq = some d' ∧ d'.ready = d.ready.filter (fun j => j.kind ≠ .open)))
    ∧ ((s.core core).fenced = true → ∀ kind count t, exec (.wakeStart core launch kind count) s ≠ .next t)
    ∧ ∀ n w d x, s.win? launch = some w → s.dormer? core launch = some d → d.slate? n = some x → x.spilled = true → x.fetching = true →
        ∀ b, d.freeBank = some b → (∀ y ∈ d.slates, y.spilled = true → y.place ≠ none) →
          ∃ t d', exec (.slateFetchComplete core launch n) s = .next t ∧ t.dormer? core launch = some d'
          ∧ d'.slates = d.slates.map fun y => if y.id = n then { y with spilled := false, fetching := false, bank := some b, place := none } else y

/-- R46, R290, R291, R294, R297, R301, R309, R325, R326, R328, R329, R51: Records on their way to windows and bins, and the wakes they start. -/
def Obligations.RecordAndWakeSteps : Prop := Claims.RecordSteps ∧ Claims.WakeSteps

/-! ### The network, the supervisor core, the hosts and the management endpoint (R252 to R267, R336 to R373) -/

/-- R338 to R345, R347: the network. PACKET_FORWARD puts the head of an input on a link whose far end has room, or delivers it to an endpoint whose gutter
buffer is empty; of a multicast packet the part that the output takes goes, and the remainder keeps its place and its timer. SUSPECT_MARK marks
a head that has waited for the time-out; the garnet token passes a router without a suspect head and is captured at one with
such a head, whose packet, or one destination of it, the gutter lane then brings to its destination's gutter buffer, from which the endpoint takes it ahead of ordinary
packets. A flit on a link, an ordinary one or the gutter lane's own (numbered 16 above it), arrives, or is counted as a retry; a link whose 16th retry in a row has failed is reported to the package controller. A packet enters the injection queue of its
endpoint with that endpoint as its source and GT as its age. The package event of a link failure has a free kind, the model's choice (log 57); so is the order of a router's
endpoints (log 31). -/
def Claims.NetworkSteps : Prop :=
  ∀ (r inp out : Nat) (s : State),
    let b := s.net.buf r inp
    let goes := fun c => (productive r (coreRouter c) 0).contains out
    (∀ p ps, inp ≠ 10 → b.packets = p :: ps → out ∈ p.requests r → s.net.outranked r inp out p = false →
      let part := { p with set := p.set.filter goes }
      let stay := p.set.filter fun c => !(goes c)
      let left := if stay = [] then (⟨ps, 0, false⟩ : NetBuf) else { b with packets := { p with set := stay } :: ps }
      (∀ u, out < 6 → neighbour r out = some u →
        (s.net.buf u (farInput out)).packets.length + (s.net.onLink r out).length < inputDepth (farInput out) →
          ∃ t, exec (.packetForward r inp out) s = .next t ∧ t.net.buf r inp = left ∧ t.net.onLink r out = s.net.onLink r out ++ [part]
            ∧ t.net.delivered = s.net.delivered)
      ∧ (6 ≤ out → (∀ x ∈ s.net.sinks, x.1 = r → x.2.dstPort ≠ out - 6) → ∃ t, exec (.packetForward r inp out) s = .next t
          ∧ t.net.buf r inp = left ∧ t.net.delivered = s.net.delivered ++ [part] ∧ t.net.links = s.net.links))
    ∧ (∀ xs x ys, s.net.sinks = xs ++ x :: ys → x.1 = r → out = 6 + x.2.dstPort → (∀ y ∈ xs, y.1 = r → y.2.dstPort ≠ x.2.dstPort) →
        ∃ t, exec (.packetForward r 10 out) s = .next t ∧ t.net.sinks = xs ++ ys ∧ t.net.delivered = s.net.delivered ++ [x.2])
    ∧ (b.packets ≠ [] → b.suspect = false → s.net.timeout * 120 ≤ b.timer → ∃ t, exec (.suspectMark r inp) s = .next t
        ∧ t.net.buf r inp = { b with suspect := true })
    ∧ (s.net.captured = none → let v := (s.net.token + 1) % 132
        (s.net.oldestSuspect v = none → exec .garnetTokenArrival s = .next { s with net := { s.net with token := v } })
        ∧ (∀ i p, s.net.oldestSuspect v = some (i, p) → ∃ t, exec .garnetTokenArrival s = .next t ∧ t.net.token = v ∧ t.net.captured = some v
            ∧ (p.set = [] → t.net.gutter = some (v, p) ∧ (t.net.buf v i).packets = (s.net.buf v i).packets.drop 1)
            ∧ ∀ c cs, p.set = c :: cs → t.net.gutter = some (v, { p with dst := coreRouter c, dstPort := 0, set := [] })
              ∧ (t.net.buf v i).packets = (if cs = [] then [] else [{ p with set := cs }]) ++ (s.net.buf v i).packets.drop 1))
    ∧ (∀ v p, s.net.gutter = some (v, p) →
        (∀ o u, gutterOut v p = some o → neighbour v o = some u →
          (s.net.onLink v (16 + o) = [] → ∃ t, moveStep exec .gutterHop s = .next t ∧ t.net.onLink v (16 + o) = [p] ∧ t.net.gutter = s.net.gutter
            ∧ t.net.bufs = s.net.bufs)
          ∧ (s.net.onLink v (16 + o) = [p] → o < 16 → ∃ t, moveStep exec (.linkArrive v (16 + o)) s = .next t ∧ t.net.gutter = some (u, p)
            ∧ t.net.onLink v (16 + o) = [] ∧ t.net.bufs = s.net.bufs ∧ t.net.retryCount v (16 + o) = 0))
        ∧ (v = p.dst → (s.net.sinks.filter fun x => x.1 = p.dst && x.2.dstPort = p.dstPort).length < 8 →
            exec .gutterSinkAck s = .next { s with net := { s.net with gutter := none, captured := none, sinks := s.net.sinks ++ [(p.dst, p)] } })
        ∧ (v ≠ p.dst → ∃ e, exec .gutterSinkAck s = .refused e))
    ∧ (s.net.onLink r out ≠ [] → ∃ t, exec (.linkRetry r out) s = .next t ∧ t.net.retryCount r out = s.net.retryCount r out + 1
        ∧ t.net.links = s.net.links ∧ t.net.bufs = s.net.bufs)
    ∧ (∀ p ps u, out < 16 → s.net.onLink r out = p :: ps → neighbour r out = some u → ∃ t, moveStep exec (.linkArrive r out) s = .next t
        ∧ t.net.onLink r out = ps ∧ (t.net.buf u (farInput out)).packets = (s.net.buf u (farInput out)).packets ++ [p] ∧ t.net.retryCount r out = 0)
    ∧ (16 < s.net.retryCount r out → (r, out) ∉ s.net.reported → ∃ t e, exec (.linkFailureReport r out) s = .next t
        ∧ t.net.reported = s.net.reported ++ [(r, out)] ∧ t.net.links = s.net.links ∧ t.pkg.events = s.pkg.events ++ [e])
    ∧ ∀ p port, inp = 6 + port → port < (endpoints r).length → p.named = true → b.packets.length < 8 → ∃ t, moveStep exec (.inject r inp p) s = .next t
        ∧ (t.net.buf r inp).packets = b.packets ++ [{ p with src := r, srcPort := port, age := s.gt }]

/-- R252 to R255, R267, R350, R360, R369, R370: the supervisor core and the hosts' memory. ESC_QUEUE_POP removes the oldest entry, and reads 0 of an empty queue;
ESC_COMPLETION lets the named group go on, and a write that names no waiting group changes nothing; an event is posted to the core's partition; the windows read and write the
registers of a group that is stopped, and the scratchpad of a crew, and read 0 of a group that is not; a reserved MW never enters the stack; an error, or a poisoned
granule that it reads, stops the supervisor and fences the core. It reaches the firmware memory and the mailbox window of its partition, and an access beyond is counted. A
host reads and writes the bytes of its HDM range, a write passes waits on counters on; beyond the range and in a poisoned line a read is answered with poison, and AER
reports it. The package controller's firmware has the scrub engine zero a range of a slice. Where the mailbox windows lie in the firmware memory and the form of the command to the scrub engine are the model's choice (log 43), and so are which groups a fence by the supervisor halts
(log 37) that a trap raised while a group waits in `ESC` or in a double fault is taken at the completion (log 62), and the words of a stack entry, that entry 0
is the oldest, that the windows take aligned words alone and that a reserved MW is dropped whole (log 17). -/
def Claims.SupervisorSteps : Prop :=
  ∀ (core : Nat) (s : State), let c := s.core core
    let fences := fun (t : State) => (t.core core).supRunning = false ∧ (t.core core).fenced = true
      ∧ ∀ slot grp x, slot < 16 → s.group? ⟨core, slot, grp⟩ = some x → x.halt = .running → ∃ y, t.group? ⟨core, slot, grp⟩ = some y ∧ y.halt = .debug
        ∧ y.regs = x.regs ∧ y.pc = x.pc ∧ ∀ l, x.wait = .esc l → y.wait = .esc l
    (c.supRunning = true →
      (c.escQueue = [] → ∃ t, exec (.escQueuePop core) s = .next t ∧ (t.core core).supData = 0)
      ∧ (∀ e es, c.escQueue = e :: es → ∃ t, exec (.escQueuePop core) s = .next t ∧ (t.core core).escQueue = es ∧ (t.core core).supData = e.bits
          ∧ (t.core core).escTaken = c.escTaken ++ [e] ∧ (t.core core).escTop = some (e.gid core))
      ∧ (∀ (v : BitVec 64), let gid : Gid := ⟨core, v.toNat / 16 % 16, v.toNat % 16⟩
          let completed := fun (t : State) => (∀ e, (e ∈ (t.core core).escQueue ↔ e ∈ c.escQueue ∧ e.gid core ≠ gid))
            ∧ ∀ e ∈ (t.core core).escTaken, e.gid core ≠ gid
          (∀ x, v.toNat < 256 → s.group? gid = some x → (x.wait = .esc none ∨ x.wait = .doubleFault none) →
            ∃ t, exec (.escCompletion core v) s = .next t ∧ t.group? gid = some { x with wait := if x.outst = [] then .none else .drain } ∧ completed t)
          ∧ (∀ x cause tpc tval, v.toNat < 256 → s.group? gid = some x →
            (x.wait = .esc (some (cause, tpc, tval)) ∨ x.wait = .doubleFault (some (cause, tpc, tval))) →
            ∃ t, t.group? gid = some { x with wait := .none } ∧ completed t ∧ exec (.escCompletion core v) s = .next (takeTrapAt t gid cause tpc tval))
          ∧ ((256 ≤ v.toNat ∨ ∀ x, s.group? gid = some x → x.wait.escalated = false) → exec (.escCompletion core v) s = .next s))
      ∧ (∀ p d, s.partOf core = some p →
          ((s.part p).eqtail - (s.part p).eqhead).toNat < 2 ^ (6 + min 10 ((s.part p).eqbase.toNat % 16)) → ∃ t,
            exec (.supervisorEventPost core d) s = .next t ∧ (t.part p).eqtail = (s.part p).eqtail + 1 ∧ (t.part p).msix = (s.part p).msix + 1)
      ∧ (∀ slot grp x, slot < 16 → grp < 16 → s.group? ⟨core, slot, grp⟩ = some x →
          let base := slot * 0x200000 + grp * 0x20000
          let stopped := x.parked = true ∨ x.wait.escalated = true ∨ (x.halt ≠ .running ∧ canIssue x = false)
          let wrote := fun (o : Nat) (w : Word) (f : Group → Prop) =>
            ∃ t y, exec (.groupWindowAccess core (base + o) (some w)) s = .next t ∧ t.group? ⟨core, slot, grp⟩ = some y ∧ f y
          (stopped → x.outst = [] → x.pend = [] →
            (∀ n, n < 60 → (∃ t, exec (.groupWindowAccess core (base + 0x10000 + 4 * n) none) s = .next t
                ∧ (t.core core).supData = (x.regs.readS n).zeroExtend 128)
              ∧ ∀ w, wrote (0x10000 + 4 * n) w fun y => y.regs.readS n = w)
            ∧ (∀ n l, n < x.budget → x.budget ≤ 128 → l < 128 →
                (∃ t, exec (.groupWindowAccess core (base + 512 * n + 4 * l) none) s = .next t ∧ (t.core core).supData = (x.regs.readV n l).zeroExtend 128)
                ∧ ∀ w, wrote (512 * n + 4 * l) w fun y => y.regs.readV n l = w)
            ∧ (∀ w, wrote 0x10614 w fun y => y.pc = if x.wait.faulted = true ∨ x.halt = .debug then w else x.pc)
            ∧ (∀ n w, n < 16 → wrote (0x10400 + 16 * n) w fun y => codeC n ∈ y.windowed ∧ y.pc = x.pc)
            ∧ ∀ e m w, e < 32 → x.entry? e = some m → wrote (0x10800 + 32 * e + 24) w fun y =>
                y.entry? e = some (if mwReserved w then m else { m with mw := w }))
          ∧ (¬ stopped → ∀ o, o < 0x20000 → (∃ t, exec (.groupWindowAccess core (base + o) none) s = .next t ∧ (t.core core).supData = 0)
              ∧ ∀ w, exec (.groupWindowAccess core (base + o) (some w)) s = .next s))
      ∧ (∀ slot k o, slot < 16 → s.crew? core slot = some k → o % 4 = 0 → o + 4 ≤ 128 * k.granules.length → 128 * k.granules.length ≤ 0x800000 →
          (scratchPoison s core k.granules o 4 = none → ∃ t, exec (.scratchpadWindowAccess core (slot * 0x800000 + o) none) s = .next t
            ∧ (t.core core).supData = (scratchWord c k.granules o).zeroExtend 128)
          ∧ (∀ line, scratchPoison s core k.granules o 4 = some line → ∃ t, exec (.scratchpadWindowAccess core (slot * 0x800000 + o) none) s = .next t ∧ fences t)
          ∧ (∀ w, Memory.wf c.sram = true → ∃ t, exec (.scratchpadWindowAccess core (slot * 0x800000 + o) (some w)) s = .next t
            ∧ scratchWord (t.core core) k.granules o = w))
      ∧ (∀ line, ∃ t, exec (.supervisorCoreError core line) s = .next t ∧ fences t)
      ∧ ∀ off w, Memory.wf s.pkg.fwMem = true →
        (supReach s core off = true → (∃ t, moveStep exec (.supFw core off (some w)) s = .next t ∧ cellsNat t.pkg.fwMem off 4 = w.toNat)
          ∧ ∃ t, moveStep exec (.supFw core off none) s = .next t ∧ (t.core core).supData = BitVec.ofNat 128 (cellsNat s.pkg.fwMem off 4))
        ∧ (supReach s core off = false → ∃ t, moveStep exec (.supFw core off none) s = .next t ∧ (t.core core).supData = 0
          ∧ (t.core core).supDropped = c.supDropped + 1))
    ∧ (∀ slice loc n, s.pkg.fwImage.isSome = true → slice < 192 → 128 * (loc + n) ≤ sliceBytes → s.memOk = true →
        ∃ t, moveStep exec (.pkgScrub slice loc n) s = .next t ∧ ∀ a, cellGet t.mem a
          = if devAddr slice (128 * loc) ≤ a ∧ a < devAddr slice (128 * loc) + 128 * n then 0 else cellGet s.mem a)
    ∧ ∀ part off,
      (off < (s.part part).hdmSize → let a := hdmAddr (s.part part) off
        (¬ s.poison.contains (lineOf a) = true → ∃ t, exec (.hostHdmAccess part off none) s = .next t ∧ t.hostData = cellGet s.mem a ∧ t.hostPoison = false
          ∧ t.mem = s.mem)
        ∧ (s.poison.contains (lineOf a) = true → ∃ t, exec (.hostHdmAccess part off none) s = .next t ∧ t.hostPoison = true ∧ t.pkg.aer = s.pkg.aer + 1)
        ∧ (∀ b, s.memOk = true → ∃ t, exec (.hostHdmAccess part off (some b)) s = .next t ∧ cellGet t.mem a = b ∧ ∀ a', a' ≠ a → cellGet t.mem a' = cellGet s.mem a'))
      ∧ ((s.part part).hdmSize ≤ off → (∃ t, exec (.hostHdmAccess part off none) s = .next t ∧ t.hostPoison = true ∧ t.pkg.aer = s.pkg.aer + 1)
        ∧ ∀ b, ∃ t, exec (.hostHdmAccess part off (some b)) s = .next t ∧ t.mem = s.mem ∧ t.pkg.aer = s.pkg.aer + 1)

/-- R338, R345, R347, R252, R255, R267, R350, R360, R369, R370: The network and its recovery, the supervisor core and the hosts' memory. -/
def Obligations.NetworkAndSupervisorSteps : Prop := Claims.NetworkSteps ∧ Claims.SupervisorSteps

/-- R263, R264, R354 to R357, R361, R362, R365, R368, R371, R372: the register block of a partition and what it starts. A write sets a register's
writable bits and leaves a read-only one alone, and a read gives them; the mailbox window keeps what is written; OTINV and SCRUB read bit 63 set until they are done, and a scrubbed range of a slice that is still the partition's is zero; CORERST resets an idle
core of the partition and answers 1 for another's and 2 for a busy one; the debug commands attach, detach, stop, resume and step, and a stop completes once every result is written; a stack takes the state that its
requests select, one step lower for each clamp. That busy registers ignore writes and CORERST is done within its write (log 38), that clamp steps add to the requested state up to 7 (log 63), the state of a stack with no requests (log 39), the place of the mailbox windows (log 43) and how long the clamp's condition must have stayed (log 56) are the
model's choice. -/
def Obligations.RegisterBlock : Prop :=
  ∀ (p : Nat) (v : BitVec 64) (s : State), let P := s.part p
    ((∃ t, exec (.registerWrite p 0x0008 v) s = .next t ∧ (t.part p).pctl = v &&& 0xC1)
      ∧ (∃ t, exec (.registerWrite p 0x0010 v) s = .next t ∧ (t.part p).pasidr = if P.pctl.getLsbD 0 then P.pasidr else v &&& 0xFFFFF)
      ∧ (∃ t, exec (.registerWrite p 0x0060 v) s = .next t ∧ (t.part p).cthbase = v &&& ~~~ (0x7F : BitVec 64))
      ∧ (∃ t, exec (.registerWrite p 0x0058 v) s = .next t ∧ (t.part p).cnt = v)
      ∧ (∀ off, (off = 0 ∨ off = 0x18 ∨ off = 0x20 ∨ off = 0x28 ∨ off = 0x30 ∨ off = 0x80 ∨ off = 0x88 ∨ off = 0x90 ∨ off = 0xA8 ∨ off = 0xB8) →
          exec (.registerWrite p off v) s = .next s)
      ∧ ∀ off x, (off = 0 ∧ x = 0x00010000 ∨ off = 8 ∧ x = P.pctl ∨ off = 0x18 ∧ x = P.cores.zeroExtend 64 ∨ off = 0x58 ∧ x = P.cnt
            ∨ off = 0x78 ∧ x = P.eqhead ++ P.eqtail ∨ off = 0x90 ∧ x = P.ecc ∨ off = 0xB8 ∧ x = P.dbgstat) →
          moveStep exec (.regRead p off) s = .next { s with hostReg := x })
    ∧ (∀ off, p < 16 → 0x1000 ≤ off → off + 8 ≤ 0x10000 → Memory.wf s.pkg.fwMem = true → ∃ t u, exec (.registerWrite p off v) s = .next t
        ∧ moveStep exec (.regRead p off) t = .next u ∧ u.hostReg = v)
    ∧ (P.otinv.getLsbD 63 = false → ∃ t, exec (.otinv p v) s = .next t ∧ (t.part p).otinv.getLsbD 63 = v.getLsbD 63
        ∧ (v.getLsbD 63 = true → ∀ e ∈ (t.part p).entryCache, e.1 ≠ v.toNat % 2 ^ 24))
    ∧ (P.otinv.getLsbD 63 = true → ∃ t, exec (.otinvDone p) s = .next t ∧ (t.part p).otinv.getLsbD 63 = false)
    ∧ (P.scrub.getLsbD 63 = false → P.slices.getLsbD (v.toNat % 256) = true → ∃ t, exec (.scrub p v) s = .next t ∧ (t.part p).scrub = v)
    ∧ (P.scrub.getLsbD 63 = true → s.memOk = true → ∃ t, exec (.scrubDone p) s = .next t ∧ (t.part p).scrub = P.scrub &&& ~~~ (0x8000000000000000 : BitVec 64)
        ∧ (P.slices.getLsbD (P.scrub.toNat % 256) = false → t.mem = s.mem)
        ∧ (P.slices.getLsbD (P.scrub.toNat % 256) = true → ∀ a, let x := P.scrub.toNat
            let first := devAddr (x % 256) (128 * bitsOf x 39 8)
            let n := min (128 * bitsOf x 62 40) (sliceBytes - 128 * bitsOf x 39 8)
            cellGet t.mem a = if first ≤ a ∧ a < first + n then 0 else cellGet s.mem a))
    ∧ (∃ t, exec (.psreqWrite p v) s = .next t ∧ (t.part p).psreq = v &&& 0x7777)
    ∧ (P.loading = false → ∃ t, exec (.fwload p v) s = .next t ∧ (t.part p).loading = true ∧ (t.part p).fwload = v &&& 0x0000FFFFFFFFFF8F)
    ∧ (v.getLsbD 63 = true → let core := v.toNat % 64
        (P.cores.getLsbD core = false → ∃ t, exec (.corerst p v) s = .next t ∧ (t.part p).corerst = BitVec.ofNat 64 (core + 2 ^ 61))
        ∧ (P.cores.getLsbD core = true → coreBusy s core = true → ∃ t, exec (.corerst p v) s = .next t ∧ (t.part p).corerst = BitVec.ofNat 64 (core + 2 ^ 62))
        ∧ (P.cores.getLsbD core = true → coreBusy s core = false → ∃ t, exec (.corerst p v) s = .next t ∧ (t.part p).corerst = BitVec.ofNat 64 core
            ∧ t.core core = Core.reset.runImage P.supImage))
    ∧ (∀ core slot k, core < 48 → slot < 16 → P.dbgstat.getLsbD 0 = false →
        (P.cores.getLsbD core = false → ∃ t, exec (.dbgAttach p core slot) s = .next t ∧ (t.part p).dbgstat = 2)
        ∧ (P.cores.getLsbD core = true → s.crew? core slot = none → ∃ t, exec (.dbgStop p core slot) s = .next t ∧ (t.part p).dbgstat = 4)
        ∧ (P.cores.getLsbD core = true → s.crew? core slot = some k →
          (∃ t k', exec (.dbgAttach p core slot) s = .next t ∧ t.crew? core slot = some k' ∧ k' = { k with attached := true } ∧ (t.part p).dbgstat = 0)
          ∧ (∃ t k', exec (.dbgDetach p core slot) s = .next t ∧ t.crew? core slot = some k' ∧ k' = { k with attached := false } ∧ (t.part p).dbgstat = 0)
          ∧ (∃ t k', exec (.dbgStop p core slot) s = .next t ∧ t.crew? core slot = some k' ∧ (t.part p).dbgstat = 1
              ∧ ∀ i g, i < 16 → getAt none k.groups i = some g → g.halt = .running → ∃ y, getAt none k'.groups i = some y ∧ y.halt = .debug ∧ y.regs = g.regs ∧ y.pc = g.pc
                ∧ ∀ r, g.wait = .page r → y.wait = .none)
          ∧ (∀ i g, i < 16 → getAt none k.groups i = some g → g.halt = .running → ∃ t k' y, exec (.dbgStopGroup p core slot i) s = .next t
              ∧ t.crew? core slot = some k' ∧ getAt none k'.groups i = some y ∧ y.halt = .debug ∧ y.pc = g.pc
              ∧ ∀ j h, j < 16 → j ≠ i → getAt none k.groups j = some h → h.state = .normal → h.wait.trapping = false → h.halt = .running →
                getAt none k'.groups j = some { h with halt := .halted 0 (h.wait != .none), tskid := 0 })
          ∧ (∃ t k', exec (.dbgResume p core slot) s = .next t ∧ t.crew? core slot = some k' ∧ (t.part p).dbgstat = 0
              ∧ ∀ i g, i < 16 → getAt none k.groups i = some g → g.halt = .debug → ∃ y, getAt none k'.groups i = some y ∧ y.pc = g.pc
                ∧ y.halt = if g.handling = false ∧ (∃ y ∈ k.members, y.2.handling = true) then .halted 0 true else .running)
          ∧ (∀ i g, i < 16 → getAt none k.groups i = some g → g.halt = .debug → ∃ t k', exec (.dbgStep p core slot i) s = .next t
              ∧ t.crew? core slot = some k' ∧ getAt none k'.groups i = some { g with sstep := true, halt := .running } ∧ (t.part p).dbgstat = 0)))
    ∧ (∀ core slot gs, P.debugWait = some (core, slot, gs) → (∀ i ∈ gs, ∀ g, s.group? ⟨core, slot, i⟩ = some g → g.outst = []) →
        ∃ t, exec (.debugStopComplete p) s = .next t ∧ (t.part p).dbgstat = 0 ∧ (t.part p).debugWait = none
          ∧ ∀ i ∈ gs, ∀ g, s.group? ⟨core, slot, i⟩ = some g → t.group? ⟨core, slot, i⟩ = some g.drain)
    ∧ (∀ k, k < 4 →
        ((s.die k).pstate ≠ min 7 (wantedState s k + (s.die k).clamp) → ∃ t, exec (.perfStateChange k) s = .next t
          ∧ (t.die k).pstate = min 7 (wantedState s k + (s.die k).clamp))
        ∧ ∀ (die : Option Nat) (u : Nat), let d := s.die k
          let exceeds := fun (x : Option Nat × Nat) => match x.1 with | some i => thermalLimit d i < x.2 | none => d.current < x.2
          let holds := fun (x : Option Nat × Nat) => match x.1 with | some i => x.2 + 5 ≤ thermalLimit d i | none => x.2 * 100 ≤ d.current * 95
          (exceeds (die, u) → d.pstate < 7 → (d.clamp = 0 ∨ d.clampAt + 1200 ≤ s.gt) → ∃ t e,
            exec (.clampRaise k die u) s = .next t ∧ (t.die k).pstate = d.pstate + 1 ∧ (t.die k).clamp = d.clamp + 1 ∧ (die, u) ∈ (t.die k).causes
              ∧ t.pkg.events = s.pkg.events ++ [e])
          ∧ (∀ since v, (die, v) ∈ d.causes → (∀ x ∈ d.causes, holds (if x.1 = die then (die, u) else x)) → d.coolSince = some since →
            since + 1200000 ≤ s.gt → d.clamp ≠ 0 → d.clampAt + 1200000 ≤ s.gt → ∃ t e,
            exec (.clampReturn k die u) s = .next t ∧ (t.die k).clamp = d.clamp - 1 ∧ t.pkg.events = s.pkg.events ++ [e])
          ∧ ((∃ x ∈ d.causes, ¬ holds (if x.1 = die then (die, u) else x)) → (∃ e, exec (.clampReturn k die u) s = .refused e)
            ∧ ∃ t, moveStep exec (.sensor k die u) s = .next t ∧ (t.die k).coolSince = none))

/-- R341, R352, R353, R363, R364, R366 to R368, R370, R373: the management endpoint. A command that changes bindings, way masks, keys, limits or T changes nothing but
the answer without an authenticated session; in one it has its effect where its conditions hold. A reassignment takes slices and cores from the giver, and after the lease
wait gives them, cleared, to the taker. A firmware load ends with event kind 12 and its status, and an accepted image runs. Power-on reset keeps the key slots and the fused versions. The
encodings of keys and signatures in an image are presumed (log 16); the places of an image's fields (log 40), what BIND and REBIND refuse (log 41), what a power-on reset keeps (log 42) and that REBIND waits
for accesses, jobs and a scrub under way (log 53) are the model's choice. -/
def Obligations.Management : Prop :=
  ∀ (s : State),
    (s.pkg.authentic = false → ∀ i : Instr, (∃ n, i = .nett n) ∨ (∃ k c, i = .pscap k c) ∨ (∃ k t c, i = .clamp k t c) ∨ (∃ g p m, i = .ways g p m)
        ∨ (∃ n v, i = .svn n v) ∨ (∃ n o, i = .revoke n o) ∨ (∃ a b c d e f g, i = .bind a b c d e f g) ∨ (∃ a b c d, i = .rebind a b c d) →
        exec i s = .next { s with pkg := { s.pkg with reply := false } })
    ∧ (∀ d, exec (.spdmSession true d) s = .next { s with pkg := { s.pkg with session := some d, reply := true } }
        ∧ exec (.spdmSession false d) s = .next { s with pkg := { s.pkg with session := none, reply := true } })
    ∧ (s.pkg.authentic = true →
      (∀ i, i ≤ 8 → ∃ t, exec (.nett (256 * 2 ^ i)) s = .next t ∧ t.net.timeout = 256 * 2 ^ i)
      ∧ (∀ k c, k < 4 → c < 8 → ∃ t, exec (.pscap k c) s = .next t ∧ (t.die k).pscap = c)
      ∧ (∀ k a b c, k < 4 → 60 ≤ a → a ≤ 110 → 60 ≤ b → b ≤ 110 → ∃ t, exec (.clamp k [a, b] c) s = .next t ∧ (t.die k).thermal = [a, b] ∧ (t.die k).current = c)
      ∧ (∀ g p m, g < 12 → p < 16 → waysFree s g p m = true → ∃ t, exec (.ways g p m) s = .next t ∧ getAt 0 (getAt Gateway.reset t.gateways g).ways p = m)
      ∧ (∀ n v, n = 1 ∨ n = 2 → ∃ t, exec (.svn n v) s = .next t ∧ getAt 0 t.pkg.minVersion n = max (getAt 0 s.pkg.minVersion n) v)
      ∧ (∀ n k, n < 4 → k < 4 → s.pkg.roleSlot 1 k = true → (∃ t, exec (.revoke n (some k)) s = .next t ∧ (t.pkg.slot n).revoked = true)
        ∧ ∀ e l r, ∃ t, exec (.enroll n e l r (some k)) s = .next t ∧ (t.pkg.slot n).ec = e ∧ (t.pkg.slot n).lms = l ∧ (t.pkg.slot n).role = r)
      ∧ (∀ p port f cs sl (ws : List (BitVec 16)) hv, p < 16 → port < 2 → (s.part p).bound = false → cs ≠ 0 → sl ≠ 0 → s.pkg.rebind = none →
          (∀ q, q < 16 → q ≠ p → (s.part q).cores &&& cs = 0 ∧ (s.part q).slices &&& sl = 0 ∧ (hv = true → (s.part q).hypervisor = false)) →
          ws.length ≤ 12 → (∀ g w, ws[g]? = some w → waysFree s g p w = true) → ∃ t, exec (.bind p port f cs sl ws hv) s = .next t
            ∧ (t.part p).bound = true ∧ (t.part p).cores = cs ∧ (t.part p).slices = sl ∧ (t.part p).pctl = 0 ∧ (t.part p).hypervisor = hv
            ∧ ∀ g w, ws[g]? = some w → getAt 0 (getAt Gateway.reset t.gateways g).ways p = w)
      ∧ (∀ g k cs sl, g < 16 → k < 16 → g ≠ k → (s.part g).bound = true → (s.part k).bound = true → s.pkg.rebind = none → ¬ (cs = 0 ∧ sl = 0) →
          cs &&& ~~~ (s.part g).cores = 0 → sl &&& ~~~ (s.part g).slices = 0 → (s.part g).slices &&& ~~~ sl ≠ 0 → (s.part g).cores &&& ~~~ cs ≠ 0 →
          (∀ c, c < 48 → cs.getLsbD c = true → coreBusy s c = false) → slicesBusy s cs sl = false → jobsBusy s cs = false → scrubBusy (s.part g) sl = false →
          ∃ t, exec (.rebind g k cs sl) s = .next t
            ∧ (t.part g).slices = (s.part g).slices &&& ~~~ sl ∧ (t.part g).cores = (s.part g).cores &&& ~~~ cs
            ∧ t.pkg.rebind = some ⟨g, k, cs, sl, s.gt⟩ ∧ ∀ l ∈ t.hostCopies, l ∈ s.hostCopies ∧ inSlices sl l = false))
    ∧ (∀ r, s.pkg.rebind = some r →
        (s.gt < r.since + 65541 → ∃ e, exec .rebindComplete s = .refused e)
        ∧ (r.since + 65541 ≤ s.gt → slicesBusy s r.cores r.slices = false → ∃ t, exec .rebindComplete s = .next t
          ∧ t.pkg.rebind = none ∧ (t.part r.taker).slices = (s.part r.taker).slices ||| r.slices ∧ (t.part r.taker).cores = (s.part r.taker).cores ||| r.cores
          ∧ (∀ c, c < 48 → r.cores.getLsbD c = true → t.core c = Core.reset.runImage none)
          ∧ (2 ^ (6 + min 10 ((s.part r.taker).eqbase.toNat % 16)) ≤ ((s.part r.taker).eqtail - (s.part r.taker).eqhead).toNat →
            ∀ a, cellGet t.mem a = if inSlices r.slices (lineOf a) then 0 else cellGet s.mem a)))
    ∧ (∀ n e l r, n < 4 → (∀ k, k < 4 → (s.pkg.slot k).used = false) → s.pkg.session ≠ none → r.getLsbD 1 = true → ∃ t, exec (.enroll n e l r none) s = .next t
        ∧ (t.pkg.slot n).ec = e ∧ (t.pkg.slot n).lms = l ∧ (t.pkg.slot n).role = r ∧ (t.pkg.slot n).used = true)
    ∧ (∀ p, (s.part p).loading = true → let P := s.part p
        let h := P.fwload.toNat / 128 * 128
        let x := fwHeader s P h
        let target := P.fwload.toNat % 16
        let keys := h + 128 + x.size
        let status :=
          if ¬ (x.magic = 0x4146574C ∧ x.type = target ∧ (target = 1 ∨ target = 2) ∧ x.entry < x.size ∧ x.load + x.size ≤ fwMemBytes
            ∧ keys + trailBytes ≤ P.hdmSize) then 1
          else if signaturesVerify (hdmBytes s P h (128 + x.size)) (hdmBytes s P keys trailBytes) = false then 2
          else if ([0, 1, 2, 3].any fun n => s.pkg.roleSlot 0 n && (s.pkg.slot n).ec = keyDigest (hdmBytes s P keys ecKeyBytes)
            && (s.pkg.slot n).lms = keyDigest (hdmBytes s P (keys + ecKeyBytes) lmsKeyBytes)) = false then 3
          else if x.version < getAt 0 s.pkg.minVersion target then 4
          else if target = 1 ∧ P.hypervisor = false then 5 else 0
        ∃ u : State, exec (.fwloadResult p) s = .next (u.postEvent p { kind := 12, info := status }) ∧ (u.part p).loading = false
          ∧ (status ≠ 0 → u.pkg = s.pkg ∧ u.cores = s.cores)
          ∧ (status = 0 → Memory.wf s.pkg.fwMem = true → cellsRead u.pkg.fwMem x.load x.size = hdmBytes s P (h + 128) x.size)
          ∧ (status = 0 → target = 1 → u.pkg.fwImage = some x.entry ∧ u.pkg.awaiting = false)
          ∧ (status = 0 → target = 2 → ∀ c, c < 48 → P.cores.getLsbD c = true → (u.core c).supRunning = true ∧ (u.core c).supEntry = x.entry
            ∧ ∀ e ∈ (s.core c).escTaken, (∃ g, s.group? (e.gid c) = some g ∧ ∃ l, g.wait = .esc l) → e ∈ (u.core c).escQueue))
    ∧ (∀ o line, (∃ t, exec (.eccError o line true) s = .next t ∧ line ∈ t.poison ∧ t.mem = s.mem)
        ∧ (o < 16 → (s.part o).bound = true → ∃ t, exec (.eccError o line false) s = .next t ∧ (t.part o).ecc = (s.part o).ecc + 1 ∧ t.mem = s.mem)
        ∧ (16 ≤ o ∨ (s.part o).bound = false → ∃ t, exec (.eccError o line false) s = .next t ∧ t.pkg.eccCount = s.pkg.eccCount + 1 ∧ t.mem = s.mem))
    ∧ ∃ t, exec .powerOnReset s = .next t ∧ t.gt = 0 ∧ t.cores = State.reset.cores ∧ t.parts = State.reset.parts ∧ t.launches = []
        ∧ t.pkg.slots = s.pkg.slots ∧ t.pkg.minVersion = s.pkg.minVersion
        ∧ ∀ a, a < hostBase → cellGet t.mem a = 0

/-! ### The whole machine -/

/-- R20, R24, R341, R354, R355, R373: after reset GT is 0, every bank of every core is in cache mode and unpinned, no crew is resident, no launch is
accepted, every register of a partition's block is 0, T is 2,048 and the package awaits firmware. That no byte of memory
is listed, so that each reads 0, is the model's choice (log 3). -/
def Obligations.ResetState : Prop :=
  let s := State.reset
  s.gt = 0 ∧ s.launches = [] ∧ (∀ a, cellGet s.mem a = 0) ∧ s.net.timeout = 2048 ∧ s.pkg.awaiting = true
    ∧ (∀ c b, ((s.core c).bank b).mode = .cache ∧ ((s.core c).bank b).pinned = false) ∧ (∀ g, s.group? g = none)
    ∧ ∀ p, let x := s.part p
      x.pctl = 0 ∧ x.pasidr = 0 ∧ x.otbase = 0 ∧ x.otsize = 0 ∧ x.otinv = 0 ∧ x.cnt = 0 ∧ x.cthbase = 0 ∧ x.cthsize = 0 ∧ x.eqbase = 0
        ∧ x.eqtail = 0 ∧ x.eqhead = 0 ∧ x.eqlost = 0 ∧ x.sprc = 0 ∧ x.ecc = 0 ∧ x.scrub = 0 ∧ x.psreq = 0 ∧ x.dbgcmd = 0 ∧ x.dbgstat = 0
        ∧ x.fwload = 0 ∧ x.corerst = 0

/-- R30, R32: the activity mask stands in s60 to s63, bit j of s(60 + n) being lane 32n + j; it starts as the complement of XM; a write of one of them sets
those lanes to the value AND NOT XM; and no lane whose bit is 0 is among those an instruction acts on. -/
def Obligations.ActivityMask : Prop :=
  (∀ (r : Regs) (n j : Nat) (w : Word), n < 4 → j < 32 →
    (r.readS (60 + n)).getLsbD j = r.act.getLsbD (32 * n + j)
    ∧ (r.writeS (60 + n) w).act.getLsbD (32 * n + j) = (w.getLsbD j && !r.xm.getLsbD (32 * n + j))
    ∧ (∀ m, m < 4 → m ≠ n → (r.writeS (60 + n) w).act.getLsbD (32 * m + j) = (r.act.getLsbD (32 * m + j) && !r.xm.getLsbD (32 * m + j)))
    ∧ (r.writeS (60 + n) w).xm = r.xm)
  ∧ (∀ l i j n r m, (startGroup l i j n r m).regs.act = ~~~ (startGroup l i j n r m).regs.xm)
  ∧ ∀ (s : State) (x : Group) (l : Nat), x.regs.act.getLsbD l = false → (effMask s x).getLsbD l = false

/-- R83, R84, R87, R142: when a fixed-latency result can be read. A result of a class with minimum 0 is in its register at once; one with minimum n is there
from the issue position on that lies n + 1 after its own, and until then a read gives what the register held. Only the
lanes written change. -/
def Obligations.ResultTiming : Prop :=
  ∀ (x : Group) (min n : Nat) (w : Word) (m : Mask) (vs : List Word) (r l : Nat), x.pend = [] →
    (n < 60 → let y := x.result min (codeS n) (.scal w)
      (min = 0 → y.regs.readS n = w ∧ ∀ k, k < 60 → k ≠ n → y.regs.readS k = x.regs.readS k)
      ∧ (0 < min → y.regs = x.regs ∧ ∀ pos, ({ y with pos := pos }.settle).regs.readS n = if x.pos + 1 + min ≤ pos then w else x.regs.readS n))
    ∧ (r < 128 → l < 128 → let y := x.result min r (.vec m vs)
      (min = 0 → (y.regs.readV r l = if m.getLsbD l then laneGet vs l else x.regs.readV r l) ∧ ∀ k, k ≠ r → y.regs.readV k l = x.regs.readV k l)
      ∧ (0 < min → y.regs = x.regs ∧ ∀ pos, ({ y with pos := pos }.settle).regs.readV r l
          = if x.pos + 1 + min ≤ pos ∧ m.getLsbD l = true then laneGet vs l else x.regs.readV r l))

/-- R35, R83, R117: what the retirement of an instruction changes. The group goes on with the given registers, its counter at the given offset, its issue position
S + 1 further, waiting for nothing, and the prefix is used up; every other group, every other field of its crew, of every core and of the machine is unchanged: launches, loads, writes,
atomics, multicast messages and records, partitions, gateways, host pages, poison and all of memory. -/
def Obligations.Retirement : Prop :=
  ∀ (s : State) (q : Desc) (x : Group) (pc : Word) (k : Crew), s.crew? s.cur.core s.cur.slot = some k →
    let t := finishAt s q x pc
    (∃ y, t.group? s.cur = some y ∧ y.pc = pc ∧ y.regs = x.regs ∧ y.pos = x.pos + q.st + 1 ∧ y.pend = x.pend ∧ y.outst = x.outst ∧ y.stack = x.stack
      ∧ y.state = x.state ∧ y.tcause = x.tcause ∧ y.tpc = x.tpc ∧ y.tval = x.tval ∧ y.buf = x.buf ∧ y.usc = x.usc ∧ y.wait = .none ∧ y.halt = x.halt
      ∧ t = { s.setCrew s.cur.core s.cur.slot (some (k.setGroup s.cur.grp (some y))) with pfx := none })
    ∧ (∀ g, g ≠ s.cur → t.group? g = s.group? g)
    ∧ (∀ c, (t.core c).acc = (s.core c).acc ∧ (t.core c).sram = (s.core c).sram ∧ (t.core c).jobs = (s.core c).jobs ∧ (t.core c).mats = (s.core c).mats
        ∧ ({ t.core c with crews := [] } : Core) = { s.core c with crews := [] }
        ∧ ∀ n, (c ≠ s.cur.core ∨ n ≠ s.cur.slot) → t.crew? c n = s.crew? c n)
    ∧ t.mem = s.mem ∧ t.gt = s.gt ∧ t.launches = s.launches ∧ t.parts = s.parts ∧ t.loads = s.loads ∧ t.writes = s.writes ∧ t.recs = s.recs
    ∧ t.atoms = s.atoms ∧ t.casts = s.casts ∧ t.poison = s.poison ∧ t.gateways = s.gateways ∧ t.hostPages = s.hostPages
    ∧ t.net = s.net ∧ t.pkg = s.pkg

/-- The instructions that act on their group's registers alone. -/
def registersOnly : Instr → Bool
  | .nop _ | .bra _ _ | .call _ _ | .ret _ | .jmpi _ _ _ _ | .brnz _ _ _ | .brz _ _ _ | .ssy _ _ | .brp _ _ _ | .brpn _ _ _ | .loop _ _ _
  | .setmw _ _ | .getmw _ _ | .chain _ _ | .trap _ _ | .brkpt _ _ | .gtime _ _ | .waitgt _ _ _
  | .sadd _ _ _ _ _ | .ssub _ _ _ _ _ | .smul _ _ _ _ _ | .smulh _ _ _ _ _ | .sand _ _ _ _ | .sor _ _ _ _ | .sxor _ _ _ _ | .sshl _ _ _ _
  | .sshr _ _ _ _ | .ssra _ _ _ _ | .smin _ _ _ _ _ | .smax _ _ _ _ _ | .scmp _ _ _ _ _ | .ssel _ _ _ _ | .saddi _ _ _ _ | .smovi _ _ _
  | .smovh _ _ _ | .sbits _ _ _ _ | .sdiv _ _ _ _ _ | .s2v _ _ _ | .v2s _ _ _ _ => true
  | .vadd _ _ _ _ | .vsub _ _ _ _ | .vmul _ _ _ _ | .vmulh _ _ _ _ | .vmad _ _ _ _ | .vand _ _ _ _ | .vor _ _ _ _ | .vxor _ _ _ _ | .vshl _ _ _ _
  | .vshr _ _ _ _ | .vsra _ _ _ _ | .vmin _ _ _ _ | .vmax _ _ _ _ | .vabsd _ _ _ _ | .vaddi _ _ _ _ | .vmovi _ _ _ | .vbits _ _ _ _
  | .vaddc _ _ _ _ | .vsubb _ _ _ _ | .vcmp _ _ _ _ _ | .vcmpx _ _ _ _ _ | .vsel _ _ _ _ | .vmov _ _ _ | .plog _ _ _ _ _ | .pset _ _ _ _
  | .pget _ _ _ | .ballot _ _ _ | .pfrom _ _ _ _ _ | .shfl _ _ _ _ | .shflx _ _ _ _ | .bcast _ _ _ _ | .vred _ _ _ _ | .vscan _ _ _ _ _
  | .laneid _ _ | .rng _ _ => true
  | .fadd _ _ _ _ | .fsub _ _ _ _ | .fmul _ _ _ _ | .ffma _ _ _ _ | .fmin _ _ _ _ | .fmax _ _ _ _ | .fabs _ _ _ | .fneg _ _ _ | .fcmp _ _ _ _ _
  | .fcmpx _ _ _ _ _ | .fclass _ _ _ | .frnd _ _ _ | .fdiv _ _ _ _ | .fsqrt _ _ _ | .fspec _ _ _ _ | .cvt _ _ _ _ _ | .rqnt _ _ _
  | .dot4 _ _ _ _ | .dot8 _ _ _ _ | .dot2 _ _ _ _ | .pack _ _ _ _ | .unpk _ _ _ _ => true
  | .setq _ _ | .getq _ _ | .maddq _ _ _ _ | .msubq _ _ _ _ | .mnegq _ _ _ | .mmulq _ _ _ _ | .mmuls _ _ _ _ | .mfmaq _ _ _ _ | .mredq _ _ _
  | .mctrq _ _ _ | .bfly _ _ _ _ _ _ | .pbf _ _ _ _ | .pbrev _ _ _ _ | .prot _ _ _ _ _ _ | .mulw _ _ _ _ | .mshoup _ _ _ => true
  | .mlay _ _ _ | .mlayGet _ _ _ | .mgang _ _ | .mgangGet _ _ | .mrel _ | .capinfo _ _ _ => true
  | _ => false

/-- R34, R36, R122, R245: the frame of the instructions that act on registers: whether they retire, wait or trap, every byte of memory, scratchpad and accumulator, every
launch, partition, message and job, and every group of another crew is unchanged; GT and the network are unchanged. -/
def Obligations.RegisterFrame : Prop :=
  ∀ (i : Instr) (s t : State), registersOnly i = true → exec i s = .next t →
    (∀ a, cellGet t.mem a = cellGet s.mem a) ∧ t.poison = s.poison ∧ t.gt = s.gt ∧ t.launches = s.launches ∧ t.parts = s.parts ∧ t.loads = s.loads
      ∧ t.writes = s.writes ∧ t.atoms = s.atoms ∧ t.recs = s.recs ∧ t.casts = s.casts ∧ t.net = s.net ∧ t.pkg = s.pkg ∧ t.gateways = s.gateways
      ∧ (∀ c, (t.core c).acc = (s.core c).acc ∧ (t.core c).sram = (s.core c).sram ∧ (t.core c).cache = (s.core c).cache ∧ (t.core c).banks = (s.core c).banks
          ∧ (t.core c).tables = (s.core c).tables ∧ (t.core c).jobs = (s.core c).jobs ∧ (t.core c).mats = (s.core c).mats ∧ (t.core c).dormers = (s.core c).dormers)
      ∧ ∀ g, (g.core ≠ s.cur.core ∨ g.slot ≠ s.cur.slot) → t.group? g = s.group? g

/-- R35, R16, R79, R80, R97, R103, R124: one step that is a group's issue turn runs the instruction that its word decodes to. The group can issue, owes no single step, and its
counter is aligned; where the word is a prefix, the base word after it runs in the same turn. A word that no opcode has traps
with cause 0x01, one with a reserved field with 0x02, and a fetch beyond the code with 0x08. Of the state before it, a fetch changes
the core's instruction cache alone. -/
def Obligations.StepRunsDecoded : Prop :=
  ∀ (s : State) (g : Gid) (rest : List Move) (k : Crew) (x : Group),
    s.agenda = .issue g :: rest → s.crew? g.core g.slot = some k → s.group? g = some x → canIssue x = true → x.windowed = [] →
    x.stepOwed = none → x.pc.toNat % 4 = 0 →
    let u0 := { s with agenda := rest, cur := g, pfx := none }
    let u := u0.fetched x x.pc
    let settled := fun (t : State) => ∀ y, t.group? g = some y → ∀ a b c, y.wait ≠ .pageIndex a b c
    (∀ w i, codeWord? s k.part x.codeBase x.codeSize x.pc = some w → decode w = .ok i →
      (∀ t, exec i u = .next t → t.pfx = none → settled t → step s = .next t)
      ∧ (∀ t w2 j t2, exec i u = .next t → t.pfx ≠ none → codeWord? t k.part x.codeBase x.codeSize (x.pc + 4) = some w2 → decode w2 = .ok j →
          t.crew? g.core g.slot = some k → t.cur = g → exec j (t.fetched x (x.pc + 4)) = .next t2 → settled t2 → step s = .next t2)
      ∧ (∀ f, exec i u = .fault f → step s = .fault f) ∧ (∀ r, exec i u = .refused r → step s = .refused r))
    ∧ (codeWord? s k.part x.codeBase x.codeSize x.pc = none → settled (takeTrap u0 0x08 x.pc) → step s = .next (takeTrap u0 0x08 x.pc))
    ∧ { u with cores := [] } = { u0 with cores := [] } ∧ (∀ c, { u.core c with icache := [] } = { u0.core c with icache := [] })
    ∧ (∀ w, codeWord? s k.part x.codeBase x.codeSize x.pc = some w → opMnemonic (opOf w) = none → settled (takeTrap u 0x01 w) →
        step s = .next (takeTrap u 0x01 w))
    ∧ (∀ w n, codeWord? s k.part x.codeBase x.codeSize x.pc = some w → decode w = .error (.reserved n) → opOf w ≠ 0xFE → settled (takeTrap u 0x02 w) →
        step s = .next (takeTrap u 0x02 w))

/-- Log 1, R24: the model's schedule. A move of the agenda is made first; an event is the step of its instruction, or nothing where its agent cannot take it; a tick of n advances GT by n,
or to the time at which a WAITM has to read again where that comes first (R207). -/
def Obligations.Schedule : Prop :=
  ∀ (s : State) (rest : List Move),
    (∀ n, s.agenda = .tick n :: rest → ∃ t m, step s = .next t ∧ m ≤ n ∧ t.gt = s.gt + m ∧ t.mem = s.mem ∧ t.agenda = rest
      ∧ ((∀ g x, s.group? g = some x → x.waitms = []) → m = n))
    ∧ (∀ i t, s.agenda = .event i :: rest → exec i { s with agenda := rest } = .next t → step s = .next t)
    ∧ (∀ i n, s.agenda = .event i :: rest → exec i { s with agenda := rest } = .refused (.notEnabled n) → step s = .next { s with agenda := rest })
    ∧ (∀ a b, s.agenda = .hostByte a b :: rest → s.memOk = true → ∃ t, step s = .next t ∧ cellGet t.mem (hostBase + a) = b
        ∧ ∀ c, c ≠ hostBase + a → cellGet t.mem c = cellGet s.mem c)

/-- R94: a prefix is accepted in front of opcodes 0x40–0x62, 0x80–0x98, 0xA0–0xAF and 0xB0–0xB3, where it only joins the base word when no field of the pair
is reserved, and before no other opcode: there the pair traps with cause 0x01 and the base word, and no base word is run. -/
def Obligations.PrefixAccepted : Prop :=
  ∀ (n z : BitVec 1) (t : BitVec 4) (s : State) (g : Group) (b : Word), s.group? s.cur = some g → fetchWord s s.cur g (g.pc + 4) = some b →
    let op := (b.extractLsb' 21 8).toNat
    let accepted := (0x40 ≤ op ∧ op ≤ 0x62) ∨ (0x80 ≤ op ∧ op ≤ 0x98) ∨ (0xA0 ≤ op ∧ op ≤ 0xAF) ∨ (0xB0 ≤ op ∧ op ≤ 0xB3)
    (accepted → (z = 1 → op ≠ 0x5F) → ∃ u v, exec (.pfx 31 n z 0 t 0) s = .next u ∧ u.pfx = some v)
    ∧ (¬ accepted → ∃ u, exec (.pfx 31 n z 0 t 0) s = .next u ∧ u.pfx = none ∧ u = takeTrap s 0x01 b)

/-- R357: core trap handler code is fetched from CTHBASE, within CTHSIZE. A trap that goes to the core handler, of a group with no result outstanding and no other trap
standing (R245, R86), enters it at offset 0 with the base and size that the two registers hold then; every fetch of a group in the handler is at its own base, and one at or beyond its own size finds no
word; and a write of either register leaves every group as it was. -/
def Obligations.CoreHandlerCode : Prop :=
  (∀ (s : State) (x : Group) (k : Crew) (cause : Nat) (v : Word), s.group? s.cur = some x → s.crew? s.cur.core s.cur.slot = some k → x.outst = [] →
    Claims.NoTrap x.wait → x.state ≠ .core → (x.state = .user ∨ cause ∈ [0x10, 0x11, 0x30, 0x31, 0x50, 0x51]) → ∃ y, (takeTrap s cause v).group? s.cur = some y ∧ y.state = .core ∧ y.pc = 0
      ∧ y.codeBase = (s.part k.part).cthbase.toNat ∧ y.codeSize = (s.part k.part).cthsize.toNat)
  ∧ (∀ (s : State) (g : Gid) (x : Group) (k : Crew) (off : Word), s.crew? g.core g.slot = some k →
      fetchWord s g x off = if off.toNat < x.codeSize then some (BitVec.ofNat 32 (hdmNat s (s.part k.part) (x.codeBase + off.toNat) 4)) else none)
  ∧ ∀ (s : State) (p : Nat) (v : BitVec 64) (g : Gid),
      (∃ t, exec (.registerWrite p 0x60 v) s = .next t ∧ (t.part p).cthbase = v &&& ~~~ (0x7F : BitVec 64) ∧ t.group? g = s.group? g)
      ∧ (∃ t, exec (.registerWrite p 0x68 v) s = .next t ∧ (t.part p).cthsize = v &&& ~~~ (0x3 : BitVec 64) ∧ t.group? g = s.group? g)

/-- R79, R81, R98 to R103: the words of a few instructions of each family decode to what they stand for, and a reserved field, an unassigned opcode and a word of a
reserved value (LD with sz 7) are told apart. -/
def Obligations.DecodingExamples : Prop :=
  decode 0x00000000 = .ok (.nop 0) ∧ decode 0x16828010 = .ok (.ldu 0 5 0 16)
    ∧ decode (0b011_00100000_000101_000011_000100_000) = .ok (.sadd 3 5 3 4 0)
    ∧ decode (0b000_01000000_0000111_0000001_0000010) = .ok (.vadd 0 7 1 2)
    ∧ decode (0b111_10000011_0001000_0000001_0000010) = .ok (.ffma 7 8 1 2)
    ∧ decode (0b000_00000001_111111111111111111111) = .ok (.bra 0 0x1FFFFF)
    ∧ decode (0b000_00001100_000000000000000000000) = .ok (.exit 0)
    ∧ (∃ n, decode (0b000_00001100_000000000000000000001) = .error (.reserved n))
    ∧ (∃ n, decode (0b000_10110000_0000001_0011_0000010_111) = .error (.reserved n))
    ∧ decode 0xFFFFFFFF = .ok (.undefinedOpcode 0xFFFFFFFF)

/-- R79, R81, R98 to R102: decoding and encoding agree on every instruction that stands in code: the word of a well-formed one decodes to it, with each operand at every value
that its encoding admits, and no word that decodes loses a bit. -/
def Obligations.EncodingRoundTrip : Prop :=
  (∀ i : Instr, i.encoded = true → i.wf = true → decode (encode i) = .ok i) ∧ ∀ (w : Word) (i : Instr), decode w = .ok i → encode i = w

/-- Memory is in canonical form at reset (log 3). -/
def Obligations.ResetMemory : Prop := State.reset.memOk = true

/-- Every step keeps the canonical form of memory: addresses strictly rising, and no entry that an unlisted address reads as. -/
def Obligations.MemoryCanonical : Prop := ∀ s t : State, s.memOk = true → step s = .next t → t.memOk = true

/-- R24: no agent writes GT: every instruction and every step of the device but the power-on reset of the package leaves it as it is, and the reset makes it zero. -/
def Obligations.GlobalTime : Prop :=
  ∀ (i : Instr) (s t : State), exec i s = .next t → (i ≠ .powerOnReset → t.gt = s.gt) ∧ (i = .powerOnReset → t.gt = 0)

/-- Equal memories are equal data: two memories in canonical form that read alike at every address are the same list; a write is read back, and changes no other
address. That an unlisted address reads as 0 is the model's choice (log 3). -/
def Obligations.MemoryCells : Prop :=
  (∀ m n, Memory.wf m = true → Memory.wf n = true → (∀ a, cellGet m a = cellGet n a) → m = n)
  ∧ ∀ m a b, Memory.wf m = true → Memory.wf (cellSet m a b) = true ∧ cellGet (cellSet m a b) a = b ∧ ∀ c, c ≠ a → cellGet (cellSet m a b) c = cellGet m c

/-- R355: PCTL. It is 0 at reset and a write keeps bits 7, 6 and 0 and leaves the rest zero. While EN is 0 a kick changes nothing and a post posts no record; while SCHED is 0 no entry of a
queue is taken and a placement pass places nothing, and clearing it leaves every resident crew as it is; while PRE is 0 no page request is sent, and a Response Failure clears PRE unless it is discarded (its group cancelled or saved, or its context retired). -/
def Obligations.PartitionControl : Prop :=
  (∀ p, (State.reset.part p).pctl = 0)
  ∧ ∀ (s : State) (p : Nat), let P := s.part p
    (∀ v : BitVec 64, ∃ t, exec (.registerWrite p 8 v) s = .next t ∧ (t.part p).pctl = v &&& 0xC1)
    ∧ (P.pctl.getLsbD 0 = false → ∀ q off size v, exec (.kick p q off size v) s = .next s)
    ∧ (P.pctl.getLsbD 0 = false → ∀ (st : BitVec 3) (d a : BitVec 7) (x : Group) (k : Crew), s.crew? s.cur.core s.cur.slot = some k → k.part = p →
        acquirePending x = false → (∀ l, (laneRecord x d.toNat l).extractLsb' 19 13 = 0) →
        (let q : Desc := { word := encode (.rpost st d a 0), op := 0xE6, st := st.toNat, vtop := topOf (regsFrom d.toNat 16), reads := regsFrom d.toNat 16, masked := true }
         Ready q s x → ∃ t, exec (.rpost st d a 0) s = .next t ∧ t.recs = s.recs)
        ∧ (let q : Desc := { word := encode (.bpost st d a), op := 0xE7, st := st.toNat, vtop := topOf (a.toNat :: regsFrom d.toNat 16)
                             reads := a.toNat :: regsFrom d.toNat 16, masked := true }
           Ready q s x → ∃ t, exec (.bpost st d a) s = .next t ∧ t.parts = s.parts))
    ∧ (P.pctl.getLsbD 6 = false → placementPass s p = s ∧ ∀ q i, i ∈ [Instr.launchEntry p q, .waitCounterEntry p q, .signalCounterEntry p q, .streamAttach p q,
        .streamDetach p q, .queueCreate p q, .queueDestroy p q, .cancelEntry p q, .preEmptEntry p q] → ∃ n, exec i s = .refused (.notEnabled n))
    ∧ (P.pctl.getLsbD 6 = true → ∀ v : BitVec 64, v.getLsbD 6 = false → (∀ h z, s.group? h = some z → ∀ a b c, z.wait ≠ .pageIndex a b c) →
        ∃ t, exec (.registerWrite p 8 v) s = .next t ∧ t.cores = s.cores)
    ∧ (P.pctl.getLsbD 7 = false → ∀ g k, s.crew? g.core g.slot = some k → k.part = p → ((requestPages s g).part p).pages = P.pages)
    ∧ (∀ n pg fs, P.pages.find? (fun g => g.index = n) = some pg → pg.fate = .live → pg.ctx ∉ P.retired →
        ∃ t, exec (.pageResponse p n .responseFailure fs) s = .next t ∧ (t.part p).pctl.getLsbD 7 = false)
    ∧ (∀ n pg fs, P.pages.find? (fun g => g.index = n) = some pg → pg.fate ≠ .live ∨ pg.ctx ∈ P.retired → P.pctl.getLsbD 7 = true →
        ∃ t, exec (.pageResponse p n .responseFailure fs) s = .next t ∧ (t.part p).pctl.getLsbD 7 = true)

/-! ### The gang (R50, R274, R275) -/

/-- R50, R36, R274, R286: a gang operation, of a group whose gang register lists the groups L, itself among them. The first to issue opens its crew's
latch with its opcode, pattern, A type, B record and reuse flag and waits; a later one adds its tile and waits; a tile takes A as its registers or a
matching reuse latch hold it; the last one
hands the operation, with every tile, to the units: the latch empties and every group that has issued goes on. It is held while a tile of the operation lies in a
locked region, and takes trap 0x30 for the lowest tile whose region another context owns, which a latch that was saved and restored elsewhere may have (that it is this group which
traps is the model's reading, log 9). A group with no lane to act on enters with no
tile and no check, but while an acquire of its own waits it is held (R187, R192). One whose opcode, pattern or type differs, or whose list omits it, traps with cause 0x01; one
of another list waits until the latch empties. That a list which names a group that has retired opens the latch and waits is the model's choice (log 63). -/
def Obligations.GangOperations : Prop :=
  ∀ (i : Instr) (op pattern : Nat) (st : BitVec 3) (t : BitVec 6) (a : BitVec 7) (l : BitVec 3) (r : BitVec 1) (s : State)
      (x : Group) (k : Crew) (hit : Option (List (List Word) × Mask)),
    (i = .mma st t a l r ∧ op = 0xD2 ∧ pattern = 0 ∨ ∃ p : BitVec 4, i = .mmas st t a l r p ∧ op = 0xD3 ∧ pattern = p.toNat) →
    let e := mwEtype x.regs.mw
    (∀ rs m, hit = some (rs, m) → x.reuse = some ⟨a.toNat, e, op, pattern, rs, m⟩) →
    (hit = none → ∀ u, x.reuse = some u → ¬(u.va = a.toNat ∧ u.etype = e ∧ u.op = op ∧ u.pattern = pattern)) →
    let regs := (List.range ((if etWidth e = 8 then 2 else 4) + (if op = 0xD3 then 1 else 0))).map fun j => a.toNat + j
    let q : Desc := { word := encode i, op := op, st := st.toNat, vtop := topOf regs, types := setX, masked := true
                      reads := if hit.isSome then [] else regs }
    let m := effMask s x
    let A := hit.getD (regs.map x.regs.vreg, m)
    let mine : MatOp := ⟨op, pattern, e, getAt 0 x.regs.lay l.toNat, decide (r = 1)⟩
    let L := (List.range ((x.regs.gang.toNat / 2 ^ 24) % 8)).map fun j => (x.regs.gang.toNat / 16 ^ j) % 16
    let tiles := if m = 0 then [] else [(⟨s.cur.grp, t.toNat, a.toNat, A.1, A.2⟩ : TileIn)]
    let waits := fun (y : Gang) => ∃ s' k' z, exec i s = .next s' ∧ s'.crew? s.cur.core s.cur.slot = some k' ∧ k'.gang = some y
      ∧ s'.group? s.cur = some z ∧ z.wait = .gang ∧ z.pc = x.pc ∧ (s'.core s.cur.core).mats = (s.core s.cur.core).mats
    let hands := fun (y : Gang) => ∃ s' k' j, exec i s = .next s' ∧ s'.crew? s.cur.core s.cur.slot = some k' ∧ k'.gang = none
      ∧ (s'.core s.cur.core).mats = (s.core s.cur.core).mats ++ [j] ∧ j.kind = .mma y.op y.tiles ∧ j.started = false
      ∧ j.owners.map Prod.fst = y.issued.map Prod.fst ∧ (s'.core s.cur.core).acc = (s.core s.cur.core).acc
      ∧ ∀ p ∈ y.issued, ∀ g, (if p.1 = s.cur.grp then some x else s.group? ⟨s.cur.core, s.cur.slot, p.1⟩) = some g →
          ∃ z, s'.group? ⟨s.cur.core, s.cur.slot, p.1⟩ = some z ∧ z.pc = g.pc + 4 ∧ z.wait = .none ∧ j.id ∈ z.openJobs
            ∧ z.reuse = (match y.tiles.find? fun u => u.grp = p.1 with
              | some u => if y.op.reuse then some ⟨u.va, y.op.etype, y.op.op, y.op.pattern, u.regs, u.act⟩ else none
              | none => g.reuse)
    let c := s.core s.cur.core
    let locked := fun (y : Gang) => ∃ u ∈ y.tiles, getAt none c.locked (u.tile / 16) ≠ none
    let strange := fun (y : Gang) n => n < 64 ∧ (∃ u ∈ y.tiles, u.tile = n) ∧ c.owner (n / 16) ≠ k.ctx
    Ready q s x → s.crew? s.cur.core s.cur.slot = some k → L ≠ [] →
    (s.cur.grp ∈ L → acquirePending x = false → (m ≠ 0 → unitsFree s x k [t.toNat] ∧ holdsTiles s k [t.toNat]) → (s.core s.cur.core).mats.length < 16 →
      (k.gang = none → (m ≠ 0 → recordFailures k.granules mine (encode i) = []) →
        let y : Gang := ⟨L, [(s.cur.grp, st.toNat)], mine, tiles⟩
        ((∃ g ∈ L, g ≠ s.cur.grp) → waits y) ∧ ((∀ g ∈ L, g = s.cur.grp) → hands y))
      ∧ (∀ y, k.gang = some y → y.list = L → (m ≠ 0 → y.op.op = op ∧ y.op.pattern = pattern ∧ y.op.etype = e) →
        (y.issued.map Prod.fst).Nodup → s.cur.grp ∉ y.issued.map Prod.fst →
        let y' : Gang := { y with issued := y.issued ++ [(s.cur.grp, st.toNat)], tiles := y.tiles ++ tiles }
        ((∃ g ∈ L, g ∉ y'.issued.map Prod.fst) → waits y')
        ∧ ((∀ g ∈ L, g ∈ y'.issued.map Prod.fst) →
          (¬ locked y' → (∀ n, ¬ strange y' n) → hands y')
          ∧ (locked y' → exec i s = .next (holdIssue s))
          ∧ (∀ n, ¬ locked y' → strange y' n → (∀ n', n' < n → ¬ strange y' n') → exec i s = .next (trapFailure s 0x30 (BitVec.ofNat 32 n))))))
    ∧ (m = 0 → s.cur.grp ∈ L → acquirePending x = true → (∀ y, k.gang = some y → y.list = L) → exec i s = .next (holdIssue s))
    ∧ (m ≠ 0 → s.cur.grp ∉ L → exec i s = .next (takeTrap s 0x01 (encode i)))
    ∧ (∀ y, k.gang = some y → s.cur.grp ∈ L → y.list ≠ L → ∃ s' z, exec i s = .next s' ∧ s'.group? s.cur = some z ∧ z.wait = .gangBusy ∧ z.pc = x.pc
        ∧ s'.crew? s.cur.core s.cur.slot ≠ none)
    ∧ (∀ y, m ≠ 0 → k.gang = some y → s.cur.grp ∈ L → y.list = L → (y.op.op ≠ op ∨ y.op.pattern ≠ pattern ∨ y.op.etype ≠ e) →
        exec i s = .next (takeTrap s 0x01 (encode i)))
end

