-- ==== Sys2Proof/Laws/State.lean ====
section
/-! SUPPORT. What each update of the state leaves and what it changes, field by field, and reads after writes of the places of the state. -/

namespace Sys2Proof.Machine

open Sys2Proof

/-! ### Arrays -/

/-- An array reads at a written place what was written. -/
@[simp] theorem getAt_setAt_same {α : Type} (d : α) (xs : List α) (n : Nat) (v : α) : getAt d (setAt d xs n v) n = v := by
  induction xs generalizing n with
  | nil =>
    induction n with
    | zero => rfl
    | succ n ih => simpa [setAt, getAt] using ih
  | cons x xs ih => cases n <;> simp [setAt, getAt, ih]

/-- An array reads at every other place what it read before. -/
theorem getAt_setAt_other {α : Type} (d : α) (xs : List α) (n k : Nat) (v : α) (h : k ≠ n) :
    getAt d (setAt d xs n v) k = getAt d xs k := by
  induction xs generalizing n k with
  | nil =>
    induction n generalizing k with
    | zero => cases k with
      | zero => exact absurd rfl h
      | succ k => simp [setAt, getAt]
    | succ n ih => cases k with
      | zero => simp [setAt, getAt]
      | succ k => simpa [setAt, getAt] using ih k (by omega)
  | cons x xs ih => cases n <;> cases k <;> simp_all [setAt, getAt]

/-- Reading a place of an array after a write of another or the same. -/
theorem getAt_setAt {α : Type} (d : α) (xs : List α) (n k : Nat) (v : α) :
    getAt d (setAt d xs n v) k = if k = n then v else getAt d xs k := by
  split
  · subst k; simp
  · exact getAt_setAt_other d xs n k v ‹_›

/-! ### setCore -/

@[simp] theorem State.setCore_gt (s : State) (c : Nat) (x : Core) : (s.setCore c x).gt = s.gt := rfl
@[simp] theorem State.setCore_agenda (s : State) (c : Nat) (x : Core) : (s.setCore c x).agenda = s.agenda := rfl
@[simp] theorem State.setCore_cur (s : State) (c : Nat) (x : Core) : (s.setCore c x).cur = s.cur := rfl
@[simp] theorem State.setCore_pfx (s : State) (c : Nat) (x : Core) : (s.setCore c x).pfx = s.pfx := rfl
@[simp] theorem State.setCore_free (s : State) (c : Nat) (x : Core) : (s.setCore c x).free = s.free := rfl
@[simp] theorem State.setCore_nextId (s : State) (c : Nat) (x : Core) : (s.setCore c x).nextId = s.nextId := rfl
@[simp] theorem State.setCore_homeSeq (s : State) (c : Nat) (x : Core) : (s.setCore c x).homeSeq = s.homeSeq := rfl
@[simp] theorem State.setCore_mem (s : State) (c : Nat) (x : Core) : (s.setCore c x).mem = s.mem := rfl
@[simp] theorem State.setCore_poison (s : State) (c : Nat) (x : Core) : (s.setCore c x).poison = s.poison := rfl
@[simp] theorem State.setCore_vers (s : State) (c : Nat) (x : Core) : (s.setCore c x).vers = s.vers := rfl
@[simp] theorem State.setCore_leases (s : State) (c : Nat) (x : Core) : (s.setCore c x).leases = s.leases := rfl
@[simp] theorem State.setCore_horizon (s : State) (c : Nat) (x : Core) : (s.setCore c x).horizon = s.horizon := rfl
@[simp] theorem State.setCore_hostCopies (s : State) (c : Nat) (x : Core) : (s.setCore c x).hostCopies = s.hostCopies := rfl
@[simp] theorem State.setCore_portLines (s : State) (c : Nat) (x : Core) : (s.setCore c x).portLines = s.portLines := rfl
@[simp] theorem State.setCore_hostPages (s : State) (c : Nat) (x : Core) : (s.setCore c x).hostPages = s.hostPages := rfl
@[simp] theorem State.setCore_hostData (s : State) (c : Nat) (x : Core) : (s.setCore c x).hostData = s.hostData := rfl
@[simp] theorem State.setCore_hostPoison (s : State) (c : Nat) (x : Core) : (s.setCore c x).hostPoison = s.hostPoison := rfl
@[simp] theorem State.setCore_hostReg (s : State) (c : Nat) (x : Core) : (s.setCore c x).hostReg = s.hostReg := rfl
@[simp] theorem State.setCore_loads (s : State) (c : Nat) (x : Core) : (s.setCore c x).loads = s.loads := rfl
@[simp] theorem State.setCore_writes (s : State) (c : Nat) (x : Core) : (s.setCore c x).writes = s.writes := rfl
@[simp] theorem State.setCore_atoms (s : State) (c : Nat) (x : Core) : (s.setCore c x).atoms = s.atoms := rfl
@[simp] theorem State.setCore_recs (s : State) (c : Nat) (x : Core) : (s.setCore c x).recs = s.recs := rfl
@[simp] theorem State.setCore_casts (s : State) (c : Nat) (x : Core) : (s.setCore c x).casts = s.casts := rfl
@[simp] theorem State.setCore_dies (s : State) (c : Nat) (x : Core) : (s.setCore c x).dies = s.dies := rfl
@[simp] theorem State.setCore_gateways (s : State) (c : Nat) (x : Core) : (s.setCore c x).gateways = s.gateways := rfl
@[simp] theorem State.setCore_launches (s : State) (c : Nat) (x : Core) : (s.setCore c x).launches = s.launches := rfl
@[simp] theorem State.setCore_ghosts (s : State) (c : Nat) (x : Core) : (s.setCore c x).ghosts = s.ghosts := rfl
@[simp] theorem State.setCore_nextSeq (s : State) (c : Nat) (x : Core) : (s.setCore c x).nextSeq = s.nextSeq := rfl
@[simp] theorem State.setCore_parts (s : State) (c : Nat) (x : Core) : (s.setCore c x).parts = s.parts := rfl
@[simp] theorem State.setCore_net (s : State) (c : Nat) (x : Core) : (s.setCore c x).net = s.net := rfl
@[simp] theorem State.setCore_pkg (s : State) (c : Nat) (x : Core) : (s.setCore c x).pkg = s.pkg := rfl

/-! ### setCrew -/

@[simp] theorem State.setCrew_gt (s : State) (c k : Nat) (x : Option Crew) : (s.setCrew c k x).gt = s.gt := rfl
@[simp] theorem State.setCrew_agenda (s : State) (c k : Nat) (x : Option Crew) : (s.setCrew c k x).agenda = s.agenda := rfl
@[simp] theorem State.setCrew_cur (s : State) (c k : Nat) (x : Option Crew) : (s.setCrew c k x).cur = s.cur := rfl
@[simp] theorem State.setCrew_pfx (s : State) (c k : Nat) (x : Option Crew) : (s.setCrew c k x).pfx = s.pfx := rfl
@[simp] theorem State.setCrew_free (s : State) (c k : Nat) (x : Option Crew) : (s.setCrew c k x).free = s.free := rfl
@[simp] theorem State.setCrew_nextId (s : State) (c k : Nat) (x : Option Crew) : (s.setCrew c k x).nextId = s.nextId := rfl
@[simp] theorem State.setCrew_homeSeq (s : State) (c k : Nat) (x : Option Crew) : (s.setCrew c k x).homeSeq = s.homeSeq := rfl
@[simp] theorem State.setCrew_mem (s : State) (c k : Nat) (x : Option Crew) : (s.setCrew c k x).mem = s.mem := rfl
@[simp] theorem State.setCrew_poison (s : State) (c k : Nat) (x : Option Crew) : (s.setCrew c k x).poison = s.poison := rfl
@[simp] theorem State.setCrew_vers (s : State) (c k : Nat) (x : Option Crew) : (s.setCrew c k x).vers = s.vers := rfl
@[simp] theorem State.setCrew_leases (s : State) (c k : Nat) (x : Option Crew) : (s.setCrew c k x).leases = s.leases := rfl
@[simp] theorem State.setCrew_horizon (s : State) (c k : Nat) (x : Option Crew) : (s.setCrew c k x).horizon = s.horizon := rfl
@[simp] theorem State.setCrew_hostCopies (s : State) (c k : Nat) (x : Option Crew) : (s.setCrew c k x).hostCopies = s.hostCopies := rfl
@[simp] theorem State.setCrew_portLines (s : State) (c k : Nat) (x : Option Crew) : (s.setCrew c k x).portLines = s.portLines := rfl
@[simp] theorem State.setCrew_hostPages (s : State) (c k : Nat) (x : Option Crew) : (s.setCrew c k x).hostPages = s.hostPages := rfl
@[simp] theorem State.setCrew_hostData (s : State) (c k : Nat) (x : Option Crew) : (s.setCrew c k x).hostData = s.hostData := rfl
@[simp] theorem State.setCrew_hostPoison (s : State) (c k : Nat) (x : Option Crew) : (s.setCrew c k x).hostPoison = s.hostPoison := rfl
@[simp] theorem State.setCrew_hostReg (s : State) (c k : Nat) (x : Option Crew) : (s.setCrew c k x).hostReg = s.hostReg := rfl
@[simp] theorem State.setCrew_loads (s : State) (c k : Nat) (x : Option Crew) : (s.setCrew c k x).loads = s.loads := rfl
@[simp] theorem State.setCrew_writes (s : State) (c k : Nat) (x : Option Crew) : (s.setCrew c k x).writes = s.writes := rfl
@[simp] theorem State.setCrew_atoms (s : State) (c k : Nat) (x : Option Crew) : (s.setCrew c k x).atoms = s.atoms := rfl
@[simp] theorem State.setCrew_recs (s : State) (c k : Nat) (x : Option Crew) : (s.setCrew c k x).recs = s.recs := rfl
@[simp] theorem State.setCrew_casts (s : State) (c k : Nat) (x : Option Crew) : (s.setCrew c k x).casts = s.casts := rfl
@[simp] theorem State.setCrew_dies (s : State) (c k : Nat) (x : Option Crew) : (s.setCrew c k x).dies = s.dies := rfl
@[simp] theorem State.setCrew_gateways (s : State) (c k : Nat) (x : Option Crew) : (s.setCrew c k x).gateways = s.gateways := rfl
@[simp] theorem State.setCrew_launches (s : State) (c k : Nat) (x : Option Crew) : (s.setCrew c k x).launches = s.launches := rfl
@[simp] theorem State.setCrew_ghosts (s : State) (c k : Nat) (x : Option Crew) : (s.setCrew c k x).ghosts = s.ghosts := rfl
@[simp] theorem State.setCrew_nextSeq (s : State) (c k : Nat) (x : Option Crew) : (s.setCrew c k x).nextSeq = s.nextSeq := rfl
@[simp] theorem State.setCrew_parts (s : State) (c k : Nat) (x : Option Crew) : (s.setCrew c k x).parts = s.parts := rfl
@[simp] theorem State.setCrew_net (s : State) (c k : Nat) (x : Option Crew) : (s.setCrew c k x).net = s.net := rfl
@[simp] theorem State.setCrew_pkg (s : State) (c k : Nat) (x : Option Crew) : (s.setCrew c k x).pkg = s.pkg := rfl

/-! ### setPart -/

@[simp] theorem State.setPart_gt (s : State) (p : Nat) (x : Partition) : (s.setPart p x).gt = s.gt := rfl
@[simp] theorem State.setPart_agenda (s : State) (p : Nat) (x : Partition) : (s.setPart p x).agenda = s.agenda := rfl
@[simp] theorem State.setPart_cur (s : State) (p : Nat) (x : Partition) : (s.setPart p x).cur = s.cur := rfl
@[simp] theorem State.setPart_pfx (s : State) (p : Nat) (x : Partition) : (s.setPart p x).pfx = s.pfx := rfl
@[simp] theorem State.setPart_free (s : State) (p : Nat) (x : Partition) : (s.setPart p x).free = s.free := rfl
@[simp] theorem State.setPart_nextId (s : State) (p : Nat) (x : Partition) : (s.setPart p x).nextId = s.nextId := rfl
@[simp] theorem State.setPart_homeSeq (s : State) (p : Nat) (x : Partition) : (s.setPart p x).homeSeq = s.homeSeq := rfl
@[simp] theorem State.setPart_mem (s : State) (p : Nat) (x : Partition) : (s.setPart p x).mem = s.mem := rfl
@[simp] theorem State.setPart_poison (s : State) (p : Nat) (x : Partition) : (s.setPart p x).poison = s.poison := rfl
@[simp] theorem State.setPart_vers (s : State) (p : Nat) (x : Partition) : (s.setPart p x).vers = s.vers := rfl
@[simp] theorem State.setPart_leases (s : State) (p : Nat) (x : Partition) : (s.setPart p x).leases = s.leases := rfl
@[simp] theorem State.setPart_horizon (s : State) (p : Nat) (x : Partition) : (s.setPart p x).horizon = s.horizon := rfl
@[simp] theorem State.setPart_hostCopies (s : State) (p : Nat) (x : Partition) : (s.setPart p x).hostCopies = s.hostCopies := rfl
@[simp] theorem State.setPart_portLines (s : State) (p : Nat) (x : Partition) : (s.setPart p x).portLines = s.portLines := rfl
@[simp] theorem State.setPart_hostPages (s : State) (p : Nat) (x : Partition) : (s.setPart p x).hostPages = s.hostPages := rfl
@[simp] theorem State.setPart_hostData (s : State) (p : Nat) (x : Partition) : (s.setPart p x).hostData = s.hostData := rfl
@[simp] theorem State.setPart_hostPoison (s : State) (p : Nat) (x : Partition) : (s.setPart p x).hostPoison = s.hostPoison := rfl
@[simp] theorem State.setPart_hostReg (s : State) (p : Nat) (x : Partition) : (s.setPart p x).hostReg = s.hostReg := rfl
@[simp] theorem State.setPart_loads (s : State) (p : Nat) (x : Partition) : (s.setPart p x).loads = s.loads := rfl
@[simp] theorem State.setPart_writes (s : State) (p : Nat) (x : Partition) : (s.setPart p x).writes = s.writes := rfl
@[simp] theorem State.setPart_atoms (s : State) (p : Nat) (x : Partition) : (s.setPart p x).atoms = s.atoms := rfl
@[simp] theorem State.setPart_recs (s : State) (p : Nat) (x : Partition) : (s.setPart p x).recs = s.recs := rfl
@[simp] theorem State.setPart_casts (s : State) (p : Nat) (x : Partition) : (s.setPart p x).casts = s.casts := rfl
@[simp] theorem State.setPart_cores (s : State) (p : Nat) (x : Partition) : (s.setPart p x).cores = s.cores := rfl
@[simp] theorem State.setPart_dies (s : State) (p : Nat) (x : Partition) : (s.setPart p x).dies = s.dies := rfl
@[simp] theorem State.setPart_gateways (s : State) (p : Nat) (x : Partition) : (s.setPart p x).gateways = s.gateways := rfl
@[simp] theorem State.setPart_launches (s : State) (p : Nat) (x : Partition) : (s.setPart p x).launches = s.launches := rfl
@[simp] theorem State.setPart_ghosts (s : State) (p : Nat) (x : Partition) : (s.setPart p x).ghosts = s.ghosts := rfl
@[simp] theorem State.setPart_nextSeq (s : State) (p : Nat) (x : Partition) : (s.setPart p x).nextSeq = s.nextSeq := rfl
@[simp] theorem State.setPart_net (s : State) (p : Nat) (x : Partition) : (s.setPart p x).net = s.net := rfl
@[simp] theorem State.setPart_pkg (s : State) (p : Nat) (x : Partition) : (s.setPart p x).pkg = s.pkg := rfl

/-! ### setDie -/

@[simp] theorem State.setDie_gt (s : State) (k : Nat) (x : Stack) : (s.setDie k x).gt = s.gt := rfl
@[simp] theorem State.setDie_agenda (s : State) (k : Nat) (x : Stack) : (s.setDie k x).agenda = s.agenda := rfl
@[simp] theorem State.setDie_cur (s : State) (k : Nat) (x : Stack) : (s.setDie k x).cur = s.cur := rfl
@[simp] theorem State.setDie_pfx (s : State) (k : Nat) (x : Stack) : (s.setDie k x).pfx = s.pfx := rfl
@[simp] theorem State.setDie_free (s : State) (k : Nat) (x : Stack) : (s.setDie k x).free = s.free := rfl
@[simp] theorem State.setDie_nextId (s : State) (k : Nat) (x : Stack) : (s.setDie k x).nextId = s.nextId := rfl
@[simp] theorem State.setDie_homeSeq (s : State) (k : Nat) (x : Stack) : (s.setDie k x).homeSeq = s.homeSeq := rfl
@[simp] theorem State.setDie_mem (s : State) (k : Nat) (x : Stack) : (s.setDie k x).mem = s.mem := rfl
@[simp] theorem State.setDie_poison (s : State) (k : Nat) (x : Stack) : (s.setDie k x).poison = s.poison := rfl
@[simp] theorem State.setDie_vers (s : State) (k : Nat) (x : Stack) : (s.setDie k x).vers = s.vers := rfl
@[simp] theorem State.setDie_leases (s : State) (k : Nat) (x : Stack) : (s.setDie k x).leases = s.leases := rfl
@[simp] theorem State.setDie_horizon (s : State) (k : Nat) (x : Stack) : (s.setDie k x).horizon = s.horizon := rfl
@[simp] theorem State.setDie_hostCopies (s : State) (k : Nat) (x : Stack) : (s.setDie k x).hostCopies = s.hostCopies := rfl
@[simp] theorem State.setDie_portLines (s : State) (k : Nat) (x : Stack) : (s.setDie k x).portLines = s.portLines := rfl
@[simp] theorem State.setDie_hostPages (s : State) (k : Nat) (x : Stack) : (s.setDie k x).hostPages = s.hostPages := rfl
@[simp] theorem State.setDie_hostData (s : State) (k : Nat) (x : Stack) : (s.setDie k x).hostData = s.hostData := rfl
@[simp] theorem State.setDie_hostPoison (s : State) (k : Nat) (x : Stack) : (s.setDie k x).hostPoison = s.hostPoison := rfl
@[simp] theorem State.setDie_hostReg (s : State) (k : Nat) (x : Stack) : (s.setDie k x).hostReg = s.hostReg := rfl
@[simp] theorem State.setDie_loads (s : State) (k : Nat) (x : Stack) : (s.setDie k x).loads = s.loads := rfl
@[simp] theorem State.setDie_writes (s : State) (k : Nat) (x : Stack) : (s.setDie k x).writes = s.writes := rfl
@[simp] theorem State.setDie_atoms (s : State) (k : Nat) (x : Stack) : (s.setDie k x).atoms = s.atoms := rfl
@[simp] theorem State.setDie_recs (s : State) (k : Nat) (x : Stack) : (s.setDie k x).recs = s.recs := rfl
@[simp] theorem State.setDie_casts (s : State) (k : Nat) (x : Stack) : (s.setDie k x).casts = s.casts := rfl
@[simp] theorem State.setDie_cores (s : State) (k : Nat) (x : Stack) : (s.setDie k x).cores = s.cores := rfl
@[simp] theorem State.setDie_gateways (s : State) (k : Nat) (x : Stack) : (s.setDie k x).gateways = s.gateways := rfl
@[simp] theorem State.setDie_launches (s : State) (k : Nat) (x : Stack) : (s.setDie k x).launches = s.launches := rfl
@[simp] theorem State.setDie_ghosts (s : State) (k : Nat) (x : Stack) : (s.setDie k x).ghosts = s.ghosts := rfl
@[simp] theorem State.setDie_nextSeq (s : State) (k : Nat) (x : Stack) : (s.setDie k x).nextSeq = s.nextSeq := rfl
@[simp] theorem State.setDie_parts (s : State) (k : Nat) (x : Stack) : (s.setDie k x).parts = s.parts := rfl
@[simp] theorem State.setDie_net (s : State) (k : Nat) (x : Stack) : (s.setDie k x).net = s.net := rfl
@[simp] theorem State.setDie_pkg (s : State) (k : Nat) (x : Stack) : (s.setDie k x).pkg = s.pkg := rfl

/-! ### modLaunch -/

@[simp] theorem State.modLaunch_gt (s : State) (n : Nat) (f : Launch → Launch) : (s.modLaunch n f).gt = s.gt := rfl
@[simp] theorem State.modLaunch_agenda (s : State) (n : Nat) (f : Launch → Launch) : (s.modLaunch n f).agenda = s.agenda := rfl
@[simp] theorem State.modLaunch_cur (s : State) (n : Nat) (f : Launch → Launch) : (s.modLaunch n f).cur = s.cur := rfl
@[simp] theorem State.modLaunch_pfx (s : State) (n : Nat) (f : Launch → Launch) : (s.modLaunch n f).pfx = s.pfx := rfl
@[simp] theorem State.modLaunch_free (s : State) (n : Nat) (f : Launch → Launch) : (s.modLaunch n f).free = s.free := rfl
@[simp] theorem State.modLaunch_nextId (s : State) (n : Nat) (f : Launch → Launch) : (s.modLaunch n f).nextId = s.nextId := rfl
@[simp] theorem State.modLaunch_homeSeq (s : State) (n : Nat) (f : Launch → Launch) : (s.modLaunch n f).homeSeq = s.homeSeq := rfl
@[simp] theorem State.modLaunch_mem (s : State) (n : Nat) (f : Launch → Launch) : (s.modLaunch n f).mem = s.mem := rfl
@[simp] theorem State.modLaunch_poison (s : State) (n : Nat) (f : Launch → Launch) : (s.modLaunch n f).poison = s.poison := rfl
@[simp] theorem State.modLaunch_vers (s : State) (n : Nat) (f : Launch → Launch) : (s.modLaunch n f).vers = s.vers := rfl
@[simp] theorem State.modLaunch_leases (s : State) (n : Nat) (f : Launch → Launch) : (s.modLaunch n f).leases = s.leases := rfl
@[simp] theorem State.modLaunch_horizon (s : State) (n : Nat) (f : Launch → Launch) : (s.modLaunch n f).horizon = s.horizon := rfl
@[simp] theorem State.modLaunch_hostCopies (s : State) (n : Nat) (f : Launch → Launch) : (s.modLaunch n f).hostCopies = s.hostCopies := rfl
@[simp] theorem State.modLaunch_portLines (s : State) (n : Nat) (f : Launch → Launch) : (s.modLaunch n f).portLines = s.portLines := rfl
@[simp] theorem State.modLaunch_hostPages (s : State) (n : Nat) (f : Launch → Launch) : (s.modLaunch n f).hostPages = s.hostPages := rfl
@[simp] theorem State.modLaunch_hostData (s : State) (n : Nat) (f : Launch → Launch) : (s.modLaunch n f).hostData = s.hostData := rfl
@[simp] theorem State.modLaunch_hostPoison (s : State) (n : Nat) (f : Launch → Launch) : (s.modLaunch n f).hostPoison = s.hostPoison := rfl
@[simp] theorem State.modLaunch_hostReg (s : State) (n : Nat) (f : Launch → Launch) : (s.modLaunch n f).hostReg = s.hostReg := rfl
@[simp] theorem State.modLaunch_loads (s : State) (n : Nat) (f : Launch → Launch) : (s.modLaunch n f).loads = s.loads := rfl
@[simp] theorem State.modLaunch_writes (s : State) (n : Nat) (f : Launch → Launch) : (s.modLaunch n f).writes = s.writes := rfl
@[simp] theorem State.modLaunch_atoms (s : State) (n : Nat) (f : Launch → Launch) : (s.modLaunch n f).atoms = s.atoms := rfl
@[simp] theorem State.modLaunch_recs (s : State) (n : Nat) (f : Launch → Launch) : (s.modLaunch n f).recs = s.recs := rfl
@[simp] theorem State.modLaunch_casts (s : State) (n : Nat) (f : Launch → Launch) : (s.modLaunch n f).casts = s.casts := rfl
@[simp] theorem State.modLaunch_cores (s : State) (n : Nat) (f : Launch → Launch) : (s.modLaunch n f).cores = s.cores := rfl
@[simp] theorem State.modLaunch_dies (s : State) (n : Nat) (f : Launch → Launch) : (s.modLaunch n f).dies = s.dies := rfl
@[simp] theorem State.modLaunch_gateways (s : State) (n : Nat) (f : Launch → Launch) : (s.modLaunch n f).gateways = s.gateways := rfl
@[simp] theorem State.modLaunch_ghosts (s : State) (n : Nat) (f : Launch → Launch) : (s.modLaunch n f).ghosts = s.ghosts := rfl
@[simp] theorem State.modLaunch_nextSeq (s : State) (n : Nat) (f : Launch → Launch) : (s.modLaunch n f).nextSeq = s.nextSeq := rfl
@[simp] theorem State.modLaunch_parts (s : State) (n : Nat) (f : Launch → Launch) : (s.modLaunch n f).parts = s.parts := rfl
@[simp] theorem State.modLaunch_net (s : State) (n : Nat) (f : Launch → Launch) : (s.modLaunch n f).net = s.net := rfl
@[simp] theorem State.modLaunch_pkg (s : State) (n : Nat) (f : Launch → Launch) : (s.modLaunch n f).pkg = s.pkg := rfl

/-! ### setGroup, modGroup -/

@[simp] theorem State.setGroup_gt (s : State) (g : Gid) (x : Option Group) : (s.setGroup g x).gt = s.gt := by
  unfold State.setGroup; split <;> rfl
@[simp] theorem State.setGroup_agenda (s : State) (g : Gid) (x : Option Group) : (s.setGroup g x).agenda = s.agenda := by
  unfold State.setGroup; split <;> rfl
@[simp] theorem State.setGroup_cur (s : State) (g : Gid) (x : Option Group) : (s.setGroup g x).cur = s.cur := by
  unfold State.setGroup; split <;> rfl
@[simp] theorem State.setGroup_pfx (s : State) (g : Gid) (x : Option Group) : (s.setGroup g x).pfx = s.pfx := by
  unfold State.setGroup; split <;> rfl
@[simp] theorem State.setGroup_free (s : State) (g : Gid) (x : Option Group) : (s.setGroup g x).free = s.free := by
  unfold State.setGroup; split <;> rfl
@[simp] theorem State.setGroup_nextId (s : State) (g : Gid) (x : Option Group) : (s.setGroup g x).nextId = s.nextId := by
  unfold State.setGroup; split <;> rfl
@[simp] theorem State.setGroup_homeSeq (s : State) (g : Gid) (x : Option Group) : (s.setGroup g x).homeSeq = s.homeSeq := by
  unfold State.setGroup; split <;> rfl
@[simp] theorem State.setGroup_mem (s : State) (g : Gid) (x : Option Group) : (s.setGroup g x).mem = s.mem := by
  unfold State.setGroup; split <;> rfl
@[simp] theorem State.setGroup_poison (s : State) (g : Gid) (x : Option Group) : (s.setGroup g x).poison = s.poison := by
  unfold State.setGroup; split <;> rfl
@[simp] theorem State.setGroup_vers (s : State) (g : Gid) (x : Option Group) : (s.setGroup g x).vers = s.vers := by
  unfold State.setGroup; split <;> rfl
@[simp] theorem State.setGroup_leases (s : State) (g : Gid) (x : Option Group) : (s.setGroup g x).leases = s.leases := by
  unfold State.setGroup; split <;> rfl
@[simp] theorem State.setGroup_horizon (s : State) (g : Gid) (x : Option Group) : (s.setGroup g x).horizon = s.horizon := by
  unfold State.setGroup; split <;> rfl
@[simp] theorem State.setGroup_hostCopies (s : State) (g : Gid) (x : Option Group) : (s.setGroup g x).hostCopies = s.hostCopies := by
  unfold State.setGroup; split <;> rfl
@[simp] theorem State.setGroup_portLines (s : State) (g : Gid) (x : Option Group) : (s.setGroup g x).portLines = s.portLines := by
  unfold State.setGroup; split <;> rfl
@[simp] theorem State.setGroup_hostPages (s : State) (g : Gid) (x : Option Group) : (s.setGroup g x).hostPages = s.hostPages := by
  unfold State.setGroup; split <;> rfl
@[simp] theorem State.setGroup_hostData (s : State) (g : Gid) (x : Option Group) : (s.setGroup g x).hostData = s.hostData := by
  unfold State.setGroup; split <;> rfl
@[simp] theorem State.setGroup_hostPoison (s : State) (g : Gid) (x : Option Group) : (s.setGroup g x).hostPoison = s.hostPoison := by
  unfold State.setGroup; split <;> rfl
@[simp] theorem State.setGroup_hostReg (s : State) (g : Gid) (x : Option Group) : (s.setGroup g x).hostReg = s.hostReg := by
  unfold State.setGroup; split <;> rfl
@[simp] theorem State.setGroup_loads (s : State) (g : Gid) (x : Option Group) : (s.setGroup g x).loads = s.loads := by
  unfold State.setGroup; split <;> rfl
@[simp] theorem State.setGroup_writes (s : State) (g : Gid) (x : Option Group) : (s.setGroup g x).writes = s.writes := by
  unfold State.setGroup; split <;> rfl
@[simp] theorem State.setGroup_atoms (s : State) (g : Gid) (x : Option Group) : (s.setGroup g x).atoms = s.atoms := by
  unfold State.setGroup; split <;> rfl
@[simp] theorem State.setGroup_recs (s : State) (g : Gid) (x : Option Group) : (s.setGroup g x).recs = s.recs := by
  unfold State.setGroup; split <;> rfl
@[simp] theorem State.setGroup_casts (s : State) (g : Gid) (x : Option Group) : (s.setGroup g x).casts = s.casts := by
  unfold State.setGroup; split <;> rfl
@[simp] theorem State.setGroup_dies (s : State) (g : Gid) (x : Option Group) : (s.setGroup g x).dies = s.dies := by
  unfold State.setGroup; split <;> rfl
@[simp] theorem State.setGroup_gateways (s : State) (g : Gid) (x : Option Group) : (s.setGroup g x).gateways = s.gateways := by
  unfold State.setGroup; split <;> rfl
@[simp] theorem State.setGroup_launches (s : State) (g : Gid) (x : Option Group) : (s.setGroup g x).launches = s.launches := by
  unfold State.setGroup; split <;> rfl
@[simp] theorem State.setGroup_ghosts (s : State) (g : Gid) (x : Option Group) : (s.setGroup g x).ghosts = s.ghosts := by
  unfold State.setGroup; split <;> rfl
@[simp] theorem State.setGroup_nextSeq (s : State) (g : Gid) (x : Option Group) : (s.setGroup g x).nextSeq = s.nextSeq := by
  unfold State.setGroup; split <;> rfl
@[simp] theorem State.setGroup_parts (s : State) (g : Gid) (x : Option Group) : (s.setGroup g x).parts = s.parts := by
  unfold State.setGroup; split <;> rfl
@[simp] theorem State.setGroup_net (s : State) (g : Gid) (x : Option Group) : (s.setGroup g x).net = s.net := by
  unfold State.setGroup; split <;> rfl
@[simp] theorem State.setGroup_pkg (s : State) (g : Gid) (x : Option Group) : (s.setGroup g x).pkg = s.pkg := by
  unfold State.setGroup; split <;> rfl
@[simp] theorem State.modGroup_gt (s : State) (g : Gid) (f : Group → Group) : (s.modGroup g f).gt = s.gt := by
  unfold State.modGroup; split <;> simp
@[simp] theorem State.modGroup_agenda (s : State) (g : Gid) (f : Group → Group) : (s.modGroup g f).agenda = s.agenda := by
  unfold State.modGroup; split <;> simp
@[simp] theorem State.modGroup_cur (s : State) (g : Gid) (f : Group → Group) : (s.modGroup g f).cur = s.cur := by
  unfold State.modGroup; split <;> simp
@[simp] theorem State.modGroup_pfx (s : State) (g : Gid) (f : Group → Group) : (s.modGroup g f).pfx = s.pfx := by
  unfold State.modGroup; split <;> simp
@[simp] theorem State.modGroup_free (s : State) (g : Gid) (f : Group → Group) : (s.modGroup g f).free = s.free := by
  unfold State.modGroup; split <;> simp
@[simp] theorem State.modGroup_nextId (s : State) (g : Gid) (f : Group → Group) : (s.modGroup g f).nextId = s.nextId := by
  unfold State.modGroup; split <;> simp
@[simp] theorem State.modGroup_homeSeq (s : State) (g : Gid) (f : Group → Group) : (s.modGroup g f).homeSeq = s.homeSeq := by
  unfold State.modGroup; split <;> simp
@[simp] theorem State.modGroup_mem (s : State) (g : Gid) (f : Group → Group) : (s.modGroup g f).mem = s.mem := by
  unfold State.modGroup; split <;> simp
@[simp] theorem State.modGroup_poison (s : State) (g : Gid) (f : Group → Group) : (s.modGroup g f).poison = s.poison := by
  unfold State.modGroup; split <;> simp
@[simp] theorem State.modGroup_vers (s : State) (g : Gid) (f : Group → Group) : (s.modGroup g f).vers = s.vers := by
  unfold State.modGroup; split <;> simp
@[simp] theorem State.modGroup_leases (s : State) (g : Gid) (f : Group → Group) : (s.modGroup g f).leases = s.leases := by
  unfold State.modGroup; split <;> simp
@[simp] theorem State.modGroup_horizon (s : State) (g : Gid) (f : Group → Group) : (s.modGroup g f).horizon = s.horizon := by
  unfold State.modGroup; split <;> simp
@[simp] theorem State.modGroup_hostCopies (s : State) (g : Gid) (f : Group → Group) : (s.modGroup g f).hostCopies = s.hostCopies := by
  unfold State.modGroup; split <;> simp
@[simp] theorem State.modGroup_portLines (s : State) (g : Gid) (f : Group → Group) : (s.modGroup g f).portLines = s.portLines := by
  unfold State.modGroup; split <;> simp
@[simp] theorem State.modGroup_hostPages (s : State) (g : Gid) (f : Group → Group) : (s.modGroup g f).hostPages = s.hostPages := by
  unfold State.modGroup; split <;> simp
@[simp] theorem State.modGroup_hostData (s : State) (g : Gid) (f : Group → Group) : (s.modGroup g f).hostData = s.hostData := by
  unfold State.modGroup; split <;> simp
@[simp] theorem State.modGroup_hostPoison (s : State) (g : Gid) (f : Group → Group) : (s.modGroup g f).hostPoison = s.hostPoison := by
  unfold State.modGroup; split <;> simp
@[simp] theorem State.modGroup_hostReg (s : State) (g : Gid) (f : Group → Group) : (s.modGroup g f).hostReg = s.hostReg := by
  unfold State.modGroup; split <;> simp
@[simp] theorem State.modGroup_loads (s : State) (g : Gid) (f : Group → Group) : (s.modGroup g f).loads = s.loads := by
  unfold State.modGroup; split <;> simp
@[simp] theorem State.modGroup_writes (s : State) (g : Gid) (f : Group → Group) : (s.modGroup g f).writes = s.writes := by
  unfold State.modGroup; split <;> simp
@[simp] theorem State.modGroup_atoms (s : State) (g : Gid) (f : Group → Group) : (s.modGroup g f).atoms = s.atoms := by
  unfold State.modGroup; split <;> simp
@[simp] theorem State.modGroup_recs (s : State) (g : Gid) (f : Group → Group) : (s.modGroup g f).recs = s.recs := by
  unfold State.modGroup; split <;> simp
@[simp] theorem State.modGroup_casts (s : State) (g : Gid) (f : Group → Group) : (s.modGroup g f).casts = s.casts := by
  unfold State.modGroup; split <;> simp
@[simp] theorem State.modGroup_dies (s : State) (g : Gid) (f : Group → Group) : (s.modGroup g f).dies = s.dies := by
  unfold State.modGroup; split <;> simp
@[simp] theorem State.modGroup_gateways (s : State) (g : Gid) (f : Group → Group) : (s.modGroup g f).gateways = s.gateways := by
  unfold State.modGroup; split <;> simp
@[simp] theorem State.modGroup_launches (s : State) (g : Gid) (f : Group → Group) : (s.modGroup g f).launches = s.launches := by
  unfold State.modGroup; split <;> simp
@[simp] theorem State.modGroup_ghosts (s : State) (g : Gid) (f : Group → Group) : (s.modGroup g f).ghosts = s.ghosts := by
  unfold State.modGroup; split <;> simp
@[simp] theorem State.modGroup_nextSeq (s : State) (g : Gid) (f : Group → Group) : (s.modGroup g f).nextSeq = s.nextSeq := by
  unfold State.modGroup; split <;> simp
@[simp] theorem State.modGroup_parts (s : State) (g : Gid) (f : Group → Group) : (s.modGroup g f).parts = s.parts := by
  unfold State.modGroup; split <;> simp
@[simp] theorem State.modGroup_net (s : State) (g : Gid) (f : Group → Group) : (s.modGroup g f).net = s.net := by
  unfold State.modGroup; split <;> simp
@[simp] theorem State.modGroup_pkg (s : State) (g : Gid) (f : Group → Group) : (s.modGroup g f).pkg = s.pkg := by
  unfold State.modGroup; split <;> simp

/-! ### Reads after writes -/

@[simp] theorem State.core_setCore (s : State) (c : Nat) (x : Core) : (s.setCore c x).core c = x := by
  simp [State.core, State.setCore]

theorem State.core_setCore_other (s : State) (c k : Nat) (x : Core) (h : k ≠ c) : (s.setCore c x).core k = s.core k := by
  simp [State.core, State.setCore, getAt_setAt_other _ _ _ _ _ h]

@[simp] theorem State.part_setCore (s : State) (c p : Nat) (x : Core) : (s.setCore c x).part p = s.part p := rfl

@[simp] theorem State.part_setCrew (s : State) (c k p : Nat) (x : Option Crew) : (s.setCrew c k x).part p = s.part p := rfl

@[simp] theorem State.part_setGroup (s : State) (g : Gid) (x : Option Group) (p : Nat) :
    (s.setGroup g x).part p = s.part p := by simp [State.part]

@[simp] theorem State.part_setPart (s : State) (p : Nat) (x : Partition) : (s.setPart p x).part p = x := by
  simp [State.part, State.setPart]

theorem State.part_setPart_other (s : State) (p q : Nat) (x : Partition) (h : q ≠ p) :
    (s.setPart p x).part q = s.part q := by
  simp [State.part, State.setPart, getAt_setAt_other _ _ _ _ _ h]

@[simp] theorem State.core_setPart (s : State) (p c : Nat) (x : Partition) : (s.setPart p x).core c = s.core c := rfl

@[simp] theorem State.crew_setPart (s : State) (p c k : Nat) (x : Partition) : (s.setPart p x).crew? c k = s.crew? c k := rfl

@[simp] theorem State.group_setPart (s : State) (p : Nat) (x : Partition) (g : Gid) :
    (s.setPart p x).group? g = s.group? g := rfl

@[simp] theorem State.die_setDie (s : State) (k : Nat) (x : Stack) : (s.setDie k x).die k = x := by
  simp [State.die, State.setDie]

@[simp] theorem State.crew_setCrew (s : State) (c k : Nat) (x : Option Crew) : (s.setCrew c k x).crew? c k = x := by
  simp [State.crew?, State.setCrew]

theorem State.crew_setCrew_other (s : State) (c k c' k' : Nat) (x : Option Crew) (h : ¬(c' = c ∧ k' = k)) :
    (s.setCrew c k x).crew? c' k' = s.crew? c' k' := by
  by_cases hc : c' = c
  · subst hc
    have hk : k' ≠ k := fun e => h ⟨rfl, e⟩
    simp [State.crew?, State.setCrew, getAt_setAt_other _ _ _ _ _ hk]
  · simp [State.crew?, State.setCrew, State.core_setCore_other _ _ _ _ hc]

/-- A group that is written is what it was written as, where its crew is resident. -/
theorem State.group_setGroup (s : State) (g : Gid) (x : Option Group) (k : Crew) (h : s.crew? g.core g.slot = some k) :
    (s.setGroup g x).group? g = x := by
  simp [State.setGroup, State.group?, h, Crew.setGroup]

/-- A resident group has a resident crew. -/
theorem State.crew_of_group (s : State) (g : Gid) (x : Group) (h : s.group? g = some x) :
    ∃ k, s.crew? g.core g.slot = some k ∧ getAt none k.groups g.grp = some x := by
  unfold State.group? at h
  split at h
  · cases h
  · exact ⟨_, ‹_›, h⟩

/-- Writing a resident group leaves every other group as it was. -/
theorem State.group_setGroup_other (s : State) (g g' : Gid) (x : Option Group) (h : g' ≠ g) :
    (s.setGroup g x).group? g' = s.group? g' := by
  unfold State.setGroup
  split
  · rfl
  · rename_i k hk
    by_cases hs : g'.core = g.core ∧ g'.slot = g.slot
    · obtain ⟨h1, h2⟩ := hs
      have h3 : g'.grp ≠ g.grp := by
        intro e; apply h; cases g; cases g'; simp_all
      simp [State.group?, h1, h2, hk, Crew.setGroup, getAt_setAt_other _ _ _ _ _ h3]
    · simp [State.group?, State.crew_setCrew_other _ _ _ _ _ _ hs]

end Sys2Proof.Machine
end

