-- ==== Sys2Proof/Laws/Issue.lean ====
section
/-! SUPPORT. Laws of the gate, of retirement and of traps: an instruction that passes runs; what a retirement and a trap change and what they leave. -/

namespace Sys2Proof.Machine

open Sys2Proof

/-- The gate of an instruction that passes. -/
theorem gate_of_passes {d : Desc} {s : State} {g : Group} (h : d.passes s g.settle = true) :
    gate d s g = .go g.settle (d.mask s g.settle) := by
  simp only [Desc.passes, Bool.and_eq_true, decide_eq_true_eq, Bool.not_eq_true', Bool.or_eq_true] at h
  obtain ⟨⟨⟨⟨⟨⟨h1, h2⟩, h3⟩, h4⟩, h5⟩, h6⟩, h7⟩ := h
  have hb : ¬ g.settle.budget < d.vtop := by omega
  simp only [Desc.guards, Desc.live, Desc.mask] at h5 h6 h7 ⊢
  simp only [gate, hb, h2, h3, h4, h5, h6, Bool.not_true, Bool.or_self, decide_false, Bool.false_eq_true, if_false]
  rcases h7 with h7 | h7
  · simp [h7]
  · simp only [Option.isNone_iff_eq_none] at h7
    split
    · rename_i r hr
      split at hr
      · have := h7.symm.trans hr
        contradiction
      · contradiction
    · rfl

/-- An instruction that is ready runs: what follows is its own effect. -/
theorem issue_of_ready {d : Desc} {s : State} {x : Group} (h : Ready d s x) (k : Group → Mask → Out) :
    issue d s k = k x (d.mask s x) := by
  obtain ⟨h1, h2⟩ := h
  cases hg : s.group? s.cur with
  | none => simp [hg] at h1
  | some g =>
    simp only [hg, Option.map_some, Option.some.injEq] at h1
    subst h1
    simp [issue, hg, gate_of_passes h2]

/-- A uniform instruction that is ready. -/
theorem uniform_of_ready {d : Desc} {s : State} {x : Group} (h : Ready d s x) (f : Group → Group) :
    uniform d s f = .next (finish s d (f x)) := issue_of_ready h _

theorem Ready.group {d : Desc} {s : State} {x : Group} (h : Ready d s x) :
    ∃ g, s.group? s.cur = some g ∧ g.settle = x := by
  obtain ⟨h1, -⟩ := h
  cases hg : s.group? s.cur with
  | none => simp [hg] at h1
  | some g => exact ⟨g, rfl, by simpa [hg] using h1⟩

/-! ### Retirement -/

/-- A crew whose group is written. -/
theorem State.crew_setGroup (s : State) (g : Gid) (x : Option Group) (k : Crew) (h : s.crew? g.core g.slot = some k) :
    (s.setGroup g x).crew? g.core g.slot = some (k.setGroup g.grp x) := by
  simp [State.setGroup, h]

@[simp] theorem finishAt_mem (s : State) (d : Desc) (g : Group) (pc : Word) : (finishAt s d g pc).mem = s.mem := by
  simp [finishAt]
@[simp] theorem finishAt_gt (s : State) (d : Desc) (g : Group) (pc : Word) : (finishAt s d g pc).gt = s.gt := by
  simp [finishAt]
@[simp] theorem finishAt_cur (s : State) (d : Desc) (g : Group) (pc : Word) : (finishAt s d g pc).cur = s.cur := by
  simp [finishAt]
@[simp] theorem finishAt_parts (s : State) (d : Desc) (g : Group) (pc : Word) : (finishAt s d g pc).parts = s.parts := by
  simp [finishAt]
@[simp] theorem finishAt_launches (s : State) (d : Desc) (g : Group) (pc : Word) :
    (finishAt s d g pc).launches = s.launches := by
  simp [finishAt]

/-- The issuing group after its retirement. -/
theorem group_finishAt (s : State) (d : Desc) (g g0 : Group) (pc : Word) (h : s.group? s.cur = some g0) :
    (finishAt s d g pc).group? s.cur = some { g.retire d.st pc with since := s.gt } := by
  obtain ⟨k, hk, -⟩ := State.crew_of_group s s.cur g0 h
  exact State.group_setGroup s s.cur _ k hk

/-- The crew of the issuing group after its retirement. -/
theorem crew_finishAt (s : State) (d : Desc) (g : Group) (pc : Word) (k : Crew)
    (h : s.crew? s.cur.core s.cur.slot = some k) :
    (finishAt s d g pc).crew? s.cur.core s.cur.slot
      = some (k.setGroup s.cur.grp (some { g.retire d.st pc with since := s.gt })) :=
  State.crew_setGroup s s.cur _ k h

/-- Retirement leaves every other group as it was. -/
theorem group_finishAt_other (s : State) (d : Desc) (g : Group) (pc : Word) (h : Gid) (hh : h ≠ s.cur) :
    (finishAt s d g pc).group? h = s.group? h :=
  State.group_setGroup_other s s.cur h _ hh

/-! ### Traps -/

/-- The entry of a trap writes no memory. -/
@[simp] theorem enterTrap_mem (s : State) (g : Gid) (c : Nat) (pc v : Word) : (enterTrap s g c pc v).mem = s.mem := by
  unfold enterTrap
  dsimp only
  split
  · split <;> simp [State.escalate]
  · rfl

@[simp] theorem Core.dropOwn_crews (c : Core) (p : Gid → Bool) : (c.dropOwn p).crews = c.crews := rfl
@[simp] theorem Core.dropOwn_escQueue (c : Core) (p : Gid → Bool) : (c.dropOwn p).escQueue = c.escQueue := rfl

/-- A trap writes no memory, whether it is entered, waits for results or is taken after an escalation. -/
@[simp] theorem takeTrapAt_mem (s : State) (g : Gid) (c : Nat) (pc v : Word) : (takeTrapAt s g c pc v).mem = s.mem := by
  unfold takeTrapAt
  dsimp only
  split
  · split
    · simp
    · simp
    · split <;> split <;> simp
  · rfl

@[simp] theorem takeTrap_mem (s : State) (c : Nat) (v : Word) : (takeTrap s c v).mem = s.mem := by
  unfold takeTrap
  split <;> simp

end Sys2Proof.Machine
end

