-- ==== Sys2Proof/Laws/Memory.lean ====
section
/-! SUPPORT. Laws of the memory operations: reading back one byte, and the canonical form that every memory operation keeps. -/

namespace Sys2Proof.Machine

open Sys2Proof

theorem cellsAbove_mono {n k : Nat} (h : n ≤ k) : ∀ m, cellsAbove k m = true → cellsAbove n m = true
  | [], _ => rfl
  | (a, b) :: r, hm => by
    simp only [cellsAbove, Bool.and_eq_true, decide_eq_true_eq] at hm ⊢
    exact ⟨⟨by omega, hm.1.2⟩, hm.2⟩

theorem cellGet_above {n a : Nat} (h : a ≤ n) : ∀ m, cellsAbove n m = true → cellGet m a = 0
  | [], _ => rfl
  | (k, b) :: r, hm => by
    simp only [cellsAbove, Bool.and_eq_true, decide_eq_true_eq] at hm
    simp only [cellGet]
    rw [if_neg (by omega), if_pos (by omega)]

theorem cellsAbove_cellSet {n a : Nat} (b : BitVec 8) (h : n < a) :
    ∀ m, cellsAbove n m = true → cellsAbove n (cellSet m a b) = true
  | [], _ => by
    simp only [cellSet]; split <;> simp_all [cellsAbove]
  | (k, c) :: r, hm => by
    simp only [cellsAbove, Bool.and_eq_true, decide_eq_true_eq] at hm
    simp only [cellSet]
    split
    · split <;> simp_all [cellsAbove]
    · split
      · split
        · exact cellsAbove_mono (by omega) r hm.2
        · simp_all [cellsAbove]
      · simp only [cellsAbove, Bool.and_eq_true, decide_eq_true_eq]
        exact ⟨hm.1, cellsAbove_cellSet b (by omega) r hm.2⟩

/-- A write keeps the canonical form. -/
theorem wf_cellSet (a : Nat) (b : BitVec 8) : ∀ m, Memory.wf m = true → Memory.wf (cellSet m a b) = true
  | [], _ => by simp only [cellSet]; split <;> simp_all [Memory.wf, cellsAbove]
  | (k, c) :: r, hm => by
    simp only [Memory.wf, Bool.and_eq_true] at hm
    simp only [cellSet]
    split
    · split <;> simp_all [Memory.wf, cellsAbove]
    · split
      · split
        · cases r with
          | nil => rfl
          | cons p r =>
            simp only [cellsAbove, Bool.and_eq_true, decide_eq_true_eq] at hm
            simp only [Memory.wf, Bool.and_eq_true]
            exact ⟨hm.2.1.2, hm.2.2⟩
        · simp_all [Memory.wf]
      · simp only [Memory.wf, Bool.and_eq_true]
        exact ⟨hm.1, cellsAbove_cellSet b (by omega) r hm.2⟩

theorem wf_cellsWrite (bs : List (BitVec 8)) :
    ∀ m a, Memory.wf m = true → Memory.wf (cellsWrite m a bs) = true := by
  induction bs with
  | nil => exact fun _ _ h => h
  | cons b bs ih => exact fun m a h => ih _ _ (wf_cellSet a b m h)

theorem wf_cellsPut (bs : List (Nat × BitVec 8)) :
    ∀ m, Memory.wf m = true → Memory.wf (cellsPut m bs) = true := by
  induction bs with
  | nil => exact fun _ h => h
  | cons p bs ih => exact fun m h => ih _ (wf_cellSet p.1 p.2 m h)

theorem cellsAbove_filter (f : Host.Cell → Bool) {n : Nat} :
    ∀ m, cellsAbove n m = true → cellsAbove n (m.filter f) = true
  | [], _ => rfl
  | (k, c) :: r, hm => by
    simp only [cellsAbove, Bool.and_eq_true, decide_eq_true_eq] at hm
    rw [List.filter_cons]
    split
    · simp only [cellsAbove, Bool.and_eq_true, decide_eq_true_eq]
      exact ⟨hm.1, cellsAbove_filter f r hm.2⟩
    · exact cellsAbove_filter f r (cellsAbove_mono (by omega) r hm.2)

/-- Dropping cells keeps the canonical form. -/
theorem wf_filter (f : Host.Cell → Bool) : ∀ m, Memory.wf m = true → Memory.wf (m.filter f) = true
  | [], _ => rfl
  | (k, c) :: r, hm => by
    simp only [Memory.wf, Bool.and_eq_true] at hm
    rw [List.filter_cons]
    split
    · simp only [Memory.wf, Bool.and_eq_true]
      exact ⟨hm.1, cellsAbove_filter f r hm.2⟩
    · refine wf_filter f r ?_
      cases r with
      | nil => rfl
      | cons p r =>
        simp only [cellsAbove, Bool.and_eq_true, decide_eq_true_eq] at hm
        simp only [Memory.wf, Bool.and_eq_true]
        exact ⟨hm.2.1.2, hm.2.2⟩

theorem wf_cellsClear (m : List Host.Cell) (a n : Nat) (h : Memory.wf m = true) :
    Memory.wf (cellsClear m a n) = true := wf_filter _ m h

/-- A byte reads back as it was written. -/
theorem cellGet_cellSet_same (a : Nat) (b : BitVec 8) :
    ∀ m, Memory.wf m = true → cellGet (cellSet m a b) a = b := by
  suffices h : ∀ m, (Memory.wf m = true ∨ ∃ n, n < a ∧ cellsAbove n m = true) → cellGet (cellSet m a b) a = b from
    fun m hm => h m (.inl hm)
  intro m
  induction m with
  | nil => intro _; simp only [cellSet]; split <;> simp_all [cellGet]
  | cons p r ih =>
    obtain ⟨k, c⟩ := p
    intro h
    have ha : cellsAbove k r = true := by
      rcases h with h | ⟨n, _, h⟩
      · simp only [Memory.wf, Bool.and_eq_true] at h; exact h.2
      · simp only [cellsAbove, Bool.and_eq_true] at h; exact h.2
    simp only [cellSet]
    split
    · split
      · simp_all [cellGet]; intro _; omega
      · simp [cellGet]
    · split
      · split
        · subst_vars; exact cellGet_above (by omega) r ha
        · simp_all [cellGet]
      · simp only [cellGet]
        rw [if_neg ‹_›, if_neg ‹_›]
        exact ih (.inr ⟨k, by omega, ha⟩)

/-- A write leaves every other byte as it was. -/
theorem cellGet_cellSet_other {a x : Nat} (b : BitVec 8) (hx : x ≠ a) :
    ∀ m, Memory.wf m = true → cellGet (cellSet m a b) x = cellGet m x := by
  suffices h : ∀ m, (Memory.wf m = true ∨ ∃ n, cellsAbove n m = true) → cellGet (cellSet m a b) x = cellGet m x from
    fun m hm => h m (.inl hm)
  intro m
  induction m with
  | nil => intro _; simp only [cellSet]; split <;> simp_all [cellGet]
  | cons p r ih =>
    obtain ⟨k, c⟩ := p
    intro h
    have ha : cellsAbove k r = true := by
      rcases h with h | ⟨n, h⟩
      · simp only [Memory.wf, Bool.and_eq_true] at h; exact h.2
      · simp only [cellsAbove, Bool.and_eq_true] at h; exact h.2
    simp only [cellSet]
    split
    · split
      · rfl
      · simp only [cellGet]
        rw [if_neg hx]
        split
        · rw [if_neg (by omega), if_pos (by omega)]
        · rfl
    · split
      · split
        · subst_vars
          simp only [cellGet]
          rw [if_neg hx]
          split
          · exact cellGet_above (by omega) r ha
          · rfl
        · subst_vars; simp [cellGet, hx]
      · simp only [cellGet]
        rw [ih (.inr ⟨k, ha⟩)]

/-- The device's own writes of HDM keep the canonical form. -/
theorem wf_writeHdm (bs : List (BitVec 8)) (p : Nat) :
    ∀ (h : Nat) (s : State), Memory.wf s.mem = true → Memory.wf (s.writeHdm p h bs).mem = true := by
  induction bs with
  | nil => exact fun _ _ h => h
  | cons b bs ih =>
    intro h s hs
    simp only [State.writeHdm]
    exact ih _ _ (wf_cellSet _ b _ hs)

/-- The device's own writes at virtual addresses keep the canonical form. -/
theorem wf_vaWrite (bs : List (BitVec 8)) (stack pasid : Nat) :
    ∀ (va : Nat) (s : State), Memory.wf s.mem = true → Memory.wf (vaWrite s stack pasid va bs).mem = true := by
  induction bs with
  | nil => exact fun _ _ h => h
  | cons b bs ih =>
    intro va s hs
    simp only [vaWrite]
    refine ih _ _ ?_
    split
    · exact wf_cellSet _ b _ hs
    · exact hs

end Sys2Proof.Machine
end

