-- ==== Sys2Proof/Laws/Operands.lean ====
section
/-! SUPPORT. Laws of the operand forms: arrays, lanes, masks, the elements of a register, and the lane-by-lane templates. -/

namespace Sys2Proof.Machine

open Sys2Proof

theorem getAt_eq_getD {α : Type} (d : α) (xs : List α) (n : Nat) : getAt d xs n = xs.getD n d := by
  induction xs generalizing n with
  | nil => simp [getAt]
  | cons x xs ih => cases n <;> simp [getAt, ih]

theorem getAt_map_range {α : Type} (d : α) (f : Nat → α) (k n : Nat) :
    getAt d ((List.range k).map f) n = if n < k then f n else d := by
  rw [getAt_eq_getD, List.getD_eq_getElem?_getD, List.getElem?_map]
  by_cases h : n < k
  · rw [List.getElem?_range h]; simp [h]
  · rw [List.getElem?_eq_none (by simpa using h)]; simp [h]

/-- The word of lane l of a list built lane by lane. -/
theorem laneGet_lanes (f : Nat → Word) {l : Nat} (h : l < 128) : laneGet (lanes.map f) l = f l := by
  simp only [laneGet, lanes, laneCount, getAt_map_range, h, if_true]

theorem foldl_mask (f : Nat → Bool) (xs : List Nat) (acc : Mask) (l : Nat) (h : l < 128) :
    (xs.foldl (fun m k => if f k then m ||| BitVec.ofNat 128 (2 ^ k) else m) acc).getLsbD l
      = (acc.getLsbD l || xs.any fun k => k == l && f k) := by
  induction xs generalizing acc with
  | nil => simp
  | cons x xs ih =>
    rw [List.foldl_cons, ih, List.any_cons]
    by_cases hf : f x = true
    · rw [if_pos hf, BitVec.getLsbD_or, BitVec.getLsbD_ofNat, Nat.testBit_two_pow]
      simp only [h, hf, decide_true, Bool.true_and, Bool.and_true, Bool.or_assoc, beq_eq_decide]
    · rw [if_neg hf, Bool.eq_false_iff.mpr hf]
      simp only [Bool.and_false, Bool.false_or]

/-- The mask of a condition. -/
theorem getLsbD_maskOf (f : Nat → Bool) {l : Nat} (h : l < 128) : (maskOf f).getLsbD l = f l := by
  rw [maskOf, foldl_mask f lanes 0 l h]
  simp only [BitVec.ofNat_eq_ofNat, BitVec.getLsbD_zero, Bool.false_or]
  rw [Bool.eq_iff_iff]
  simp only [List.any_eq_true, Bool.and_eq_true, beq_iff_eq, lanes, laneCount, List.mem_range]
  constructor
  · rintro ⟨k, _, rfl, hk⟩; exact hk
  · exact fun hl => ⟨l, h, rfl, hl⟩

/-- A lane-by-lane instruction that is ready, with an effective mask that is not all zero. -/
theorem vecOp_of_ready {q : Desc} {d : Nat} {f : Group → Nat → Word} {s : State} {x : Group}
    (h : Ready { q with masked := true, writes := [d] } s x) (hm : effMask s x ≠ 0) :
    vecOp q d f s = .next (finish s q (x.result q.min d (vecVal (effMask s x) (zeroLanes s x (effMask s x)) (f x)))) := by
  simp only [vecOp, vecMulti]
  rw [issue_of_ready h]
  simp only [Desc.mask, if_true, if_neg hm]
  rfl

/-- A lane-by-lane instruction that is ready, with an all-zero effective mask. -/
theorem vecOp_of_empty {q : Desc} {d : Nat} {f : Group → Nat → Word} {s : State} {x : Group}
    (h : Ready { q with masked := true, writes := [d] } s x) (hm : effMask s x = 0) :
    vecOp q d f s = .next (finish s q x) := by
  simp only [vecOp, vecMulti]
  rw [issue_of_ready h]
  simp only [Desc.mask, if_true, if_pos hm, finish, finishAt]

theorem foldr_pack (w : Nat) (xs : List Nat) (k : Nat) :
    (xs.foldr (fun x acc => x % 2 ^ w + 2 ^ w * acc) 0) / 2 ^ (w * k) % 2 ^ w = getAt 0 xs k % 2 ^ w := by
  induction xs generalizing k with
  | nil => simp [getAt]
  | cons x xs ih =>
    have hp : 0 < 2 ^ w := Nat.two_pow_pos w
    cases k with
    | zero => simp [getAt]
    | succ k =>
      rw [List.foldr_cons, show w * (k + 1) = w + w * k from by ring, pow_add, ← Nat.div_div_eq_div_mul,
        Nat.add_mul_div_left _ _ hp, Nat.div_eq_of_lt (Nat.mod_lt _ hp), Nat.zero_add, ih]
      rfl

/-- Element k of a register built element by element (R108). -/
theorem elemAt_elemMap (t : ETypeCode) (f : Nat → Nat) {k : Nat} (h : k < etCount t) (ht : t < 14) :
    elemAt t (elemMap t f) k = f k % 2 ^ etWidth t := by
  have hw : etWidth t * (k + 1) ≤ 32 ∧ 0 < etWidth t := by
    interval_cases t <;> simp [etCount, etWidth] at h ⊢ <;> omega
  have e1 : etWidth t * (k + 1) - 1 + 1 - etWidth t * k = etWidth t := by
    have : etWidth t * (k + 1) = etWidth t * k + etWidth t := by ring
    omega
  have key : ∀ N : Nat, N % 2 ^ 32 / 2 ^ (etWidth t * k) % 2 ^ etWidth t = N / 2 ^ (etWidth t * k) % 2 ^ etWidth t := by
    intro N
    have : (2 : Nat) ^ 32 = 2 ^ (etWidth t * k) * 2 ^ (32 - etWidth t * k) := by
      rw [← pow_add]; congr 1
      have : etWidth t * (k + 1) = etWidth t * k + etWidth t := by ring
      omega
    rw [this, Nat.mod_mul_right_div_self, Nat.mod_mod_of_dvd]
    apply Nat.pow_dvd_pow
    have : etWidth t * (k + 1) = etWidth t * k + etWidth t := by ring
    omega
  simp only [elemAt, bitsOf, elemMap, packElems, BitVec.toNat_ofNat, e1]
  rw [key, foldr_pack, getAt_map_range, if_pos h]

end Sys2Proof.Machine
end

