-- ==== Sys2Proof/Laws/Orders.lean ====
section
/-! SUPPORT. Laws of what waits: groups at issue, jobs behind the writes of their groups, tokens behind jobs, records behind slates; and of the locks of accumulator regions. -/

namespace Sys2Proof.Machine

open Sys2Proof

/-! ### Groups at issue (R53, R249) -/

/-- A group that waits issues nothing. -/
theorem canIssue_of_waiting {x : Group} (h : x.wait ≠ .none) : canIssue x = false := by
  simp [canIssue, h]

/-- A group that runs and waits for nothing can issue. -/
theorem canIssue_of_running {x : Group} (hw : x.wait = .none) (hh : x.halt = .running) : canIssue x = true := by
  simp [canIssue, hw, hh]

/-- The issuing group held at issue: nothing else of it changes, and it issues again later. -/
theorem group_holdIssue {s : State} {g : Group} (h : s.group? s.cur = some g) :
    (holdIssue s).group? s.cur = some { g with held := some s.gt, starved := false, ready := 0 } := by
  obtain ⟨k, hk, -⟩ := State.crew_of_group s s.cur g h
  simp only [holdIssue, State.modGroup, h]
  exact State.group_setGroup s s.cur _ k hk

@[simp] theorem holdIssue_mem (s : State) : (holdIssue s).mem = s.mem := by simp [holdIssue]
@[simp] theorem waitIssue_mem (s : State) (w : Wait) : (waitIssue s w).mem = s.mem := by simp [waitIssue]

/-- Time that passes changes of a halt only how long it has lasted. -/
theorem Halt.clock_running {t : Nat} {h : Halt} : h.clock t = .running ↔ h = .running := by
  cases h <;> simp [Halt.clock]

/-- To find out which groups are ready changes groups alone: what no write of a group changes stays as it is. -/
theorem settleReady_keeps {α : Type} (f : State → α) (hf : ∀ s g h, f (State.modGroup s g h) = f s)
    (run : Instr → State → Out) (s : State) : f (settleReady run s) = f s := by
  simp only [settleReady]
  generalize s.allGroups = gs
  induction gs generalizing s with
  | nil => rfl
  | cons g gs ih =>
    rw [List.foldl_cons, ih]
    split
    · split
      · rw [tryReady]; split <;> exact hf s g _
      · rfl
    · rfl

@[simp] theorem settleReady_mem (run : Instr → State → Out) (s : State) : (settleReady run s).mem = s.mem :=
  settleReady_keeps State.mem State.modGroup_mem run s
@[simp] theorem settleReady_gt (run : Instr → State → Out) (s : State) : (settleReady run s).gt = s.gt :=
  settleReady_keeps State.gt State.modGroup_gt run s
@[simp] theorem settleReady_agenda (run : Instr → State → Out) (s : State) : (settleReady run s).agenda = s.agenda :=
  settleReady_keeps State.agenda State.modGroup_agenda run s

/-- What a tick does: time goes on, by no more than it says; memory and the agenda stay. -/
theorem tickStep_gives (run : Instr → State → Out) (n : Nat) (s : State) :
    (tickStep run n s).gt = s.gt + waitmSlack s n ∧ (tickStep run n s).mem = s.mem ∧ (tickStep run n s).agenda = s.agenda := by
  simp [tickStep, advance]

/-! ### Jobs (R192, R240) -/

/-- A job that names no write waits for none. -/
@[simp] theorem storesPending_nil (s : State) (g : Gid) : storesPending s g [] = false := by
  simp [storesPending]

/-- A token that names no job waits for its time alone. -/
theorem tokenWaits_nil {s : State} {core : Nat} {j : Job} (h : j.after = []) : tokenWaits s core j = decide (s.gt < j.dueAt) := by
  have none {α : Type} (l : List α) : (l.any fun _ => false) = false := by simp
  simp [tokenWaits, h, none]

@[simp] theorem tellTokens_mem (s : State) (core id t : Nat) : (tellTokens s core id t).mem = s.mem := rfl

/-! ### Slates that are fetched back (R301) -/

/-- The slates of a key are marked once. -/
@[simp] theorem Dormer.fetchKey_fetchKey (d : Dormer) (k : BitVec 16 × Word) : (d.fetchKey k).fetchKey k = d.fetchKey k := by
  simp only [Dormer.fetchKey, List.map_map, Dormer.mk.injEq, true_and, and_true]
  refine List.map_congr_left fun x _ => ?_
  simp only [Function.comp]
  split <;> simp_all [Slate.sk]

/-! ### Locks (R286) -/

@[simp] theorem State.passLocks_mem (s : State) (n : GroupName) (o : Option GroupName) : (s.passLocks n o).mem = s.mem := rfl

/-- A lock that has passed to another name is the group's no more. -/
theorem State.passLocks_gone {s : State} {n : GroupName} {o : Option GroupName} (h : o ≠ some n) :
    ∀ c ∈ (s.passLocks n o).cores, some n ∉ c.locked := by
  simp only [State.passLocks, List.mem_map, forall_exists_index, and_imp]
  rintro _ c _ rfl
  simp only [List.mem_map, not_exists, not_and]
  intro x _
  split
  · exact h
  · assumption

end Sys2Proof.Machine
end

