-- ==== Sys2Proof/Tests/Slice0.lean ====
section
/-! SUPPORT. The author's own tests: ill-formed terms that are refused, words from the spec's encoding tables, concrete states that meet the hypotheses of the statements, and single steps with results computed by hand from the spec. -/

open Sys2Proof Sys2Proof.Machine

namespace Tests

set_option Elab.async false

/-! ### Small states -/

/-- A program slot on core 0: one group of one crew of a launch, in an enabled partition. -/
def base : State := State.reset.placeSlot

/-- The issuing group changed. -/
def at' (f : Group → Group) : State := base.modGroup ⟨0, 0, 0⟩ f

/-- The issuing group with its ready results in place. -/
def now (s : State) : Group := match s.group? s.cur with | some g => g.settle | none => Group.start

/-- Whether an instruction passes in a state. -/
def met (q : Desc) (s : State) : Bool := (s.group? s.cur).isSome && q.passes s (now s)

theorem ready_of_met {q : Desc} {s : State} (h : met q s = true) : Ready q s (now s) := by
  simp only [met, Bool.and_eq_true] at h
  cases hg : s.group? s.cur with
  | none => simp [hg] at h
  | some g => exact ⟨by simp [now, hg], h.2⟩

/-- What a next state's group, with all its results written, says. -/
def after {α : Type} (o : Out) (f : Group → α) : Option α :=
  match o with
  | .next t => (t.group? ⟨0, 0, 0⟩).map fun g => f g.drain
  | _ => none

/-- What the group says once its first outstanding result has arrived. -/
def arrived {α : Type} (o : Out) (f : Group → α) : Option α :=
  match o with
  | .next t =>
    match t.group? ⟨0, 0, 0⟩ with
    | some g => match g.outst with
      | r :: _ => after (exec (.variableLatencyResult 0 0 0 r.id) t) f
      | [] => none
    | none => none
  | _ => none

/-- What a next state says. -/
def then' {α : Type} (o : Out) (f : State → α) : Option α := match o with | .next t => some (f t) | _ => none

/-- The trap a next state's group has taken. -/
def trap (o : Out) : Option (Nat × Nat × Nat) := after o fun g => (g.tcause.toNat, g.tpc.toNat, g.tval.toNat)

/-- Scalars s0 on, with lanes 0 and 1 active. -/
def regs (l : List Word) : State := at' fun g => { g with regs := { g.regs with s := l, act := 3 } }

/-- Vector registers v0 on, each by the words of its first lanes, with lanes 0 and 1 active. -/
def vecs (l : List (List Word)) (mw : Word := 0x1F) : State :=
  at' fun g => { g with regs := { g.regs with v := l, act := 3, mw := mw } }

/-- A descriptor by its word, opcode, reads and writes. -/
def d' (i : Instr) (op : Nat) (rs ws : List Nat) (min : Nat := 0) : Desc :=
  { word := encode i, op := op, st := 0, reads := rs, writes := ws, min := min }

/-! ### Ill-formed terms: each check of WellFormed refuses one (R81, R99) -/

theorem test_refused_1 :
    Instr.wf (.jmpi 0 0 0 2) = false
    ∧ Instr.wf (.jmpi 0 1 0 0) = false
    ∧ Instr.wf (.brp 0 24 0) = false
    ∧ Instr.wf (.brpn 0 24 0) = false
    ∧ Instr.wf (.barinit 0 0 17) = false
    ∧ Instr.wf (.phint 0 61 0) = false
    ∧ Instr.wf (.phint 0 0 61) = false
    ∧ Instr.wf (.chain 0 0) = false
    ∧ Instr.wf (.chain 0 9) = false
    ∧ Instr.wf (.sysrd 0 0 0x15) = false
    ∧ Instr.wf (.syswr 0 0 0x25) = false
    ∧ Instr.wf (.syswrSet 0 0 0x29) = false
    ∧ Instr.wf (.syswrClr 0 0 0x34) = false
    ∧ Instr.wf (.waitgt 0 63 0) = false := by decide

theorem test_refused_2 :
    Instr.wf (.waitgt 0 0 2) = false
    ∧ Instr.wf (.gtime 0 63) = false
    ∧ Instr.wf (.sadd 0 0 0 0 2) = false
    ∧ Instr.wf (.ssub 0 0 0 0 2) = false
    ∧ Instr.wf (.smul 0 0 0 0 2) = false
    ∧ Instr.wf (.smulh 0 0 0 0 2) = false
    ∧ Instr.wf (.smin 0 0 0 0 2) = false
    ∧ Instr.wf (.smax 0 0 0 0 2) = false
    ∧ Instr.wf (.scmp 0 0 0 0 6) = false
    ∧ Instr.wf (.sbits 0 0 0 4) = false
    ∧ Instr.wf (.sdiv 0 0 0 0 4) = false
    ∧ Instr.wf (.vbits 0 0 0 4) = false
    ∧ Instr.wf (.vcmp 0 24 0 0 0) = false
    ∧ Instr.wf (.vcmpx 0 24 0 0 0) = false := by decide

theorem test_refused_3 :
    Instr.wf (.plog 0 24 0 0 0) = false
    ∧ Instr.wf (.plog 0 0 24 0 0) = false
    ∧ Instr.wf (.plog 0 0 0 24 0) = false
    ∧ Instr.wf (.pset 0 0 0 4) = false
    ∧ Instr.wf (.pset 0 24 0 0) = false
    ∧ Instr.wf (.pset 0 0 1 0) = false
    ∧ Instr.wf (.pset 0 0 24 2) = false
    ∧ Instr.wf (.pget 0 0 24) = false
    ∧ Instr.wf (.ballot 0 61 0) = false
    ∧ Instr.wf (.ballot 0 0 24) = false
    ∧ Instr.wf (.pfrom 0 0 2 0 0) = false
    ∧ Instr.wf (.pfrom 0 24 0 0 0) = false
    ∧ Instr.wf (.pfrom 0 0 0 0 32) = false
    ∧ Instr.wf (.pfrom 0 1 1 0 0) = false := by decide

theorem test_refused_4 :
    Instr.wf (.vred 0 0 0 9) = false
    ∧ Instr.wf (.vscan 0 0 0 0 9) = false
    ∧ Instr.wf (.fcmp 0 24 0 0 0) = false
    ∧ Instr.wf (.fcmpx 0 24 0 0 0) = false
    ∧ Instr.wf (.fspec 0 0 0 6) = false
    ∧ Instr.wf (.tblld 0 0 63 0) = false
    ∧ Instr.wf (.cvt 0 0 0 0 5) = false
    ∧ Instr.wf (.bfly 0 0 0 0 7 0) = false
    ∧ Instr.wf (.pbf 0 0 0 7) = false
    ∧ Instr.wf (.prot 0 0 0 2 1 0) = false
    ∧ Instr.wf (.ld 0 0 0 0 5) = false
    ∧ Instr.wf (.st 0 0 0 0 5) = false
    ∧ Instr.wf (.atomx 0 0 0 0 3) = false
    ∧ Instr.wf (.atomx 0 1 0 0 1) = false := by decide

theorem test_refused_5 :
    Instr.wf (.fence 0 0 3) = false
    ∧ Instr.wf (.waitm 0 61 0 0) = false
    ∧ Instr.wf (.capsub 0 0 0 61) = false
    ∧ Instr.wf (.capinfo 0 61 0) = false
    ∧ Instr.wf (.cpy 0 62 0 0 0) = false
    ∧ Instr.wf (.cpy 0 0 1 0 2) = false
    ∧ Instr.wf (.cpy 0 0 0 1 1) = false
    ∧ Instr.wf (.cpyt 0 62 0 0 0 0) = false
    ∧ Instr.wf (.cpyt 0 0 0 1 0 0) = false
    ∧ Instr.wf (.cpyt 0 0 1 1 0 1) = false
    ∧ Instr.wf (.cpym 0 62 0 0 0) = false
    ∧ Instr.wf (.cpym 0 0 1 0 1) = false
    ∧ Instr.wf (.cpyg 0 62 0 0) = false
    ∧ Instr.wf (.cpyg 0 0 0 10) = false := by decide

theorem test_refused_6 :
    Instr.wf (.cpys 0 0 0 10) = false
    ∧ Instr.wf (.cred 0 62 0 0 0 0) = false
    ∧ Instr.wf (.cred 0 0 1 0 0 2) = false
    ∧ Instr.wf (.cred 0 0 0 1 0 1) = false
    ∧ Instr.wf (.ctoken 0 0 0 62 0) = false
    ∧ Instr.wf (.ctoken 0 0 0 0 2) = false
    ∧ Instr.wf (.mlay 0 0 57) = false
    ∧ Instr.wf (.mlayGet 0 0 57) = false
    ∧ Instr.wf (.mmas 0 0 0 0 0 9) = false
    ∧ Instr.wf (.accz 0 0 5) = false
    ∧ Instr.wf (.accld 0 62 0 0 0) = false
    ∧ Instr.wf (.accld 0 0 1 0 0) = false
    ∧ Instr.wf (.accst 0 62 0 0 0 0 0) = false
    ∧ Instr.wf (.accst 0 0 1 0 0 0 0) = false := by decide

theorem test_refused_7 :
    Instr.wf (.accalloc 0 0 0 24) = false
    ∧ Instr.wf (.accalloc 0 0 5 0) = false
    ∧ Instr.wf (.accallocQ 0 63) = false
    ∧ Instr.wf (.accfree 0 0 5) = false
    ∧ Instr.wf (.wmark 0 63) = false
    ∧ Instr.wf (.rpost 0 0 0 2) = false
    ∧ Instr.wf (.rpost 0 0 1 0) = false
    ∧ Instr.wf (.cntwait 0 0 62 0) = false
    ∧ Instr.wf (.cntwait 0 0 0 2) = false
    ∧ Instr.wf (.cancel 0 0 4) = false
    ∧ Instr.wf (.pfx 24 0 0 0 0 0) = false
    ∧ Instr.wf (.pfx 31 1 0 0 0 0) = false
    ∧ Instr.wf (.pfx 0 0 0 6 0 0) = false := by decide

/-! ### Words written out bit by bit from the spec (R26, R79, R98 to R102) -/

theorem test_decode_control_1 :
    decode 0b100_00000000_000000000000000000000 = .ok (.nop 4)
    ∧ decode 0b010_00000001_000111010010111100111 = .ok (.bra 2 239079)
    ∧ decode 0b010_00000010_010101010001010010010 = .ok (.call 2 696978)
    ∧ decode 0b100_00000011_000000000000000000000 = .ok (.ret 4)
    ∧ decode 0b010_00000100_110100_010100_000000_001 = .ok (.jmpi 2 52 20 1)
    ∧ decode 0b000_00000101_110110_100010010000111 = .ok (.brnz 0 54 17543)
    ∧ decode 0b010_00000110_001110_100101110110000 = .ok (.brz 2 14 19376)
    ∧ decode 0b101_00000111_100110110111000000001 = .ok (.ssy 5 1273345)
    ∧ decode 0b111_00001000_00101_0100110011101000 = .ok (.brp 7 5 19688)
    ∧ decode 0b011_00001001_10001_0000010100101010 = .ok (.brpn 3 17 1322)
    ∧ decode 0b110_00001010_000000000000000000000 = .ok (.sync 6)
    ∧ decode 0b010_00001011_110100_000001001101110 = .ok (.loop 2 52 622) := by decide

theorem test_decode_control_2 :
    decode 0b000_00001100_000000000000000000000 = .ok (.exit 0)
    ∧ decode 0b100_00001101_0110_00000000000000000 = .ok (.bar 4 6)
    ∧ decode 0b111_00001101_1010_01000000000000000 = .ok (.barArv 7 10)
    ∧ decode 0b011_00001101_0011_10000000000000000 = .ok (.barWait 3 3)
    ∧ decode 0b010_00001110_0011_00_000000000000000 = .ok (.barinit 2 3 0)
    ∧ decode 0b110_00001111_000100_010010_000000000 = .ok (.phint 6 4 18)
    ∧ decode 0b110_00010000_010111110110111111101 = .ok (.setmw 6 781821)
    ∧ decode 0b100_00010001_011000_000000000000000 = .ok (.getmw 4 24)
    ∧ decode 0b010_00010010_000000000000000000010 = .ok (.chain 2 2)
    ∧ decode 0b010_00010011_010110100100100000011 = .ok (.trap 2 739587)
    ∧ decode 0b100_00010100_000000000000000000000 = .ok (.rft 4)
    ∧ decode 0b011_00010100_000000000000000000001 = .ok (.rftNext 3) := by decide

theorem test_decode_control_3 :
    decode 0b000_00010101_100101011111001101010 = .ok (.esc 0 1228394)
    ∧ decode 0b011_00010110_100110110110011111111 = .ok (.brkpt 3 1273087)
    ∧ decode 0b010_00010111_000010_000000000000_000 = .ok (.sysrd 2 2 0)
    ∧ decode 0b010_00011000_000001_000000000000_001 = .ok (.syswr 2 1 0)
    ∧ decode 0b010_00011000_000001_000000000001_010 = .ok (.syswrSet 2 1 1)
    ∧ decode 0b001_00011000_000000_000000000000_011 = .ok (.syswrClr 1 0 0)
    ∧ decode 0b110_00011001_000000_000101_000000_000 = .ok (.waitgt 6 5 0)
    ∧ decode 0b101_00011010_110110_000000000000000 = .ok (.gtime 5 54)
    ∧ decode 0b111_00011011_011110101000010000000 = .ok (.ipref 7 1003648) := by decide

theorem test_decode_scalar_1 :
    decode 0b101_00100000_010110_001100_001000_001 = .ok (.sadd 5 22 12 8 1)
    ∧ decode 0b111_00100001_011110_100111_101110_000 = .ok (.ssub 7 30 39 46 0)
    ∧ decode 0b100_00100010_111101_101111_110101_000 = .ok (.smul 4 61 47 53 0)
    ∧ decode 0b101_00100011_100101_100111_111100_001 = .ok (.smulh 5 37 39 60 1)
    ∧ decode 0b111_00100100_111111_111100_101011_000 = .ok (.sand 7 63 60 43)
    ∧ decode 0b011_00100101_100001_000111_111011_000 = .ok (.sor 3 33 7 59)
    ∧ decode 0b100_00100110_011110_110100_111010_000 = .ok (.sxor 4 30 52 58)
    ∧ decode 0b001_00100111_001101_000101_110001_000 = .ok (.sshl 1 13 5 49)
    ∧ decode 0b000_00101000_101011_001010_011110_000 = .ok (.sshr 0 43 10 30)
    ∧ decode 0b010_00101001_100110_100101_010011_000 = .ok (.ssra 2 38 37 19)
    ∧ decode 0b101_00101010_110100_001100_000100_000 = .ok (.smin 5 52 12 4 0)
    ∧ decode 0b010_00101011_000111_001110_101110_001 = .ok (.smax 2 7 14 46 1) := by decide

theorem test_decode_scalar_2 :
    decode 0b011_00101100_001000_110000_001001_100 = .ok (.scmp 3 8 48 9 4)
    ∧ decode 0b000_00101101_001100_000111_011110_000 = .ok (.ssel 0 12 7 30)
    ∧ decode 0b001_00101110_001001_111010_110011101 = .ok (.saddi 1 9 58 413)
    ∧ decode 0b101_00101111_101000_101011000100010 = .ok (.smovi 5 40 22050)
    ∧ decode 0b101_00110000_011001_100011010010001 = .ok (.smovh 5 25 18065)
    ∧ decode 0b100_00110001_110011_110101_000000_011 = .ok (.sbits 4 51 53 3)
    ∧ decode 0b101_00110010_001001_001000_100101_010 = .ok (.sdiv 5 9 8 37 2)
    ∧ decode 0b010_00110011_1111011_001110_00000000 = .ok (.s2v 2 123 14)
    ∧ decode 0b101_00110100_0011010_101101_0_1001100 = .ok (.v2s 5 26 45 76) := by decide

theorem test_decode_vector_integer_1 :
    decode 0b101_01000000_0110100_0111101_1100001 = .ok (.vadd 5 52 61 97)
    ∧ decode 0b011_01000001_1010000_1111001_1100000 = .ok (.vsub 3 80 121 96)
    ∧ decode 0b010_01000010_0001100_0111100_0100001 = .ok (.vmul 2 12 60 33)
    ∧ decode 0b101_01000011_0100000_0011010_1010110 = .ok (.vmulh 5 32 26 86)
    ∧ decode 0b111_01000100_0001001_0111001_0111000 = .ok (.vmad 7 9 57 56)
    ∧ decode 0b001_01000101_1010101_1011101_1010011 = .ok (.vand 1 85 93 83)
    ∧ decode 0b001_01000110_0100111_0001000_0010100 = .ok (.vor 1 39 8 20)
    ∧ decode 0b100_01000111_1100011_0001001_1101101 = .ok (.vxor 4 99 9 109)
    ∧ decode 0b111_01001000_0011000_0100110_1100111 = .ok (.vshl 7 24 38 103)
    ∧ decode 0b100_01001001_1001010_1010100_1110011 = .ok (.vshr 4 74 84 115)
    ∧ decode 0b110_01001010_0101110_1101111_0110001 = .ok (.vsra 6 46 111 49)
    ∧ decode 0b000_01001011_1010010_1110100_1000110 = .ok (.vmin 0 82 116 70) := by decide

theorem test_decode_vector_integer_2 :
    decode 0b001_01001100_1001000_0011001_0111001 = .ok (.vmax 1 72 25 57)
    ∧ decode 0b111_01001101_1110001_0100001_0110001 = .ok (.vabsd 7 113 33 49)
    ∧ decode 0b010_01001110_0100111_0100010_1011001 = .ok (.vaddi 2 39 34 89) := by decide

theorem test_decode_vector_words_1 :
    decode 0b100_01001111_1000001_01101111110010 = .ok (.vmovi 4 65 7154)
    ∧ decode 0b100_01010000_1101101_1000000_0000011 = .ok (.vbits 4 109 64 3)
    ∧ decode 0b001_01010001_1000110_1011011_1010011 = .ok (.vaddc 1 70 91 83)
    ∧ decode 0b011_01010010_0011101_0110001_1011010 = .ok (.vsubb 3 29 49 90)
    ∧ decode 0b011_01010011_01000_00_1011111_1111001 = .ok (.vcmp 3 8 0 95 121)
    ∧ decode 0b001_01010100_01111_11_1010111_1110011 = .ok (.vcmpx 1 15 3 87 115)
    ∧ decode 0b110_01010101_1010010_0100101_0101110 = .ok (.vsel 6 82 37 46)
    ∧ decode 0b010_01010110_0111110_0100001_0000000 = .ok (.vmov 2 62 33)
    ∧ decode 0b011_01010111_00000_01000_01010_111_000 = .ok (.plog 3 0 8 10 7)
    ∧ decode 0b110_01011000_00010_10010_00000_010_000 = .ok (.pset 6 2 18 2)
    ∧ decode 0b100_01011001_0100001_0000000_0010000 = .ok (.pget 4 33 16)
    ∧ decode 0b100_01011010_0000000_010110_000_10101 = .ok (.ballot 4 22 21) := by decide

theorem test_decode_vector_words_2 :
    decode 0b110_01011011_01110_00_0000110_0011000 = .ok (.pfrom 6 14 0 6 24)
    ∧ decode 0b010_01011100_0111011_1010000_0100010 = .ok (.shfl 2 59 80 34)
    ∧ decode 0b011_01011101_1010101_1100010_0111000 = .ok (.shflx 3 85 98 56)
    ∧ decode 0b001_01011110_1101000_1010000_0110001 = .ok (.bcast 1 104 80 49)
    ∧ decode 0b001_01011111_0101000_0111111_000_0010 = .ok (.vred 1 40 63 2)
    ∧ decode 0b101_01100000_0100010_0001101_00_1_0011 = .ok (.vscan 5 34 13 1 3)
    ∧ decode 0b000_01100001_0001100_00000000000000 = .ok (.laneid 0 12)
    ∧ decode 0b101_01100010_1010000_00000000000000 = .ok (.rng 5 80) := by decide

theorem test_decode_float_1 :
    decode 0b001_10000000_1011000_1000100_1001101 = .ok (.fadd 1 88 68 77)
    ∧ decode 0b111_10000001_1101110_0100101_1101110 = .ok (.fsub 7 110 37 110)
    ∧ decode 0b100_10000010_0010000_1000000_1110011 = .ok (.fmul 4 16 64 115)
    ∧ decode 0b001_10000011_0001110_0110010_0110101 = .ok (.ffma 1 14 50 53)
    ∧ decode 0b101_10000100_1111001_0010010_0001100 = .ok (.fmin 5 121 18 12)
    ∧ decode 0b100_10000101_1110010_1110101_1000111 = .ok (.fmax 4 114 117 71)
    ∧ decode 0b111_10000110_1101101_1101010_0000000 = .ok (.fabs 7 109 106)
    ∧ decode 0b011_10000111_1000111_1001000_0000000 = .ok (.fneg 3 71 72)
    ∧ decode 0b100_10001000_01000_00_0111001_1010010 = .ok (.fcmp 4 8 0 57 82)
    ∧ decode 0b011_10001001_10000_01_1101100_0011111 = .ok (.fcmpx 3 16 1 108 31)
    ∧ decode 0b011_10001010_1101100_0110100_0000000 = .ok (.fclass 3 108 52)
    ∧ decode 0b011_10001011_1001001_0100111_0000000 = .ok (.frnd 3 73 39) := by decide

theorem test_decode_float_2 :
    decode 0b001_10001100_1000101_0001000_0101001 = .ok (.fdiv 1 69 8 41)
    ∧ decode 0b001_10001101_1000100_0101001_0000000 = .ok (.fsqrt 1 68 41)
    ∧ decode 0b111_10001110_0001010_1010100_0000011 = .ok (.fspec 7 10 84 3)
    ∧ decode 0b100_10001111_1010001_0101100_000000_1 = .ok (.tblev 4 81 44 1)
    ∧ decode 0b110_10010000_000000_011001_110010_00_1 = .ok (.tblld 6 25 50 1)
    ∧ decode 0b001_10010001_00000000000000000000_1 = .ok (.tblsw 1 1)
    ∧ decode 0b000_10010010_1010100_0111001_0100_010 = .ok (.cvt 0 84 57 4 2)
    ∧ decode 0b111_10010011_0001111_001010_00000000 = .ok (.rqnt 7 15 10)
    ∧ decode 0b111_10010100_1101001_0000101_0111100 = .ok (.dot4 7 105 5 60)
    ∧ decode 0b001_10010101_1110101_0011001_0101101 = .ok (.dot8 1 117 25 45)
    ∧ decode 0b110_10010110_0001110_1001101_1011111 = .ok (.dot2 6 14 77 95)
    ∧ decode 0b001_10010111_1100000_1010111_1000010 = .ok (.pack 1 96 87 66) := by decide

theorem test_decode_float_3 :
    decode 0b111_10011000_0000111_1100110_000000_1 = .ok (.unpk 7 7 102 1) := by decide

theorem test_decode_modular_1 :
    decode 0b011_10100000_000000000000_10101_0000 = .ok (.setq 3 21)
    ∧ decode 0b011_10100001_000000000000_11111_0000 = .ok (.getq 3 31)
    ∧ decode 0b101_10100010_0011100_1001110_0100000 = .ok (.maddq 5 28 78 32)
    ∧ decode 0b001_10100011_1111010_0001100_1000000 = .ok (.msubq 1 122 12 64)
    ∧ decode 0b010_10100100_1101110_0110011_0000000 = .ok (.mnegq 2 110 51)
    ∧ decode 0b101_10100101_0010110_1110010_0001010 = .ok (.mmulq 5 22 114 10)
    ∧ decode 0b011_10100110_011101_001100_01001_0000 = .ok (.mmuls 3 29 12 9)
    ∧ decode 0b000_10100111_1110101_0000010_1100101 = .ok (.mfmaq 0 117 2 101)
    ∧ decode 0b101_10101000_0011111_1101010_0000000 = .ok (.mredq 5 31 106)
    ∧ decode 0b100_10101001_1011001_1111000_0000000 = .ok (.mctrq 4 89 120)
    ∧ decode 0b011_10101010_011100_000101_00001_110_1 = .ok (.bfly 3 28 5 1 6 1)
    ∧ decode 0b001_10101011_100111_100111_00000_000_0 = .ok (.pbf 1 39 39 0) := by decide

theorem test_decode_modular_2 :
    decode 0b111_10101100_100110_011100_00000_000_0 = .ok (.pbrev 7 38 28 0)
    ∧ decode 0b001_10101101_110011_100010_11110_101_0 = .ok (.prot 1 51 34 30 5 0)
    ∧ decode 0b010_10101110_0110110_1110010_1101101 = .ok (.mulw 2 54 114 109)
    ∧ decode 0b011_10101111_1001000_1000011_0000000 = .ok (.mshoup 3 72 67) := by decide

theorem test_decode_memory :
    decode 0b000_10110000_1011000_0000_0101100_100 = .ok (.ld 0 88 0 44 4)
    ∧ decode 0b010_10110001_0000111_0010_0010011_011 = .ok (.st 2 7 2 19 3)
    ∧ decode 0b110_10110010_0110101_0011011_0010111 = .ok (.lds 6 53 27 23)
    ∧ decode 0b111_10110011_1111100_0100000_1100101 = .ok (.sts 7 124 32 101)
    ∧ decode 0b001_10110100_111010_1010_11111011101 = .ok (.ldu 1 58 10 2013)
    ∧ decode 0b001_10110101_000010_1010_00001001010 = .ok (.stu 1 2 10 74)
    ∧ decode 0b010_10110110_1111101_1000_1111110_010 = .ok (.atom 2 125 8 126 2)
    ∧ decode 0b011_10110111_0000110_0001_0011100_000 = .ok (.atomx 3 6 1 28 0) := by decide

theorem test_decode_fences_and_capabilities :
    decode 0b111_10111000_0001010_0000_1000011_000 = .ok (.atoms 7 10 67 0)
    ∧ decode 0b100_10111001_00000000000000000_11_00 = .ok (.fence 4 3 0)
    ∧ decode 0b101_10111010_100100_0011_10000010101 = .ok (.waitm 5 36 3 1045)
    ∧ decode 0b010_10111011_00_1100_0010_11101010101 = .ok (.capld 2 12 2 1877)
    ∧ decode 0b010_10111100_00_1101_1111_11111011000 = .ok (.capst 2 13 15 2008)
    ∧ decode 0b101_10111101_00_0101_00_1001_110011_000 = .ok (.capsub 5 5 9 51)
    ∧ decode 0b011_10111110_001111_00_0110_000000000 = .ok (.capinfo 3 15 6)
    ∧ decode 0b110_10111111_011100_100010_011100_000 = .ok (.bmode 6 28 34 28)
    ∧ decode 0b101_10111111_100111_011111_000000001 = .ok (.bmodeQ 5 39 31) := by decide

theorem test_decode_copies_1 :
    decode 0b001_11000000_100111_0000_0010_00000_00 = .ok (.cpy 1 39 0 2 0)
    ∧ decode 0b110_11000001_011001_0010_0000_110_000_0 = .ok (.cpyt 6 25 2 0 6 0)
    ∧ decode 0b110_11000001_011001_0000_0010_110_000_1 = .ok (.cpyt 6 25 0 2 6 1)
    ∧ decode 0b111_11000010_111000_1010_0000_001_000_0 = .ok (.cpym 7 56 10 1 0)
    ∧ decode 0b110_11000011_111001_1111_0000000_0100 = .ok (.cpyg 6 57 15 4)
    ∧ decode 0b111_11000100_000000_0000_0010_000_0111 = .ok (.cpys 7 0 2 7)
    ∧ decode 0b101_11000101_100111_1101_0111_000_11_00 = .ok (.cred 5 39 13 7 3 0)
    ∧ decode 0b101_11000110_111100_000000000000000 = .ok (.cbatch 5 60)
    ∧ decode 0b001_11000111_000010_0000000000000_01 = .ok (.cwait 1 2 1)
    ∧ decode 0b001_11001000_101011_0000000000000_00 = .ok (.ctest 1 43 0)
    ∧ decode 0b101_11001001_00_0011_001010_110100_001 = .ok (.ctoken 5 3 10 52 1)
    ∧ decode 0b111_11001010_000_001_101100_000000000 = .ok (.boinit 7 1 44)
    ∧ decode 0b000_11001011_000_101_000000000000000 = .ok (.bowait 0 5) := by decide

theorem test_decode_copies_2 :
    decode 0b110_11001100_110011_000_101_000000000 = .ok (.botest 6 51 5) := by decide

theorem test_decode_matrix_1 :
    decode 0b111_11010000_000_100_100001_000000000 = .ok (.mlay 7 4 33)
    ∧ decode 0b001_11010000_000_010_000001_000000001 = .ok (.mlayGet 1 2 1)
    ∧ decode 0b101_11010001_000000_010010_000000000 = .ok (.mgang 5 18)
    ∧ decode 0b000_11010001_011010_000000000000001 = .ok (.mgangGet 0 26)
    ∧ decode 0b000_11010010_000100_0010101_001_0_0000 = .ok (.mma 0 4 21 1 0)
    ∧ decode 0b011_11010011_101100_0010111_001_0_0110 = .ok (.mmas 3 44 23 1 0 6)
    ∧ decode 0b110_11010100_100101_000000000000_011 = .ok (.accz 6 37 3)
    ∧ decode 0b001_11010101_010110_1101_0000_101_000_1 = .ok (.accld 1 22 13 5 1)
    ∧ decode 0b100_11010110_101101_0000_0111_001_00_1_1 = .ok (.accst 4 45 7 1 0 1 1)
    ∧ decode 0b100_11010111_101100_0000000_000_01101 = .ok (.accalloc 4 44 0 13)
    ∧ decode 0b111_11010111_010100_000000100000000 = .ok (.accallocQ 7 20)
    ∧ decode 0b100_11011000_000000_000000_0_000_00000 = .ok (.accfree 4 0 0) := by decide

theorem test_decode_matrix_2 :
    decode 0b001_11011001_000000000000000000000 = .ok (.mrel 1) := by decide

theorem test_decode_windows :
    decode 0b101_11100000_000000000000000000000 = .ok (.wyield 5)
    ∧ decode 0b011_11100001_000000000000000000000 = .ok (.wclose 3)
    ∧ decode 0b011_11100010_1110100_000000000000_1_0 = .ok (.wemit 3 116 1 0)
    ∧ decode 0b000_11100011_000000000000000000000 = .ok (.wmerge 0)
    ∧ decode 0b010_11100100_0010000_0000000000000_0 = .ok (.winfo 2 16 0)
    ∧ decode 0b101_11100101_001001_000000000000000 = .ok (.wmark 5 9)
    ∧ decode 0b011_11100110_0000001_0000011_0000011 = .ok (.rpost 3 1 3 3)
    ∧ decode 0b101_11100111_0101100_0011101_0000000 = .ok (.bpost 5 44 29)
    ∧ decode 0b111_11101000_0000000_1101100_0000000 = .ok (.wext 7 108) := by decide

theorem test_decode_scheduling :
    decode 0b010_11101001_000000_100100_000000000 = .ok (.wdq 2 36)
    ∧ decode 0b000_11101010_000000000000000_1_01_110 = .ok (.srwait 0 1 1 6)
    ∧ decode 0b110_11101011_0000000000000000_11_110 = .ok (.srsig 6 3 6)
    ∧ decode 0b101_11101100_100000_111101_000000_001 = .ok (.cntwait 5 32 61 1)
    ∧ decode 0b011_11101101_000000_110110_000000_001 = .ok (.cancel 3 54 1)
    ∧ decode 0b010_11101110_100000_101010_00_1110_000 = .ok (.launchq 2 32 42 14) := by decide

theorem test_decode_prefix :
    decode 0b000_11111110_10000_1_0_100_0011_1100101 = .ok (.pfx 16 1 0 4 3 101) := by decide

/-- SRWAIT.R 0, s5 and SRSIG.R 1, s5 (R332). -/
theorem test_decode_ring_forms :
    decode 0b000_11101010_000000_000101_001000000 = .ok (.srwaitR 0 5 0)
    ∧ decode 0b000_11101011_000000_000101_001001000 = .ok (.srsigR 0 5 1) := by decide

/-- Reserved fields are refused, and an opcode that no instruction has is told apart (R81, R103). -/
theorem test_decode_reserved :
    decode 0b000_00001100_000000000000000000001 = .error (.reserved "EXIT")
    ∧ decode 0b000_00100000_000001_000001_000001_010 = .error (.reserved "SADD")
    ∧ decode 0b000_11111111_000000000000000000000 = .ok (.undefinedOpcode 0x1FE00000) := by decide

/-- A word of the table, laid out as the hardware stores it (R26). -/
theorem test_decode_table_word :
    decodeTableWord 32 0x1D400023 = some (.srwait 0 1 0 3) ∧ decodeTableWord 32 0x01800001 = none := by decide

/-- The encoder writes the words of the spec's tables (R332, R127). -/
theorem test_encode_words :
    encode (.srwait 0 1 0 3) = 0x1D400023 ∧ encode (.srsig 0 1 3) = 0x1D60000B ∧ encode (.srwaitR 0 5 0) = 0x1D400A40 := by decide

/-! ### Scalars: states that meet the hypotheses, and single steps -/

theorem test_meets_scalar_arithmetic :
    Ready (d' (.sadd 0 3 1 2 0) 0x20 [codeS 1, codeS 2] [codeS 3]) (regs [0, 5, 7]) (now (regs [0, 5, 7])) :=
  ready_of_met (by decide)

theorem test_meets_scalar_logic :
    Ready (d' (.ssel 0 3 1 2) 0x2D [codeS 3, codeS 1, codeS 2] [codeS 3]) (regs [0, 5, 7]) (now (regs [0, 5, 7])) :=
  ready_of_met (by decide)

theorem test_meets_scalar_immediate :
    Ready (d' (.smovh 0 3 1) 0x30 [codeS 3] [codeS 3]) (regs []) (now (regs []))
    ∧ Ready { word := encode (.v2s 0 3 1 2), op := 0x34, st := 0, vtop := 2, reads := [1], writes := [codeS 3], min := 1 }
        (regs []) (now (regs [])) := ⟨ready_of_met (by decide), ready_of_met (by decide)⟩

/-- A state whose MW has TEDZ set, with a divisor of 0. -/
def divZero : State := at' fun g => { g with regs := { g.regs with s := [0, 7, 0], mw := 0x1F + 2 ^ 18 } }

theorem test_meets_scalar_divide :
    (let q := d' (.sdiv 0 3 1 2 0) 0x32 [codeS 1, codeS 2] [codeS 3]
     (Ready q (regs [0, 7, 2]) (now (regs [0, 7, 2])) ∧ (now (regs [0, 7, 2])).regs.readS 2 ≠ 0)
     ∧ (Ready q (regs [0, 7, 0]) (now (regs [0, 7, 0])) ∧ (now (regs [0, 7, 0])).regs.readS 2 = 0
        ∧ mwTedz (now (regs [0, 7, 0])).regs.mw = false)
     ∧ (Ready q divZero (now divZero) ∧ (now divZero).regs.readS 2 = 0 ∧ mwTedz (now divZero).regs.mw = true)) :=
  ⟨⟨ready_of_met (by decide), by decide⟩, ⟨ready_of_met (by decide), by decide, by decide⟩,
    ⟨ready_of_met (by decide), by decide, by decide⟩⟩

/-- 0xFFFFFFFF + 2 is 1 modulo 2^32 (R140). -/
theorem test_sadd_wraps : after (exec (.sadd 0 3 1 2 0) (regs [0, 0xFFFFFFFF, 2])) (fun g => g.regs.readS 3) = some 1 := by decide

/-- 3 − 5 is −2; the destination is a source (R140, R34). -/
theorem test_ssub_in_place : after (exec (.ssub 0 1 1 2 0) (regs [0, 3, 5])) (fun g => g.regs.readS 1) = some 0xFFFFFFFE := by decide

/-- −1 times −1: the high word is 0 signed and 0xFFFFFFFE unsigned (R140). -/
theorem test_smulh :
    after (exec (.smulh 0 3 1 1 0) (regs [0, 0xFFFFFFFF])) (fun g => g.regs.readS 3) = some 0
    ∧ after (exec (.smulh 0 3 1 1 1) (regs [0, 0xFFFFFFFF])) (fun g => g.regs.readS 3) = some 0xFFFFFFFE := by decide

/-- A shift by 32 gives 0, and all sign bits for SSRA (R140). -/
theorem test_shift_by_width :
    after (exec (.sshl 0 3 1 2) (regs [0, 1, 32])) (fun g => g.regs.readS 3) = some 0
    ∧ after (exec (.ssra 0 3 1 2) (regs [0, 0x80000000, 32])) (fun g => g.regs.readS 3) = some 0xFFFFFFFF := by decide

/-- −1 < 0 signed, and not unsigned (R140). -/
theorem test_scmp_signs :
    after (exec (.scmp 0 3 1 2 2) (regs [0, 0xFFFFFFFF, 0])) (fun g => g.regs.readS 3) = some 1
    ∧ after (exec (.scmp 0 3 1 2 4) (regs [0, 0xFFFFFFFF, 0])) (fun g => g.regs.readS 3) = some 0 := by decide

/-- SMOVI of −1, then the immediate of SMOVH below 15 shifted bits (R141). -/
theorem test_smovi_smovh :
    after (exec (.smovi 0 3 0x7FFF) (regs [])) (fun g => g.regs.readS 3) = some 0xFFFFFFFF
    ∧ after (exec (.smovh 0 1 5) (regs [0, 2])) (fun g => g.regs.readS 1) = some 65541 := by decide

/-- CLZ and CTZ of 0 give 32; REV takes bit 0 to bit 31 (R141). -/
theorem test_sbits :
    after (exec (.sbits 0 3 1 1) (regs [0, 0])) (fun g => g.regs.readS 3) = some 32
    ∧ after (exec (.sbits 0 3 1 2) (regs [0, 8])) (fun g => g.regs.readS 3) = some 3
    ∧ after (exec (.sbits 0 3 1 3) (regs [0, 1])) (fun g => g.regs.readS 3) = some 0x80000000 := by decide

/-- A division by 0 sets DZ, and traps with cause 0x21 under MW.TEDZ (R141, R120). -/
theorem test_sdiv_by_zero :
    after (exec (.sdiv 0 3 1 2 0) (regs [0, 7, 0])) (fun g => g.regs.flags) = some 2
    ∧ trap (exec (.sdiv 0 3 1 2 0) divZero) = some (0x21, 0, 0) := by decide

/-! ### Vectors -/

/-- Two lanes: v1 = 5, −1 and v2 = 7, 1. -/
def pair' : State := vecs [[], [5, 0xFFFFFFFF], [7, 1]]

theorem test_meets_vector_arithmetic :
    Ready { vDesc (encode (.vadd 0 3 1 2)) 0x40 0 0 setI 3 [1, 2] with masked := true, writes := [3] } pair' (now pair')
    ∧ effMask pair' (now pair') ≠ 0 := ⟨ready_of_met (by decide), by decide⟩

/-- A state with no active lane. -/
def noLane : State := at' fun g => { g with regs := { g.regs with act := 0 } }

theorem test_meets_empty_mask :
    Ready { vDesc (encode (.vand 0 3 1 2)) 0x45 0 0 setA 3 [1, 2] with masked := true, writes := [3] } noLane (now noLane)
    ∧ effMask noLane (now noLane) = 0 := ⟨ready_of_met (by decide), by decide⟩

theorem test_meets_vector_words :
    Ready { vDesc (encode (.rng 0 3)) 0x62 0 1 setA 3 [] with masked := true, writes := [3] } pair' (now pair')
    ∧ Ready { word := encode (.s2v 0 3 1), op := 0x33, st := 0, vtop := 4, reads := [codeS 1], writes := [3], min := 1 } pair' (now pair')
    ∧ (now pair').regs.act ≠ 0 := ⟨ready_of_met (by decide), ready_of_met (by decide), by decide⟩

theorem test_meets_vector_predicates :
    Ready { word := encode (.vcmp 0 4 0 1 2), op := 0x53, st := 0, vtop := topOf [1, 2], types := setW, reads := [1, 2]
            masked := true, writes := [codeP 4] } pair' (now pair') ∧ effMask pair' (now pair') ≠ 0 :=
  ⟨ready_of_met (by decide), by decide⟩

theorem test_meets_carries_and_ballot :
    Ready { vDesc (encode (.vaddc 0 3 1 2)) 0x51 0 0 setA 3 [1, 2] with
            masked := true, reads := [1, 2, codeP 23], writes := [3, codeP 23] } pair' (now pair')
    ∧ Ready { word := encode (.ballot 0 60 1), op := 0x5A, st := 0, masked := true, reads := [codeP 1]
              writes := [codeS 60, codeS 61, codeS 62, codeS 63], fixed := [codeS 60, codeS 61, codeS 62, codeS 63] } noLane (now noLane) :=
  ⟨ready_of_met (by decide), ready_of_met (by decide)⟩

theorem test_meets_vector_reductions :
    Ready { vDesc (encode (.vred 0 3 1 5)) 0x5F 0 2 setW 3 [1] with masked := true, writes := [3], fixed := [3] } pair' (now pair')
    ∧ Ready { vDesc (encode (.vscan 0 3 1 1 0)) 0x60 0 2 setW 3 [1] with masked := true, writes := [3] } pair' (now pair')
    ∧ effMask pair' (now pair') ≠ 0 := ⟨ready_of_met (by decide), ready_of_met (by decide), by decide⟩

/-- Lane 0: 5 + 7; lane 1: −1 + 1; lane 2 is not active and keeps its word (R145, R36). -/
theorem test_vadd_lanes :
    after (exec (.vadd 0 3 1 2) pair') (fun g => (g.regs.readV 3 0, g.regs.readV 3 1)) = some (12, 0)
    ∧ after (exec (.vadd 0 1 1 2) (vecs [[], [5, 1, 9], [7, 1, 1]])) (fun g => g.regs.readV 1 2) = some 9 := by decide

/-- Under I8x4 the bytes add modulo 2^8, and clamp under MW.SAT (R143, R145). -/
theorem test_vadd_bytes :
    after (exec (.vadd 0 3 1 2) (vecs [[], [0x7F01FF80], [0x01010180]] (0x1F + 7 * 64))) (fun g => g.regs.readV 3 0) = some 0x80020000
    ∧ after (exec (.vadd 0 3 1 2) (vecs [[], [0x7F01FF80], [0x01010180]] (0x1F + 7 * 64 + 2 ^ 13))) (fun g => g.regs.readV 3 0)
        = some 0x7F020080 := by decide

/-- SHFL reads a source lane that is not active (R150). -/
theorem test_shfl_inactive_source :
    after (exec (.shfl 0 3 1 2) (vecs [[], [5, 6, 9], [2, 130]])) (fun g => (g.regs.readV 3 0, g.regs.readV 3 1)) = some (9, 9) := by decide

/-- VADDC: 0xFFFFFFFF + 1 is 0 and carries into p23 (R147). -/
theorem test_vaddc_carry :
    after (exec (.vaddc 0 3 1 2) (vecs [[], [0xFFFFFFFF, 1], [1, 1]])) (fun g => (g.regs.readV 3 0, g.regs.readP 23)) = some (0, 1) := by decide

/-- The sum of the two active lanes is written to both (R151). -/
theorem test_vred_sum :
    after (exec (.vred 0 3 1 0) pair') (fun g => (g.regs.readV 3 0, g.regs.readV 3 1)) = some (4, 4) := by decide

/-- The exclusive scan starts at the identity (R152). -/
theorem test_vscan_exclusive :
    after (exec (.vscan 0 3 1 1 0) pair') (fun g => (g.regs.readV 3 0, g.regs.readV 3 1)) = some (0, 5) := by decide

/-- VCMP.LT is signed under I32 and unsigned under N32 (R148). -/
theorem test_vcmp_signs :
    after (exec (.vcmp 0 4 2 1 2) pair') (fun g => g.regs.readP 4) = some 3
    ∧ after (exec (.vcmp 0 4 2 1 2) (vecs [[], [5, 0xFFFFFFFF], [7, 1]] (0x1F + 64))) (fun g => g.regs.readP 4) = some 1 := by decide

/-! ### Floats -/

/-- F32: v1 = 1.0, signalling NaN and v2 = 2.0, 1.0. -/
def floats : State := vecs [[], [0x3F800000, 0x7F800001], [0x40000000, 0x3F800000]] (0x1F + 2 * 64)

/-- The same with the invalid-operation trap enabled. -/
def floatsTrap : State := vecs [[], [0x3F800000, 0x7F800001], [0x40000000, 0x3F800000]] (0x1F + 2 * 64 + 2 ^ 17)

theorem test_meets_float_arithmetic :
    Ready { vDesc (encode (.fadd 0 3 1 2)) 0x80 0 1 setF 3 [1, 2] with masked := true, writes := [3] } floats (now floats)
    ∧ (now floats).regs.cc = 0 ∧ effMask floats (now floats) ≠ 0 ∧ enabledCause (now floats).regs.mw 1 = none
    ∧ enabledCause (now floatsTrap).regs.mw 1 = some 0x20 :=
  ⟨ready_of_met (by decide), by decide, by decide, by decide, by decide⟩

theorem test_meets_conversion_and_division :
    Ready { word := encode (.cvt 0 3 1 0 0), op := 0x92, st := 0, vtop := topOf [3, 1], reads := [1], min := 1, masked := true
            writes := [3] } floats (now floats)
    ∧ Ready { vDesc (encode (.fdiv 0 3 1 2)) 0x8C 0 0 setG 3 [1, 2] with masked := true, writes := [3] } floats (now floats) :=
  ⟨ready_of_met (by decide), ready_of_met (by decide)⟩

theorem test_meets_float_bits_and_compares :
    Ready { vDesc (encode (.fclass 0 3 1)) 0x8A 0 0 setG 3 [1] with masked := true, writes := [3] } floats (now floats)
    ∧ Ready { word := encode (.fcmp 0 4 0 1 2), op := 0x88, st := 0, vtop := topOf [1, 2], types := setG, reads := [1, 2]
              masked := true, writes := [codeP 4] } floatsTrap (now floatsTrap)
    ∧ mwTeiv (now floats).regs.mw = false ∧ mwTeiv (now floatsTrap).regs.mw = true
    ∧ (readFloat .f32 false ((now floatsTrap).regs.readV 1 1).toNat).snan = true :=
  ⟨ready_of_met (by decide), ready_of_met (by decide), by decide, by decide, by decide⟩

/-- A chain of two with an F32 member to come. -/
def chained : State := at' fun g => { g with
  regs := { g.regs with v := [[], [0x3F800000], [0x40000000]], act := 1, mw := 0x1F + 2 * 64, cc := 2 } }

theorem test_meets_chain_member :
    Ready { vDesc (encode (.fadd 0 3 1 2)) 0x80 0 1 setF 3 [1, 2] with masked := true, writes := [3] } chained (now chained)
    ∧ (now chained).regs.cc ≠ 0 ∧ effType chained (now chained) = 2 ∧ mwPsr (now chained).regs.mw = false
    ∧ effMask chained (now chained) ≠ 0 ∧ enabledCause (now chained).regs.mw 127 = none :=
  ⟨ready_of_met (by decide), by decide, by decide, by decide, by decide, by decide⟩

/-- 1.0 in binary32. -/
theorem test_meets_rounding_is_exact :
    0x3F800000 < 2 ^ Fmt.f32.width ∧ decodeFloat .f32 0x3F800000 = .fin false (2 ^ 23) (-23) ∧ (2 ^ 23 : Nat) ≠ 0 := by decide

/-- 1.0 + 2.0 is 3.0; a signalling NaN sets IV, and traps with cause 0x20 and its lane under MW.TEIV (R119, R120, R155). -/
theorem test_fadd :
    after (exec (.fadd 0 3 1 2) floats) (fun g => (g.regs.readV 3 0, g.regs.flags)) = some (0x40400000, 1)
    ∧ trap (exec (.fadd 0 3 1 2) floatsTrap) = some (0x20, 0, 1) := by decide +kernel

/-- 2.0 / 0 sets DZ and gives infinity; the square root of 4.0 is 2.0 (R155). -/
theorem test_fdiv_fsqrt :
    arrived (exec (.fdiv 0 3 1 2) (vecs [[], [0x40000000], [0, 0x3F800000]] (0x1F + 2 * 64))) (fun g => (g.regs.readV 3 0, g.regs.flags))
      = some (0x7F800000, 2)
    ∧ arrived (exec (.fsqrt 0 3 1) (vecs [[], [0x40800000]] (0x1F + 2 * 64))) (fun g => g.regs.readV 3 0) = some 0x40000000 := by decide +kernel

/-- −0 and +0 compare equal; NaN is unordered (R157). -/
theorem test_fcmp :
    after (exec (.fcmp 0 4 0 1 2) (vecs [[], [0x80000000, 0x7FC00000], [0, 0x7FC00000]] (0x1F + 2 * 64))) (fun g => g.regs.readP 4)
      = some 1 := by decide

/-- A member of a chain counts CC down and keeps its sum in W in binary64: 1.0 + 2.0 = 3.0 (R117). -/
theorem test_chain_member :
    after (exec (.fadd 0 3 1 2) chained) (fun g => (g.regs.cc, laneGet64 g.regs.w 0, g.regs.readV 3 0))
      = some (1, 0x4008000000000000, 0x40400000) := by decide

/-- CVT of 1.5 to I32 rounds to even, to 2 (R164). -/
theorem test_cvt_rounds_to_even :
    after (exec (.cvt 0 3 1 0 0) (vecs [[], [0x3FC00000]] (0x1F + 2 * 64))) (fun g => g.regs.readV 3 0) = some 2 := by decide

theorem test_meets_tables :
    Ready { vDesc (encode (.tblev 0 3 1 0)) 0x8F 0 5 setG 3 [1] with masked := true, writes := [3] } floats (now floats)
    ∧ ((floats.core 0).table 0).swaps = 0
    ∧ Ready { word := encode (.tblsw 0 1), op := 0x91, st := 0, masked := true } floats (now floats)
    ∧ (∃ u, exec (.tblsw 0 1) floats = .next u ∧ ((u.core 0).table 1).swaps ≠ 0) :=
  ⟨ready_of_met (by decide), by decide, ready_of_met (by decide), _, rfl, by decide⟩

/-- TBLLD's operands: an aligned offset inside the crew's 4,096 scratchpad bytes, a misaligned one, and one that passes the end. -/
theorem test_meets_table_load :
    let q : Desc := { word := encode (.tblld 0 1 2 0), op := 0x90, st := 0, masked := true, reads := [codeS 1, codeS 2, codeS 3] }
    (Ready q (regs [0, 2048, 0, 119]) (now (regs [0, 2048, 0, 119])) ∧ (regs [0, 2048, 0, 119]).crew? 0 0 ≠ none
      ∧ scratchBytes (slotCrew 0).granules = 4096 ∧ scratchPoison (regs [0, 2048, 0, 119]) 0 (slotCrew 0).granules 2048 2048 = none)
    ∧ Ready q (regs [0, 4, 0, 0]) (now (regs [0, 4, 0, 0])) ∧ Ready q (regs [0, 2056, 0, 0]) (now (regs [0, 2056, 0, 0])) :=
  ⟨⟨ready_of_met (by decide), by decide, by decide, by decide⟩, ready_of_met (by decide), ready_of_met (by decide)⟩

/-- A table load at a misaligned offset traps with cause 0x0A, one past the end of the scratchpad with 0x0B (R163). -/
theorem test_tblld_traps :
    trap (exec (.tblld 0 1 2 0) (regs [0, 4, 0, 0])) = some (0x0A, 0, 4)
    ∧ trap (exec (.tblld 0 1 2 0) (regs [0, 2056, 0, 0])) = some (0x0B, 0, 2056) := by decide

/-! ### Control, divergence and barriers -/

theorem test_meets_branches :
    Ready (d' (.bra 0 5) 0x01 [] []) base (now base)
    ∧ (Ready (d' (.ret 0) 0x03 [codeS 56] []) base (now base) ∧ ((now base).regs.readS 56).toNat % 4 = 0)
    ∧ (let s := at' fun g => { g with regs := g.regs.writeS 56 2 }
       Ready (d' (.ret 0) 0x03 [codeS 56] []) s (now s) ∧ ((now s).regs.readS 56).toNat % 4 ≠ 0) :=
  ⟨ready_of_met (by decide), ⟨ready_of_met (by decide), by decide⟩, ⟨ready_of_met (by decide), by decide⟩⟩

/-- A divergence stack with n entries on lane 0, and lanes 0 and 1 active, of which p1 names lane 0. -/
def stacked (n : Nat) : State := at' fun g => { g with
  stack := List.replicate n ⟨false, 64, 1, 0x1F⟩, regs := { g.regs with act := 3, p := [0, 1] } }

theorem test_meets_divergence :
    (Ready (d' (.ssy 0 4) 0x07 [] []) (stacked 31) (now (stacked 31)) ∧ (now (stacked 31)).stack.length < 32)
    ∧ (Ready (d' (.ssy 0 4) 0x07 [] []) (stacked 32) (now (stacked 32)) ∧ 32 ≤ (now (stacked 32)).stack.length)
    ∧ (Ready { word := encode (.brp 0 1 4), op := 0x08, st := 0, preds := [codeP 1] } (stacked 31) (now (stacked 31))
        ∧ (now (stacked 31)).regs.act &&& (now (stacked 31)).regs.readP 1 ≠ 0
        ∧ (now (stacked 31)).regs.act &&& (now (stacked 31)).regs.readP 1 ≠ (now (stacked 31)).regs.act)
    ∧ (Ready (d' (.sync 0) 0x0A [] []) (stacked 0) (now (stacked 0)) ∧ (now (stacked 0)).stack = [])
    ∧ (Ready (d' (.sync 0) 0x0A [] []) (stacked 2) (now (stacked 2))
        ∧ (now (stacked 2)).stack = [] ++ ⟨false, 64, 1, 0x1F⟩ :: [⟨false, 64, 1, 0x1F⟩]
        ∧ (1 : Mask) &&& ~~~ (now (stacked 2)).regs.xm ≠ 0) :=
  ⟨⟨ready_of_met (by decide), by decide⟩, ⟨ready_of_met (by decide), by decide⟩,
    ⟨ready_of_met (by decide), by decide, by decide⟩, ⟨ready_of_met (by decide), by decide⟩,
    ⟨ready_of_met (by decide), by decide, by decide⟩⟩

/-- A branch goes to its own offset plus four times the displacement; −1 is the word before it (R80, R126). -/
theorem test_bra_backwards :
    after (exec (.bra 0 0x1FFFFF) (at' fun g => { g with pc := 64 })) (fun g => g.pc) = some 60 := by decide

/-- CALL writes the next instruction's offset to s56 (R126). -/
theorem test_call : after (exec (.call 0 4) base) (fun g => (g.pc, g.regs.readS 56)) = some (16, 4) := by decide

/-- JMPI to a misaligned target traps with cause 0x0A and the target (R126). -/
theorem test_jmpi_misaligned : trap (exec (.jmpi 0 0 1 0) (regs [0, 6])) = some (0x0A, 0, 6) := by decide

/-- LOOP counts 1 down to 0 and goes on (R126). -/
theorem test_loop_ends :
    after (exec (.loop 0 1 8) (regs [0, 1])) (fun g => (g.pc, g.regs.readS 1)) = some (4, 0)
    ∧ after (exec (.loop 0 1 8) (regs [0, 0])) (fun g => (g.pc, g.regs.readS 1)) = some (32, 0xFFFFFFFF) := by decide

/-- A divergent BRP keeps the lanes that do not branch and pushes the others; the 33rd entry traps (R37). -/
theorem test_brp_splits :
    after (exec (.brp 0 1 4) (stacked 0)) (fun g => (g.regs.act, g.stack.map StackEntry.mask, g.pc)) = some (2, [1], 4)
    ∧ trap (exec (.brp 0 1 4) (stacked 32)) = some (0x19, 0, 0) := by decide

/-- SYNC of an empty stack traps with value 1; else it takes the entry's mask and offset (R37). -/
theorem test_sync :
    trap (exec (.sync 0) (stacked 0)) = some (0x19, 0, 1)
    ∧ after (exec (.sync 0) (stacked 1)) (fun g => (g.pc, g.regs.act, g.stack.length)) = some (64, 1, 0) := by decide

theorem test_meets_barriers :
    Ready (d' (.bar 0 3) 0x0D [] []) base (now base) ∧ Ready (d' (.barinit 0 3 16) 0x0E [] []) base (now base)
    ∧ base.crew? 0 0 ≠ none ∧ releasedCore (now base) = true :=
  ⟨ready_of_met (by decide), ready_of_met (by decide), by decide, by decide⟩

/-- The only group of a crew passes its barrier; with two expected it waits (R129). -/
theorem test_bar :
    after (exec (.bar 0 3) base) (fun g => g.wait) = some .none
    ∧ (then' (exec (.barinit 0 3 2) base) fun t => after (exec (.bar 0 3) t) fun g => g.wait) = some (some (.barrier 3)) := by decide

theorem test_meets_modes_and_time :
    Ready (d' (.setmw 0 0x1F) 0x10 [] []) base (now base) ∧ mwReserved 0x1F = false ∧ mwReserved 0x1FFFFF = true
    ∧ Ready (d' (.waitgt 0 1 0) 0x19 [codeS 1, codeS 2] []) (regs [0, 9]) (now (regs [0, 9])) ∧ (regs [0, 9]).gt < 9
    ∧ Ready (d' (.phint 0 0 0) 0x0F [codeS 0, codeS 1, codeS 2, codeS 3, codeS 0, codeS 1, codeS 2, codeS 3] []) base (now base)
    ∧ (base.crew? 0 0).map Crew.preemptAt = some none :=
  ⟨ready_of_met (by decide), by decide, by decide, ready_of_met (by decide), by decide, ready_of_met (by decide), by decide⟩

theorem test_meets_preempted_hint :
    let s := requestPreempt base 0 0
    Ready (d' (.phint 0 0 0) 0x0F [codeS 0, codeS 1, codeS 2, codeS 3, codeS 0, codeS 1, codeS 2, codeS 3] []) s (now s)
    ∧ (s.crew? 0 0).map Crew.preemptAt = some (some 0) ∧ (now s).state = .normal := ⟨ready_of_met (by decide), by decide, by decide⟩

/-- SETMW of a reserved value traps with cause 0x02 and the word, and MW keeps its value (R92). -/
theorem test_setmw_reserved :
    trap (exec (.setmw 0 0x1FFFFF) base) = some (0x02, 0, 0x021FFFFF)
    ∧ after (exec (.setmw 0 0x1FFFFF) base) (fun g => g.regs.mw) = some 0x1F := by decide

/-- WAITGT.REL 9 at GT 0 waits for tick 9 (R138). -/
theorem test_waitgt : after (exec (.waitgt 0 1 1) (regs [0, 9, 0])) (fun g => (g.wait, g.pc)) = some (.gt 9, 4) := by decide

/-! ### Traps, returns and system registers -/

/-- A group in a handler state. -/
def handler (st : GState) : State := at' fun g => { g with state := st, ps := .normal, tpc := 32, tcause := 0x42, tval := 7 }

theorem test_meets_trap_instructions :
    Ready (d' (.trap 0 5) 0x13 [] []) base (now base)
    ∧ Ready { word := encode (.esc 0 5), op := 0x15, st := 0, priv := .handler } (handler .core) (now (handler .core))
    ∧ base.group? base.cur ≠ none := ⟨ready_of_met (by decide), ready_of_met (by decide), by decide⟩

theorem test_meets_taking_a_trap :
    base.crew? 0 0 ≠ none ∧ (now base).state ≠ .core ∧ base.group? ⟨0, 0, 0⟩ ≠ none
    ∧ (handler .core).group? ⟨0, 0, 0⟩ ≠ none ∧ (now (handler .core)).state = .core
    ∧ (now (handler .user)).state = .user ∧ (now (handler .user)).state ≠ .core := by decide

theorem test_meets_return_from_trap :
    let q : Desc := { word := encode (.rft 0), op := 0x14, st := 0, priv := .handler }
    Ready q (handler .user) (now (handler .user)) ∧ (handler .user).crew? 0 0 ≠ none ∧ (now (handler .user)).halt = .running
    ∧ (now (handler .user)).ps = .normal := ⟨ready_of_met (by decide), by decide, by decide, by decide⟩

theorem test_meets_order_of_trap_conditions :
    (now base).budget < 129 ∧ effType base (now base) = 0 ∧ (0 : Nat) ∉ setF ∧ roleAllows .vector 0xC0 = false
    ∧ Priv.handler.ok (now base).state = false ∧ (now base).state = .normal
    ∧ base.group? base.cur ≠ none ∧ roleAllows (now base).role 0x14 = true := by decide

theorem test_meets_role_traps :
    let s := at' fun g => { g with role := .vector }
    s.group? s.cur ≠ none ∧ (now s).role = .vector ∧ 3 ≤ (now s).budget ∧ effType s (now s) ∈ setA
    ∧ ¬ (0xC0 : Nat) ≤ 0xBF := by decide

/-- TRAP enters the core handler where the trap table has no handler: cause, offset and value, and the state (R245, R247). -/
theorem test_trap_enters_handler :
    after (exec (.trap 0 5) (at' fun g => { g with pc := 8 })) (fun g => (g.tcause, g.tpc, g.tval, g.pc)) = some (0x42, 8, 5, 0)
    ∧ after (exec (.trap 0 5) base) (fun g => (g.state, g.ps)) = some (.core, .normal) := by decide

/-- RFT in user handler state goes back to TPC in normal state; in normal state it traps with cause 0x04 (R248, R123). -/
theorem test_rft :
    after (exec (.rft 0) (handler .user)) (fun g => (g.state, g.pc)) = some (.normal, 32)
    ∧ trap (exec (.rft 0) base) = some (0x04, 0, 0x02800000) := by decide

/-- A trap in core handler state is a double fault: the group issues nothing, and its trap registers keep their values (R247). -/
theorem test_double_fault :
    after (exec (.trap 0 5) (handler .core)) (fun g => (g.wait, g.tcause, g.tpc)) = some (.doubleFault none, 0x42, 32) := by decide

/-- An ESC queues one entry (R134). -/
theorem test_esc_queues : (then' (exec (.esc 0 5) (handler .core)) fun t => (t.core 0).escQueue.length) = some 1 := by decide

theorem test_meets_system_registers :
    Ready (d' (.sysrd 0 3 0) 0x17 [] [codeS 3]) base (now base) ∧ base.crew? 0 0 ≠ none ∧ flagsPending (now base) = []
    ∧ (let s := regs [0, 5]
       Ready { word := encode (.syswr 0 1 0x24), op := 0x18, st := 0, priv := sysPriv 0x24, reads := [codeS 1] } s (now s)
        ∧ sysReserved 0x24 5 = true ∧ sysReserved 0x24 1 = false ∧ (now s).halt = .running)
    ∧ (let s := (handler .core).modGroup ⟨0, 0, 0⟩ fun g => { g with regs := g.regs.writeS 1 9 }
       Ready { word := encode (.syswr 0 1 0x30), op := 0x18, st := 0, priv := sysPriv 0x30, reads := [codeS 1] } s (now s)
        ∧ (now s).state = .core ∧ regionBusy (s.core 0) 0 = false ∧ getAt none (s.core 0).ownWrite 0 = none) :=
  ⟨ready_of_met (by decide), by decide, by decide, ⟨ready_of_met (by decide), by decide, by decide, by decide⟩,
    ⟨ready_of_met (by decide), by decide, by decide, by decide⟩⟩

/-- CREWID is read-only: 0x04; TVAL needs handler state; FLAGS takes seven bits (R136). -/
theorem test_syswr :
    trap (exec (.syswr 0 1 3) (regs [0, 5])) = some (0x04, 0, (encode (.syswr 0 1 3)).toNat)
    ∧ trap (exec (.syswr 0 1 0x22) (regs [0, 5])) = some (0x04, 0, (encode (.syswr 0 1 0x22)).toNat)
    ∧ after (exec (.syswr 0 1 1) (regs [0, 5])) (fun g => g.regs.flags) = some 5
    ∧ trap (exec (.syswr 0 1 1) (regs [0, 128])) = some (0x02, 0, (encode (.syswr 0 1 1)).toNat) := by decide

/-- The privilege is checked before the source is read: no 0x18 of a result that is not ready (R104). -/
theorem test_syswr_privilege_first :
    trap (exec (.syswr 0 1 3) (at' fun g => { g with
      regs := { g.regs with mw := 0x1F + 2 ^ 16 }, pend := [⟨codeS 1, .scal 5, 9⟩] }))
      = some (0x04, 0, (encode (.syswr 0 1 3)).toNat) := by decide

/-! ### The prefix -/

/-- Code bytes after the program counter. -/
def code (b : Word) (s : State := base) : State := s.writeHdm 0 4 (bytesLE 4 b.toNat)

theorem test_meets_prefix :
    (code (encode (.vadd 0 3 1 2))).group? ⟨0, 0, 0⟩ ≠ none
    ∧ fetchWord (code (encode (.vadd 0 3 1 2))) ⟨0, 0, 0⟩ (now base) 4 = some (encode (.vadd 0 3 1 2))
    ∧ prefixable 0x40 = true ∧ prefixable 0x20 = false ∧ ¬ (0x40 : Nat) ∈ [0x44, 0x83, 0x94, 0x95, 0x96, 0xA7] := by decide

/-- A prefix before SADD traps with cause 0x01 and the base word; VC before VADD with 0x02 and the prefix (R94, R96). -/
theorem test_prefix_pairs :
    trap (exec (.pfx 31 0 0 0 0 0) (code (encode (.sadd 0 3 1 2 0)))) = some (0x01, 0, (encode (.sadd 0 3 1 2 0)).toNat)
    ∧ trap (exec (.pfx 31 0 0 0 0 7) (code (encode (.vadd 0 3 1 2)))) = some (0x02, 0, (encode (.pfx 31 0 0 0 0 7)).toNat)
    ∧ (then' (exec (.pfx 1 1 0 0 0 0) (code (encode (.vadd 0 3 1 2)))) fun t => t.pfx.map Prefix.pmask) = some (some 1) := by decide

/-- The pair runs in one turn: eight bytes further (R97). -/
theorem test_prefix_runs_base :
    after (step { (code (encode (.vadd 0 3 1 2)) (base.writeHdm 0 0 (bytesLE 4 (encode (.pfx 31 0 0 0 0 0)).toNat))) with
      agenda := [.issue ⟨0, 0, 0⟩] }) (fun g => g.pc) = some 8 := by decide

/-! ### Modular arithmetic -/

/-- q = 7, whose constant is 2^6 / 7 = 9, in v4 to v7 for SETQ, in lanes 0 and 1. -/
def modulus : State := vecs [[], [], [], [], [7, 8], [], [9, 9], []]

/-- A valid modulus 7 in lane 0, none in lane 1; v2:v3 = 12, v4:v5 = 5. -/
def modded : State := at' fun g => { g with regs := { g.regs with
  act := 3, qm := [7], qb := [9], v := [[], [], [12], [], [5], []] } }

theorem test_meets_modular_reduction :
    modWellFormed 7 9 = true ∧ (48 : Nat) < 7 * 7 ∧ (3 ≤ 7 ∧ 7 < 2 ^ 61 ∧ 6 < 7 ∧ 5 < (7 : Nat)) := by decide +kernel

theorem test_meets_modulus_setup :
    let q : Desc := { modDesc (encode (.setq 0 1)) 0xA0 0 1 [] [4, 5, 6, 7] with masked := true, writes := [codeQ] }
    let s2 := modulus.modGroup ⟨0, 0, 0⟩ fun g => { g with regs := { g.regs with mw := 0x1F + 2 ^ 20 } }
    (Ready q modulus (now modulus) ∧ effMask modulus (now modulus) ≠ 0 ∧ mwTemq (now modulus).regs.mw = false)
    ∧ (Ready q s2 (now s2) ∧ mwTemq (now s2).regs.mw = true ∧ modWellFormed 8 9 = false ∧ modWellFormed 7 9 = true) :=
  ⟨⟨ready_of_met (by decide +kernel), by decide +kernel, by decide +kernel⟩, ⟨ready_of_met (by decide +kernel), by decide +kernel, by decide +kernel, by decide +kernel⟩⟩

theorem test_meets_modular_arithmetic :
    Ready { modDesc (encode (.mmulq 0 0 1 2)) 0xA5 0 3 [0, 1] [2, 3, 4, 5] with
            reads := [codeQ, 2, 3, 4, 5], masked := true, writes := [0, 1] } modded (now modded) := ready_of_met (by decide +kernel)

theorem test_meets_modular_moves :
    Ready { modDesc (encode (.pbf 0 0 1 0)) 0xAB 0 1 [0, 1] [2, 3] with masked := true, writes := [0, 1] } modded (now modded)
    ∧ effMask modded (now modded) ≠ 0 := ⟨ready_of_met (by decide +kernel), by decide +kernel⟩

/-- SETQ stores 7 in lane 0; 8 is even, so lane 1 becomes invalid and MQC is set (R215). -/
theorem test_setq :
    after (exec (.setq 0 1) modulus) (fun g => (laneGet64 g.regs.qm 0, laneGet64 g.regs.qm 1, g.regs.flags)) = some (7, 0, 0x20) := by decide +kernel

/-- 12 and 5: 12 is not below 7, so MQR; (5 · 5) mod 7 = 4. The invalid lane writes all ones and sets MQC (R216, R217). -/
theorem test_mmulq :
    after (exec (.mmulq 0 0 1 2) modded) (fun g => (g.regs.readV 0 0, g.regs.readV 1 0, g.regs.readV 0 1, g.regs.flags))
      = some (4, 0, 0xFFFFFFFF, 0x60) := by decide +kernel

/-- 3 − 5 modulo 7 is 5 (R217). -/
theorem test_msubq :
    after (exec (.msubq 0 0 1 2) (at' fun g => { g with regs := { g.regs with
      act := 1, qm := [7], qb := [9], v := [[], [], [3], [], [5], []] } })) (fun g => g.regs.readV 0 0) = some 5 := by decide +kernel

/-- PBF at distance 1 exchanges lanes 0 and 1 (R224). -/
theorem test_pbf :
    after (exec (.pbf 0 0 1 0) (vecs [[], [], [12, 34], []])) (fun g => (g.regs.readV 0 0, g.regs.readV 0 1)) = some (34, 12) := by decide +kernel

/-! ### Memory -/

/-- An object of 512 bytes at local byte 4,096 of slice 0, kind 0 (R172, R173). -/
def entry5 : BitVec 1024 := BitVec.ofNat 1024 (1 + 512 * 2 ^ 24 + (4096 + 512 * 2 ^ 64) * 2 ^ 128)

/-- The object as number 5, with a capability of all rights to it in c1; v1 holds the offsets 0 and 4, v2 values. -/
def mem' (f : Group → Group := id) : State :=
  (base.setPart 0 { base.part 0 with entryCache := [(5, entry5)] }).modGroup ⟨0, 0, 0⟩ fun g =>
    f { g with regs := { g.regs with act := 3, c := [0, capMake 5 0 512 15], v := [[], [0, 4], [0x11223344, 9]], s := [0, 0x55667788] } }

/-- The access of two lanes with four bytes each. -/
def acc (r : Right) (ws : List Nat) : Access :=
  { lanes := [(0, 0), (1, 4)], cap := capMake 5 0 512 15, size := 4, right := r, writes := ws }

theorem test_meets_loads :
    (let q : Desc := { word := encode (.ld 0 3 1 1 2), op := 0xB0, st := 0, vtop := topOf [1, 3], reads := [1, codeC 1]
                       writes := [3], masked := true }
     Ready q mem' (now mem') ∧ effMask mem' (now mem') ≠ 0 ∧ mem'.crew? 0 0 ≠ none ∧ acquirePending (now mem') = false
      ∧ laneCauses ((acc .read [3]).causes mem' 0 0 .normal) = none ∧ lanePages ((acc .read [3]).places mem' 0 0) = []
      ∧ atomTargets mem' ⟨0, 0, 0⟩ (((acc .read [3]).places mem' 0 0).flatMap fun e => (placeBytes e.2).map fun b => b.1) = false)
    ∧ Ready { word := encode (.ldu 0 3 1 0), op := 0xB4, st := 0, reads := [codeC 1], writes := [codeS 3] } mem' (now mem')
    ∧ (Ready { word := encode (.capld 0 3 1 0), op := 0xBB, st := 0, reads := [codeC 1], writes := [codeC 3] } mem' (now mem')
      ∧ leastCause (capCauses mem' 0 (capMake 5 0 512 15) 0 .read) = some 9) :=
  ⟨⟨ready_of_met (by decide +kernel), by decide +kernel, by decide +kernel, by decide +kernel, by decide +kernel, by decide +kernel, by decide +kernel⟩, ready_of_met (by decide +kernel),
    ready_of_met (by decide +kernel), by decide +kernel⟩

/-- The same object capability-bearing, and so for capability loads and stores alone (R170, R208). -/
def memC : State := mem'.setPart 0 { mem'.part 0 with entryCache := [(5, entry5 ||| 8)] }

theorem test_meets_capability_loads :
    Ready { word := encode (.capld 0 3 1 0), op := 0xBB, st := 0, reads := [codeC 1], writes := [codeC 3] } memC (now memC)
    ∧ leastCause (capCauses memC 0 (capMake 5 0 512 15) 0 .read) = none
    ∧ Ready { word := encode (.capst 0 3 1 0), op := 0xBC, st := 0, reads := [codeC 1, codeC 3] } memC (now memC)
    ∧ leastCause (capCauses memC 0 (capMake 5 0 512 15) 0 .write) = none :=
  ⟨ready_of_met (by decide +kernel), by decide +kernel, ready_of_met (by decide +kernel), by decide +kernel⟩

theorem test_meets_stores :
    let q : Desc := { word := encode (.st 0 2 1 1 2), op := 0xB1, st := 0, vtop := topOf [1, 2], reads := [1, codeC 1, 2], masked := true }
    Ready q mem' (now mem') ∧ effMask mem' (now mem') ≠ 0 ∧ laneCauses ((acc .write []).causes mem' 0 0 .normal) = none
    ∧ lanePages ((acc .write []).places mem' 0 0) = []
    ∧ bufferRoom mem' ⟨0, 0, 0⟩ (now mem') (lineWrites 0 [(4096, 1, 0, false)]) = true :=
  ⟨ready_of_met (by decide +kernel), by decide +kernel, by decide +kernel, by decide +kernel, by decide +kernel⟩

theorem test_meets_atomics :
    let q : Desc := { word := encode (.atom 0 2 1 1 0), op := 0xB6, st := 0, vtop := topOf [2, 1], reads := [1, 2, codeC 1]
                      writes := [2], masked := true }
    Ready q mem' (now mem') ∧ laneCauses ((acc .atomic [2]).causes mem' 0 0 .normal) = none
    ∧ lineInFlight mem' ⟨0, 0, 0⟩ 32 = false ∧ (now mem').buf = [] := ⟨ready_of_met (by decide +kernel), by decide +kernel, by decide +kernel, by decide +kernel⟩

theorem test_meets_access_causes :
    accWindow? (capObj (capMake 5 0 512 15)) = none ∧ capLen (capMake 5 0 512 15) < 509 + 4 ∧ ¬ 4 ∣ capBase (capMake 5 0 512 15) + 2
    ∧ laneCauses [(0, []), (1, [0x0A, 0x08])] = some (0x08, 1) ∧ laneCauses [(0, []), (1, [])] = none
    ∧ effMask mem' (now mem') ≠ 0 ∧ acquirePending (now mem') = false := by decide +kernel

/-- Two stores reach one line in one write, lane 1 behind lane 0, and memory holds them once they are performed (R180, R182). -/
theorem test_store_then_home :
    (then' (exec (.st 0 2 1 1 2) mem') fun t => t.writes.map fun w => (w.line, w.bytes.length)) = some [(32, 8)]
    ∧ ((then' (exec (.st 0 2 1 1 2) mem') fun t => (then' (exec (.homeWrite 0) t) fun u =>
        (cellGet u.mem 4096, cellGet u.mem 4099, cellGet u.mem 4100)))) = some (some (0x44, 0x11, 9)) := by decide +kernel

/-- An access past the capability takes cause 0x08, a misaligned one 0x0A, each with its lane (R171). -/
theorem test_access_traps :
    trap (exec (.ld 0 3 1 1 2) (mem' fun g => { g with regs := { g.regs with v := [[], [0, 512]] } })) = some (0x08, 0, 1)
    ∧ trap (exec (.ld 0 3 1 1 2) (mem' fun g => { g with regs := { g.regs with v := [[], [2, 0]] } })) = some (0x0A, 0, 0) := by decide +kernel

/-- A compare-and-swap writes only where the old value is expected (R205). -/
theorem test_cas : atomValue 9 5 5 7 = 7 ∧ atomValue 9 6 5 7 = 6 ∧ atomValue 1 0xFFFFFFFF 1 0 = 0xFFFFFFFF := by decide +kernel

theorem test_meets_scratchpad_words :
    let q : Desc := { word := encode (.lds 0 3 1 0), op := 0xB2, st := 0, vtop := topOf [3, 1], reads := [1], writes := [3], masked := true }
    Ready q mem' (now mem') ∧ mem'.crew? 0 0 ≠ none ∧ effMask mem' (now mem') ≠ 0 ∧ mem'.poison = []
    ∧ Ready { word := encode (.atoms 0 2 1 0), op := 0xB8, st := 0, vtop := topOf [2, 1], reads := [1, 2], writes := [2], masked := true }
        mem' (now mem')
    ∧ (4 + 4 ≤ 128 * (slotCrew 0).granules.length) ∧ ((2 : Nat) % 4 ≠ 0 ∧ (2 : Nat) < 0x800000) :=
  ⟨ready_of_met (by decide +kernel), by decide +kernel, by decide +kernel, by decide +kernel, ready_of_met (by decide +kernel), by decide +kernel, by decide +kernel⟩

/-- STS, then LDS of the same words (R198, R201). -/
theorem test_sts_lds :
    (then' (exec (.sts 0 2 1 0) mem') fun t => arrived (exec (.lds 0 3 1 0) t) fun g => (g.regs.readV 3 0, g.regs.readV 3 1))
      = some (some (0x11223344, 9)) := by decide +kernel

theorem test_meets_fences :
    (let q := d' (.fence 0 2 1) 0xB9 [] []
     Ready q base (now base) ∧ (now base).usc = 0 ∧ (now base).buf = [] ∧ (now base).lgwct.toNat ≤ base.gt)
    ∧ (let s := at' fun g => { g with usc := 1 }
       Ready (d' (.fence 0 2 1) 0xB9 [] []) s (now s) ∧ ¬ (now s).usc = 0)
    ∧ Ready (d' (.fence 0 0 2) 0xB9 [] []) base (now base) :=
  ⟨⟨ready_of_met (by decide +kernel), by decide +kernel, by decide +kernel, by decide +kernel⟩, ⟨ready_of_met (by decide +kernel), by decide +kernel⟩, ready_of_met (by decide +kernel)⟩

theorem test_meets_memory_wait :
    let q : Desc := { word := encode (.waitm 0 1 1 0), op := 0xBA, st := 0, reads := [codeC 1, codeS 1, codeS 2, codeS 3, codeS 4]
                      writes := [codeS 1, codeS 2] }
    let s3 := mem' fun g => { g with regs := { g.regs with s := [0, 0, 3] } }
    (Ready q mem' (now mem') ∧ ((now mem').regs.readS 2).toNat < 3) ∧ (Ready q s3 (now s3) ∧ 3 ≤ ((now s3).regs.readS 2).toNat) :=
  ⟨⟨ready_of_met (by decide +kernel), by decide +kernel⟩, ⟨ready_of_met (by decide +kernel), by decide +kernel⟩⟩

/-- A release at device scope holds while a store is not complete; a reserved condition of WAITM traps with it (R187, R207). -/
theorem test_fence_and_waitm :
    after (exec (.fence 0 2 1) (at' fun g => { g with usc := 1 })) (fun g => (g.held, g.pc)) = some (some 0, 0)
    ∧ trap (exec (.waitm 0 1 1 0) (mem' fun g => { g with regs := { g.regs with s := [0, 0, 3] } })) = some (0x02, 0, 3) := by decide +kernel

/-- Scalars s4 to s7 for CAPSUB: Δ, rights and its high bits, n and its high bits. -/
def subs (a b c e : Word) (r : Nat := 15) : State := mem' fun g => { g with regs := { g.regs with
  s := [0, 0, 0, 0, a, b, c, e], c := [0, capMake 5 0 512 r] } }

theorem test_meets_capabilities :
    let q : Desc := { word := encode (.capsub 0 2 1 4), op := 0xBD, st := 0, reads := [codeC 1, codeS 4, codeS 5, codeS 6, codeS 7]
                      writes := [codeC 2] }
    Ready q (subs 128 0x300 384 0) (now (subs 128 0x300 384 0)) ∧ Ready q (subs 129 0 384 0) (now (subs 129 0 384 0))
    ∧ Ready q (subs 0 0x1000 0 0) (now (subs 0 0x1000 0 0)) ∧ Ready q (subs 0 0 0 0x100) (now (subs 0 0 0 0x100))
    ∧ Ready q (subs 0 0 0 0 7) (now (subs 0 0 0 0 7)) :=
  ⟨ready_of_met (by decide +kernel), ready_of_met (by decide +kernel), ready_of_met (by decide +kernel), ready_of_met (by decide +kernel), ready_of_met (by decide +kernel)⟩

/-- 128 + 384 is the whole length, 129 + 384 passes it; a capability without DERIVE traps with 0x09 (R209). -/
theorem test_capsub :
    after (exec (.capsub 0 2 1 4) (subs 128 0x300 384 0)) (fun g => getAt 0 g.regs.c 2) = some (capMake 5 128 384 3)
    ∧ trap (exec (.capsub 0 2 1 4) (subs 129 0x300 384 0)) = some (0x08, 0, 129)
    ∧ trap (exec (.capsub 0 2 1 4) (subs 0 0x300 0 0 7)) = some (0x09, 0, 0) := by decide +kernel

theorem test_meets_bank_modes :
    let q : Desc := { word := encode (.bmode 0 3 1 2), op := 0xBF, st := 0, priv := .core, reads := [codeS 1, codeS 2], writes := [codeS 3] }
    let at1 := fun (a b : Word) => (handler .core).modGroup ⟨0, 0, 0⟩ fun g => { g with regs := { g.regs with s := [0, a, b] } }
    (Ready q (at1 0 1) (now (at1 0 1)) ∧ ((at1 0 1).core 0).bank 0 = Bank.reset ∧ bankBusy (at1 0 1) (at1 0 1).cur = false)
    ∧ (Ready q (at1 32 1) (now (at1 32 1)) ∧ 32 ≤ (32 : Nat)) ∧ (Ready q (at1 31 0) (now (at1 31 0))
      ∧ (((at1 31 0).core 0).bank 31).mode = .scratch ∧ ((at1 31 0).core 0).usedGranules.any (fun g => granuleIn 31 g) = true) :=
  ⟨⟨ready_of_met (by decide +kernel), by decide +kernel, by decide +kernel⟩, ⟨ready_of_met (by decide +kernel), by decide +kernel⟩, ready_of_met (by decide +kernel), by decide +kernel, by decide +kernel⟩

theorem test_meets_fifo_in_use :
    let c : Core := (base.core 0).setBank 3 ⟨.fifo, true, [], none⟩
    (c.bank 3).mode = .fifo ∧ 3 < 32 := by decide +kernel

/-- Bank 31's granules are in use: status 3; bank 0 becomes scratchpad: status 0 (R211). -/
theorem test_bmode :
    let at1 := fun (a b : Word) => (handler .core).modGroup ⟨0, 0, 0⟩ fun g => { g with regs := { g.regs with s := [0, a, b] } }
    after (exec (.bmode 0 3 1 2) (at1 31 0)) (fun g => g.regs.readS 3) = some 3
    ∧ (then' (exec (.bmode 0 3 1 2) (at1 0 1)) fun t => ((t.core 0).bank 0).mode) = some .scratch
    ∧ trap (exec (.bmodeQ 0 3 1) base) = some (0x04, 0, (encode (.bmodeQ 0 3 1)).toNat) := by decide +kernel

/-! ### Copies, batches and barrier objects -/

/-- CPY.SS of n bytes from scratchpad 0 to scratchpad 256. -/
def copySS (n : Word) : State := regs [0, 0, 256, n]

theorem test_meets_copy_jobs :
    let q : Word → Desc := fun _ => d' (.cpy 0 1 0 0 3) 0xC0 [codeS 1, codeS 2, codeS 3] []
    Ready (q 0) (copySS 128) (now (copySS 128)) ∧ (copySS 128).crew? 0 0 ≠ none ∧ acquirePending (now (copySS 128)) = false
    ∧ ((copySS 128).core 0).jobs.length < 32
    ∧ firstFailure (copyRange (copySS 128) (slotCrew 0) .normal false 0 0 128 [.read]
        ++ copyRange (copySS 128) (slotCrew 0) .normal false 0 256 128 [.write]) = none
    ∧ firstFailure (copyRange (copySS 128) (slotCrew 0) .normal false 0 0 4100 [.read]) = some (0x0B, 0) :=
  ⟨ready_of_met (by decide), by decide, by decide, by decide, by decide, by decide⟩

/-- A layout record of 32 by 32 single bytes, as MLAY writes it. -/
def layout : BitVec 256 := 0#32 ++ 0#32 ++ 32#32 ++ 1#32 ++ 0x00010001#32 ++ 0x00200020#32 ++ 7#32 ++ 0#32

/-- The layout in record 0, operands in s1 to s3, a capability in c1. -/
def laid (l : List Word) : State := mem' fun g => { g with regs := { g.regs with s := l, lay := [layout], c := [0, capMake 5 0 512 15] } }

theorem test_meets_tile_copy :
    Ready (d' (.cpyt 0 1 1 0 0 0) 0xC1 [codeS 1, codeS 2, codeC 1] []) (laid [0, 0, 0]) (now (laid [0, 0, 0]))
    ∧ layCount layout = 1024 ∧ layEs layout = 1
    ∧ (layCount (getAt 0 (now base).regs.lay 0) = 0 ∨ layCount (getAt 0 (now base).regs.lay 0) ≠ 0)
    ∧ firstFailure (scratchRange (slotCrew 0).granules 0 1024 1) = none :=
  ⟨ready_of_met (by decide), by decide, by decide, by decide, by decide⟩

theorem test_meets_gather_and_token :
    Ready (d' (.cpyg 0 1 1 0) 0xC3 [codeS 1, codeS 2, codeS 3, codeC 1] []) (laid [0, 0, 64, 4]) (now (laid [0, 0, 64, 4]))
    ∧ firstFailure (scratchRange (slotCrew 0).granules 0 16 4 ++ scratchRange (slotCrew 0).granules 64 16 4) = none
    ∧ Ready (d' (.ctoken 0 1 1 2 0) 0xC9 [codeS 1, codeS 2, codeS 3, codeC 1] []) (laid [0, 0, 0, 7]) (now (laid [0, 0, 0, 7]))
    ∧ ¬ (1 ≤ ((0 : Word) - (now (laid [])).batch).toNat) :=
  ⟨ready_of_met (by decide), by decide, ready_of_met (by decide), by decide⟩

/-- CPYM: a launch with 4,096 bytes of scratchpad and two peers, 128 bytes to peer 0. -/
theorem test_meets_multicast :
    let s := (copySS (1 + 65536)).modLaunch 0 fun l => { l with block := { l.block with scratch := 4096, peers := 2 } }
    s.launch? 0 ≠ none ∧ 256 % 128 = 0 ∧ 256 + 128 ≤ 4096 ∧ 1 / 2 ^ 2 = 0
    ∧ Ready (d' (.cpym 0 1 0 0 1) 0xC2 [codeS 1, codeS 2, codeS 3] []) s (now s) :=
  ⟨by decide, by decide, by decide, by decide, ready_of_met (by decide)⟩

theorem test_meets_copy_batches :
    Ready (d' (.cbatch 0 3) 0xC6 [] [codeS 3]) base (now base) ∧ (now base).closed = []
    ∧ (let s := at' fun g => { g with closed := [⟨1, [4], 0⟩] }
       Ready (d' (.ctest 0 3 0) 0xC8 [codeS 3] [codeS 3]) (s.modGroup ⟨0, 0, 0⟩ fun g => { g with regs := g.regs.writeS 3 1 })
        (now (s.modGroup ⟨0, 0, 0⟩ fun g => { g with regs := g.regs.writeS 3 1 })) ∧ ((1 : Word) - 1).toNat < 2147483648 ∧ ([4] : List Nat) ≠ []) :=
  ⟨ready_of_met (by decide), by decide, ready_of_met (by decide), by decide, by decide⟩

theorem test_meets_barrier_objects :
    Ready (d' (.boinit 0 2 1) 0xCA [codeS 1] []) (regs [0, 5]) (now (regs [0, 5]))
    ∧ (∀ g ∈ (slotCrew 0).groups, ∀ y, g = some y → y.wait ≠ .bowait 2)
    ∧ Ready (d' (.bowait 0 2) 0xCB [] []) base (now base) ∧ (slotCrew 0).obj 2 = BarObj.start :=
  ⟨ready_of_met (by decide), by intro g hg y hy; simp [slotCrew] at hg; subst hg; cases hy; decide, ready_of_met (by decide), by decide⟩

/-- A copy moves its bytes in the job's step, and is complete at once within scratchpad (R233, R238). -/
theorem test_copy_moves :
    let s := (regs [0, 0, 256, 128]).setCore 0 (scratchWriteWord ((regs [0, 0, 256, 128]).core 0) (slotCrew 0).granules 0 0xAABBCCDD)
    (then' (exec (.cpy 0 1 0 0 3) s) fun t => (then' (exec (.jobStart 0 0) t) fun u => scratchWord (u.core 0) (slotCrew 0).granules 256))
      = some (some 0xAABBCCDD) := by decide +kernel

/-- CBATCH numbers batches from 1; a batch without jobs is visible (R238, R239). -/
theorem test_cbatch_ctest :
    (then' (exec (.cbatch 0 3) base) fun t => arrived (exec (.ctest 0 3 0) t) fun g => (g.batch, g.regs.readS 3)) = some (some (1, 1)) := by decide

/-- An armed object with count 0 is done: BOTEST reads 1 and disarms it (R241). -/
theorem test_botest :
    (then' (exec (.boinit 0 2 1) (regs [0, 0])) fun t => arrived (exec (.botest 0 3 2) t) fun g => g.regs.readS 3) = some (some 1)
    ∧ (then' (exec (.boinit 0 2 1) (regs [0, 5])) fun t => arrived (exec (.botest 0 3 2) t) fun g => g.regs.readS 3) = some (some 0) := by decide

/-- A job in a slot of core 0, run from a copy within scratchpad. -/
theorem test_meets_job_steps :
    (then' (exec (.cpy 0 1 0 0 3) (copySS 128)) fun t => ((t.core 0).jobs.find? (fun j => j.id = 0)).map fun j =>
      (decide (j.kind = .copy (.scratch 0) (.scratch 256) 128), decide j.granules.Nodup, Memory.wf (t.core 0).sram, jobReady t 0 j,
        decide (jobMisses t 0 j = []))) = some (some (true, true, true, true, true))
    ∧ (then' (exec (.cpy 0 1 0 0 3) (copySS 128)) fun t => (then' (exec (.jobStart 0 0) t) fun u =>
        (u.core 0).jobs.map fun j => (j.started, j.acks))) = some (some [(true, 0)]) := by decide +kernel

/-- A job that is complete tells a token that waits for it when its writes are visible (R240). -/
theorem test_meets_told_token :
    (then' (exec (.cpy 0 1 0 0 3) (copySS 128)) fun t =>
      let jobs := (t.core 0).jobs.map fun j => { j with started := true, acks := 0, gwct := 9 }
      let token := jobs.map fun j => { j with id := 7, after := [0], dueAt := 4 }
      then' (exec (.jobComplete 0 0) (t.setCore 0 { t.core 0 with jobs := jobs ++ token })) fun u =>
        (u.core 0).jobs.map fun j => (j.id, j.dueAt)) = some (some [(7, 9)]) := by decide +kernel

/-- A copy whose destination begins inside its source (R231). -/
theorem test_meets_overlap :
    (then' (exec (.cpy 0 1 0 0 3) (regs [0, 0, 64, 128])) fun t => ((t.core 0).jobs.find? (fun j => j.id = 0)).map fun j =>
      (decide (j.kind = .copy (.scratch 0) (.scratch 64) 128), j.overlaps, jobReady t 0 j)) = some (some (true, true, true)) := by decide +kernel

/-! ### The matrix units -/

/-- A crew that holds tile 0 on a core whose region 0 is its context's; s1 to s8 describe a layout. -/
def tiled (l : List Word) (mw : Word := 0x1F + 7 * 64) : State :=
  let s := at' fun g => { g with regs := { g.regs with s := l, act := 1, lay := [layout], mw := mw } }
  let s1 := s.setCore 0 { s.core 0 with accown := [1], live := [1] }
  s1.setCrew 0 0 (match s1.crew? 0 0 with | some k => some { k with held := 1 } | none => none)

theorem test_meets_matrix_registers :
    Ready (d' (.mlay 0 0 1) 0xD0 (codesS 1 8) []) (regs [0, 0, 7, 0x00200020, 0x00010001, 1, 32]) (now (regs [0, 0, 7, 0x00200020, 0x00010001, 1, 32]))
    ∧ (7 : Word) < 64 ∧ ¬ (64 : Word) < 64 ∧ (0x00200020 : Word).extractLsb' 0 16 ≠ 0 ∧ (0x00200000 : Word).extractLsb' 0 16 = 0
    ∧ Ready (d' (.mgang 0 1) 0xD1 [codeS 1] []) (regs [0, 0x01000000]) (now (regs [0, 0x01000000]))
    ∧ (slotCrew 0).groups.length = 1 :=
  ⟨ready_of_met (by decide), by decide, by decide, by decide, by decide, ready_of_met (by decide), by decide⟩

theorem test_meets_matrix_operations :
    let q : Desc := { word := encode (.mma 0 0 4 0 0), op := 0xD2, st := 0, vtop := topOf [4, 5], types := setX, masked := true, reads := [4, 5] }
    Ready q (tiled []) (now (tiled [])) ∧ (now (tiled [])).regs.gang = 0 ∧ (now (tiled [])).reuse = none
    ∧ effMask (tiled []) (now (tiled [])) ≠ 0 ∧ tilesLocked ((tiled []).core 0) [0] = false
    ∧ recordFailures (slotCrew 0).granules ⟨0xD2, 0, 7, layout, false⟩ (encode (.mma 0 0 4 0 0)) = []
    ∧ ((tiled []).core 0).owner 0 = 1 ∧ ((tiled []).crew? 0 0).map (fun k => (k.ctx, k.held)) = some (1, 1)
    ∧ (base.core 0).owner 0 ≠ (slotCrew 0).ctx ∧ ((tiled []).core 0).mats.length < 16 :=
  ⟨ready_of_met (by decide), by decide, by decide, by decide, by decide, by decide +kernel, by decide, by decide, by decide, by decide⟩

theorem test_meets_tile_transfers :
    Ready (d' (.accz 0 0 0) 0xD4 [] []) (tiled []) (now (tiled [])) ∧ 0 + 2 ^ 0 ≤ 64 ∧ 64 < 63 + 2 ^ 1
    ∧ Ready (d' (.accst 0 1 0 0 0 0 0) 0xD6 (codesS 1 2) []) (tiled [0, 0, 0]) (now (tiled [0, 0, 0]))
    ∧ layEtype layout ∈ [0, 2, 5, 6, 7, 9, 10] ∧ 8 * layEs layout = etWidth (layEtype layout)
    ∧ elementFailures (tiled []) (slotCrew 0) .normal false 0 layout 0 .write = [] :=
  ⟨ready_of_met (by decide), by decide, by decide, ready_of_met (by decide), by decide, by decide, by decide +kernel⟩

/-- ACCLD's record: F16x2 elements of two bytes. -/
theorem test_meets_tile_load :
    let lay : BitVec 256 := 0#32 ++ 0#32 ++ 32#32 ++ 1#32 ++ 0x00010001#32 ++ 0x00200020#32 ++ 0x15#32 ++ 0#32
    layEtype lay ∈ [2, 5, 6] ∧ 8 * layEs lay = etWidth (layEtype lay) ∧ layCount lay = 1024
    ∧ elementFailures base (slotCrew 0) .normal false 0 lay 0 .read = [] := by decide +kernel

theorem test_meets_tile_allocation :
    Ready (d' (.accalloc 0 3 0 1) 0xD7 [] [codeS 3, codeP 1]) (tiled []) (now (tiled [])) ∧ ((tiled []).core 0).oldestReserve = none
    ∧ ((tiled []).core 0).findBlock 1 false 1 = some 1 ∧ ({ base.core 0 with accown := [2, 2, 2, 2], live := [1, 1, 1, 1] } : Core).findBlock 1 false 1 = none
    ∧ Ready (d' (.accfree 0 3 0) 0xD8 [codeS 3] []) (tiled []) (now (tiled [])) ∧ tilesBusy ((tiled []).core 0) 0 0 0 1 = false
    ∧ (1 : Nat) % 2 ≠ 0 :=
  ⟨ready_of_met (by decide), by decide, by decide +kernel, by decide +kernel, ready_of_met (by decide), by decide, by decide⟩

/-- A range beyond tile 63 traps with cause 0x02, in a copy group too; a tile of another context traps with cause 0x30, one that the crew does not hold with 0x31, and one it holds makes a job (R104, R278, R286). -/
theorem test_accz :
    trap (exec (.accz 0 63 1) (at' fun g => { g with role := .copy })) = some (0x02, 0, (encode (.accz 0 63 1)).toNat)
    ∧ trap (exec (.accz 0 0 0) (at' fun g => { g with role := .copy })) = some (0x03, 0, (encode (.accz 0 0 0)).toNat)
    ∧ trap (exec (.accz 0 0 0) base) = some (0x30, 0, 0)
    ∧ trap (exec (.accz 0 5 0) (tiled [])) = some (0x31, 0, 5)
    ∧ (then' (exec (.accz 0 0 0) (tiled [])) fun t => (t.core 0).mats.length) = some 1
    ∧ (then' (exec (.accz 0 5 0) base) fun t => (t.core 0).locked.map fun o => o.isSome) = some [true] := by decide +kernel

/-- ACCZ's job in its queue: it is ready, and its step clears the tile (R281). -/
theorem test_meets_matrix_steps :
    (then' (exec (.accz 0 0 0) (tiled [])) fun t => ((t.core 0).mats.find? (fun j => j.id = 0)).map fun j =>
      (decide (j.kind = .zero 0 1), matReady t 0 j)) = some (some (true, true))
    ∧ (then' (exec (.accz 0 0 0) ((tiled []).setCore 0 { (tiled []).core 0 with acc := [(3, 7), (1024, 9)] })) fun t =>
        (then' (exec (.matrixJobStart 0 0) t) fun u => (u.core 0).acc)) = some (some [(1024, 9)]) := by decide +kernel

/-- A write of ACCOWNk that waits, in an idle region. -/
theorem test_meets_owner_write :
    let s := (tiled []).setCore 0 { (tiled []).core 0 with ownWrite := [some (7, 0)] }
    getAt none (s.core 0).ownWrite 0 = some (7, 0) ∧ regionBusy (s.core 0) 0 = false
    ∧ (then' (exec (.accownTakeEffect 0 0) s) fun t => (t.core 0).owner 0) = some 7 := by decide +kernel

/-- MMA of a tile of ones by zeros keeps the tile; MGANG of a group that does not exist traps (R268, R275). -/
theorem test_mma_and_mgang :
    (then' (exec (.mma 0 0 4 0 0) (tiled [])) fun t => (t.core 0).mats.length) = some 1
    ∧ trap (exec (.mgang 0 1) (regs [0, 0x01000003])) = some (0x02, 0, 0x01000003) := by decide +kernel

/-! ### Windows, posts and scheduling -/

theorem test_meets_exit :
    (let s := stacked 1
     Ready (d' (.exit 0) 0x0C [] []) (s.modGroup ⟨0, 0, 0⟩ fun g => { g with regs := { g.regs with act := 2 } })
        (now (s.modGroup ⟨0, 0, 0⟩ fun g => { g with regs := { g.regs with act := 2 } }))
      ∧ (now s).stack = [] ++ ⟨false, 64, 1, 0x1F⟩ :: [] ∧ (1 : Mask) &&& ~~~ (2 : Mask) ≠ 0 ∧ (now s).windowWake = none)
    ∧ (Ready (d' (.exit 0) 0x0C [] []) base (now base) ∧ (now base).stack = [] ∧ (now base).outst = []) :=
  ⟨⟨ready_of_met (by decide), by decide, by decide, by decide⟩, ⟨ready_of_met (by decide), by decide, by decide⟩⟩

/-- EXIT of all lanes retires the group, of the lanes of one path goes on with the other (R37). -/
theorem test_exit :
    (then' (exec (.exit 0) base) fun t => decide (t.group? ⟨0, 0, 0⟩ = none)) = some true
    ∧ after (exec (.exit 0) ((stacked 1).modGroup ⟨0, 0, 0⟩ fun g => { g with regs := { g.regs with act := 2 } }))
        (fun g => (g.pc, g.regs.act, g.regs.xm)) = some (64, 1, 2) := by decide

/-- A window of kind 0 with panes of 10. -/
def win : WinDesc := ⟨0, 10, 0, 0, 0, 1, 1, 0, 0, 64, 0, 128, 0⟩

/-- An open slate of key 3 that a wake's lane 0 holds. -/
def slate : Slate where
  id := 0
  stream := 7
  program := 0
  key := 3
  start := 10
  stop := 20
  count := 1
  flags := 0
  frame := [5]
  out := true
  shut := false
  items := []
  stamp := 0
  spilled := false
  fetching := false
  gone := false
  backed := true
  bank := some 8
  place := none

/-- A Dormer in bank 8 of launch 0, whose stream 7 stands at watermark −5. -/
def dormer (slates : List Slate) (ready : List WakeItem := []) : Dormer := ⟨0, [8], [⟨7, -5, false⟩], slates, 1, 0, ready, [], []⟩

/-- A group that an open wake started with lanes 0 and 1, of which lane 0 holds the slate. -/
def woken (f : Group → Group := id) : State :=
  let s := base.modLaunch 0 fun l => { l with block := { l.block with kind := 2, win := some win } }
  (s.setCore 0 { s.core 0 with dormers := [dormer [slate]] }).modGroup ⟨0, 0, 0⟩ fun g =>
    f { g with
      regs := { g.regs with act := 3, v := [[8]] }
      stream := 7
      wake := some (.open, [⟨some 0, none, false, false, some ⟨10, 20, 3, 1, 0⟩, none⟩, ⟨none, none, false, false, none, none⟩]) }

/-- The same with a guard on p0, that leaves lane 0 alone. -/
def wokenOne : State := woken fun g => { g with regs := { g.regs with p := [1], mw := 0 } }

theorem test_meets_wake_ends :
    let q : Desc := { word := encode (.wclose 0), op := 0xE1, st := 0, masked := true }
    (Ready q wokenOne (now wokenOne) ∧ effMask wokenOne (now wokenOne) = 1 ∧ (now wokenOne).windowWake = some .open
      ∧ (now wokenOne).regs.act &&& ~~~ (1 : Mask) ≠ 0 ∧ releasedCore (now wokenOne) = true ∧ (curWindow wokenOne).isSome = true
      ∧ (wokenOne.dormer? 0 0).isSome = true ∧ ((now wokenOne).lane 0).slate = some 0 ∧ win.kind ≠ 2)
    ∧ (Ready q base (now base) ∧ effMask base (now base) ≠ 0 ∧ (now base).windowWake = none) :=
  ⟨⟨ready_of_met (by decide), by decide, by decide, by decide, by decide, by decide, by decide, by decide, by decide⟩,
    ⟨ready_of_met (by decide), by decide, by decide⟩⟩

theorem test_meets_wake_reads :
    Ready { word := encode (.winfo 0 3 0), op := 0xE4, st := 0, vtop := topOf [3, 4, 5, 6, 7, 8, 9], writes := [3, 4, 5, 6, 7, 8, 9], masked := true }
      woken (now woken)
    ∧ Ready (d' (.wmark 0 3) 0xE5 [] [codeS 3, codeS 4]) woken (now woken) ∧ (curWindow base).isNone = true ∧ (curWindow woken).isSome = true
    ∧ Ready { word := encode (.wext 0 3), op := 0xE8, st := 0, vtop := topOf [4], reads := [3, 4], masked := true } wokenOne (now wokenOne) :=
  ⟨ready_of_met (by decide), ready_of_met (by decide), by decide, by decide, ready_of_met (by decide)⟩

/-- WYIELD checks the slate in with the lane's frame; WCLOSE frees it; outside a wake WCLOSE traps with cause 0x01 (R306). -/
theorem test_wake_ends :
    (then' (exec (.wyield 0) wokenOne) fun t => (t.dormer? 0 0).map fun d => d.slates.map fun z => (z.frame, z.out)) = some (some [([8], false)])
    ∧ (then' (exec (.wclose 0) wokenOne) fun t => (t.dormer? 0 0).map fun d => d.slates.length) = some (some 0)
    ∧ trap (exec (.wclose 0) base) = some (0x01, 0, (encode (.wclose 0)).toNat) := by decide +kernel

/-- WINFO reads the slate, and bit 31 of the flags in a lane without one; WMARK reads −5 (R308). -/
theorem test_winfo_wmark :
    arrived (exec (.winfo 0 3 0) woken) (fun g => (g.regs.readV 3 0, g.regs.readV 7 0, g.regs.readV 9 1)) = some (10, 3, 0x80000000)
    ∧ arrived (exec (.wmark 0 3) woken) (fun g => (g.regs.readS 3, g.regs.readS 4)) = some (0xFFFFFFFB, 0xFFFFFFFF) := by decide +kernel

/-- Records in v0 to v15 of lanes 0 and 1: stream 7, key 3. -/
def posting (x : Word := 7) : State := at' fun g => { g with regs := { g.regs with
  act := 3, v := [[x, x], [3, 3], [9, 9]], s := [] } }

theorem test_meets_posts :
    let ds := List.range 16
    Ready { word := encode (.rpost 0 0 0 0), op := 0xE6, st := 0, vtop := topOf ds, reads := ds, masked := true } posting (now posting)
    ∧ acquirePending (now posting) = false ∧ (posting.part 0).pctl.getLsbD 0 = true ∧ posting.recs = []
    ∧ (laneRecord (now posting) 0 0).extractLsb' 19 13 = 0 ∧ (laneRecord (now (posting 0x80000)) 0 0).extractLsb' 19 13 ≠ 0
    ∧ (activeLanes (effMask posting (now posting))).head? = some 0
    ∧ Ready { word := encode (.wemit 0 0 0 0), op := 0xE2, st := 0, vtop := topOf ds, reads := ds, masked := true } woken (now woken)
    ∧ (now woken).windowWake ≠ none :=
  ⟨ready_of_met (by decide), by decide, by decide, by decide, by decide, by decide, by decide, ready_of_met (by decide), by decide⟩

/-- A bin of count 2 that holds no record yet, and lane 0 alone. -/
def binned : State :=
  let s := posting.setPart 0 { posting.part 0 with bins := [⟨4, 0, 2, 0, [], true⟩] }
  s.modGroup ⟨0, 0, 0⟩ fun g => { g with regs := { g.regs with act := 1, v := [[7], [3], [9], [], [], [], [], [], [], [], [], [], [], [], [], [], [4]] } }

theorem test_meets_bin_post :
    Ready { word := encode (.bpost 0 0 16), op := 0xE7, st := 0, vtop := topOf (16 :: List.range 16), reads := 16 :: List.range 16, masked := true }
      binned (now binned) ∧ effMask binned (now binned) = 1 ∧ (binned.part 0).bin? 4 = some ⟨4, 0, 2, 0, [], true⟩ :=
  ⟨ready_of_met (by decide), by decide, by decide⟩

/-- RPOST sends a record for each lane; a reserved flag bit traps with cause 0x02 and the lane; BPOST fills its bin (R309, R325). -/
theorem test_posts :
    (then' (exec (.rpost 0 0 0 0) posting) fun t => t.recs.map fun r => recStream r.record.bits) = some [7, 7]
    ∧ trap (exec (.rpost 0 0 0 0) (posting 0x80000)) = some (0x02, 0, 0)
    ∧ (then' (exec (.bpost 0 0 16) binned) fun t => ((t.part 0).bin? 4).map fun b => b.records.length) = some (some 1) := by decide +kernel

theorem test_meets_stage_rings :
    Ready (d' (.srwait 0 1 0 3) 0xEA [] []) base (now base) ∧ Ready (d' (.srsigR 0 1 0) 0xEB [codeS 1] []) base (now base)
    ∧ base.crew? 0 0 ≠ none ∧ releasedCore (now base) = true :=
  ⟨ready_of_met (by decide), ready_of_met (by decide), by decide, by decide⟩

/-- The arrival count is 1: one signal flips the slot's phase; a wait for the other phase waits (R49). -/
theorem test_stage_ring :
    (then' (exec (.srsig 0 0 3) base) fun t => (t.crew? 0 0).map fun k => (k.ringSlot 0 3, k.ringSlot 0 2)) = some (some ((true, 0), (false, 0)))
    ∧ after (exec (.srwait 0 1 0 3) base) (fun g => g.wait) = some (.ring 0 3 true)
    ∧ after (exec (.srwait 0 0 0 3) base) (fun g => g.wait) = some .none := by decide +kernel

/-- A counter table of one page with counter 2 of context 1 at value 9 and status 0. -/
def counted (l : List Word) (f : Group → Group := id) : State :=
  let s := base.setPart 0 { base.part 0 with cnt := 0x1001 }
  (s.writeHdm 0 (0x1000 + 32) ([9, 0, 0, 0, 0, 0, 0, 0] ++ [0, 0, 0, 0] ++ [1, 0, 0, 0])).modGroup ⟨0, 0, 0⟩ fun g =>
    f { g with regs := { g.regs with s := l } }

theorem test_meets_counter_wait :
    let q := d' (.cntwait 0 4 1 0) 0xEC (codesS 1 3) [codeS 4]
    counterValid (counted []) 0 1 2 = true ∧ counterValid (counted []) 0 1 3 = false
    ∧ (counterValue (counted []) 0 2).toNat = 9 ∧ Ready q (counted [0, 2, 9, 0]) (now (counted [0, 2, 9, 0]))
    ∧ Ready q (counted [0, 2, 10, 0]) (now (counted [0, 2, 10, 0])) ∧ (counterStatus (counted []) 0 2).getLsbD 0 = false :=
  ⟨by decide +kernel, by decide +kernel, by decide +kernel, ready_of_met (by decide), ready_of_met (by decide), by decide +kernel⟩

theorem test_meets_scheduling :
    (let s := (regs [0, 8]).modLaunch 0 fun l => { l with block := { l.block with kind := 1, gridX := 2, gridY := 2 } }
     Ready (d' (.wdq 0 1) 0xE9 [codeS 1] []) s (now s) ∧ (s.launch? 0).map (fun l => l.block.kind) = some 1 ∧ acquirePending (now s) = false
      ∧ (s.core 0).jobs.length < 32)
    ∧ Ready (d' (.cancel 0 1 0) 0xED [codeS 1] []) (counted [0, 2]) (now (counted [0, 2])) ∧ ((counted [0, 2]).launches.map Launch.seq).Nodup
    ∧ (let s := mem' fun g => { g with regs := { g.regs with s := [0, 0] } }
       Ready (d' (.launchq 0 4 1 1) 0xEE [codeS 1, codeC 1] [codeS 4]) s (now s) ∧ (now s).usc = 0 ∧ (now s).buf = []
        ∧ accessCauses s 0 .normal (capMake 5 0 512 15) 0 256 .read = [] ∧ accessCauses s 0 .normal (capMake 5 0 512 15) 512 256 .read = [0x08, 0x11]) :=
  ⟨⟨ready_of_met (by decide), by decide, by decide, by decide⟩, ready_of_met (by decide), by decide,
    ready_of_met (by decide), by decide, by decide, by decide +kernel, by decide +kernel⟩

/-- A counter at 9: a wait for 9 is met and reads 1; one for 10 waits; an id of another context traps with cause 0x02 (R333, R334). -/
theorem test_cntwait :
    arrived (exec (.cntwait 0 4 1 0) (counted [0, 2, 9, 0])) (fun g => g.regs.readS 4) = some 1
    ∧ after (exec (.cntwait 0 4 1 0) (counted [0, 2, 10, 0])) (fun g => g.wait) = some (.cntwait 4 2 10)
    ∧ trap (exec (.cntwait 0 4 1 0) (counted [0, 3, 0, 0])) = some (0x02, 0, 3) := by decide +kernel

/-- CANCEL of a level that no launch has leaves the launch as it is; WDQ outside a persistent launch traps with cause 0x01 (R326, R335). -/
theorem test_cancel_and_wdq :
    (then' (exec (.cancel 0 1 0) (counted [0, 2])) fun t => t.launches.map Launch.state) = some [.eligible]
    ∧ trap (exec (.wdq 0 1) (regs [0, 8])) = some (0x01, 0, (encode (.wdq 0 1)).toNat) := by decide +kernel

/-! ### Steps of the memory system -/

/-- A load of LDU from line 2, byte 4 on, into s3. -/
def ld : LoadMsg where
  id := 0
  gid := ⟨0, 0, 0⟩
  part := 0
  after := []
  bytes := [260, 261, 262, 263]
  minVer := []
  out := 0
  line := 2
  lease := 100
  gateway := none
  leftCache := some 0
  phase := .toHome
  data := []
  expiry := 0
  vers := []
  poison := false

/-- The group waits for the load, which stands at a phase. -/
def loading (p : LoadPhase) (gw : Option Nat) (data : List (BitVec 8)) (expiry : Nat) : State :=
  let s := at' fun g => { g with outst := [⟨0, [codeS 3], .loadU 3 ⟨0, [260, 261, 262, 263], []⟩ [] [], [2], 0⟩] }
  { s with
    loads := [{ ld with phase := p, gateway := gw, data := data, expiry := expiry }], mem := [(260, 0x44), (261, 0x33)]
    gateways := [⟨[], [0x10]⟩] }

/-- A line 2 held under a lease up to tick 50. -/
def held : HeldLine := ⟨2, [1], 50, [], 0, false, 4⟩

/-- A gateway cache that holds line 2. -/
def gatewayed : State := { loading .toGateway (some 0) [] 0 with gateways := [⟨[held], []⟩] }

theorem test_meets_home_loads :
    (let s := loading .toHome none [] 0
     s.loads.find? (fun m => m.id = 0 && m.phase = .toHome) = some ld ∧ tileBusy s 2 = false ∧ sliceMoving s 2 = false ∧ mustFollowMsgs s [] = false)
    ∧ (gatewayed.loads.find? (fun m => m.id = 0 && m.phase = .toGateway) = some { ld with phase := .toGateway, gateway := some 0 }
        ∧ liveCopy gatewayed.gt 2 (getAt Gateway.reset gatewayed.gateways 0).lines = some held ∧ ∀ a ∈ ld.bytes, loadVer gatewayed ld a ≤ verAt held.vers a)
    ∧ (let s := loading .toGateway (some 0) [] 0
       (s.loads.find? (fun m => m.id = 0 && m.phase = .toGateway)).isSome = true ∧ (getAt Gateway.reset s.gateways 0).lines = [])
    ∧ (let s := loading .gatewayFill (some 0) [7] 60
       (s.loads.find? (fun m => m.id = 0 && m.phase = .gatewayFill)).map (fun m => decide (s.gt + 4 < m.expiry)) = some true
        ∧ getAt 0 (getAt Gateway.reset s.gateways 0).ways 0 ≠ 0)
    ∧ ((loading .gatewayFill (some 0) [7] 4).loads.find? (fun m => m.id = 0 && m.phase = .gatewayFill)).map (fun m => decide (m.expiry ≤ 0 + 4)) = some true := by
  decide +kernel

/-- HOME_LOAD answers with the line; LOAD_RESPONSE puts its bytes, lowest address first, into s3 (R85, R179). A gateway keeps the line in its partition's way 4, and
asks again for one that has run out (R179, R353). -/
theorem test_load_to_register :
    (then' (exec (.homeLoad 0) (loading .toHome none [] 0)) fun t => t.loads.map fun m => (decide (m.phase = .response), m.expiry, m.data.length)) = some [(true, 100, 128)]
    ∧ (then' (exec (.homeLoad 0) (loading .toHome none [] 0)) fun t => after (exec (.loadResponse 0) t) fun g => g.regs.readS 3) = some (some 0x3344)
    ∧ (then' (exec (.gatewayFillResponse 0) (loading .gatewayFill (some 0) [7] 60)) fun t => t.gateways.map fun g => g.lines.map HeldLine.way) = some [[4]]
    ∧ (then' (exec (.gatewayFillResponse 0) (loading .gatewayFill (some 0) [7] 4)) fun t => t.loads.map fun m => decide (m.phase = .toHome)) = some [true] := by
  decide +kernel

/-- A line write of a group: two bytes of line 2. -/
def wr : WriteMsg where
  id := 5
  issuer := .group ⟨0, 0, 0⟩
  part := 0
  after := []
  seenBy := []
  acqs := 0
  line := 2
  bytes := [(4, 0xAA), (7, 0xBB)]
  lease := 0
  host := false
  shared := false
  poison := false
  phase := .toHome
  gwct := 0
  ver := 0

/-- The write at a phase, of device or host memory; the group has one uncompleted. -/
def writing (m : WriteMsg) (copies : List Nat := []) : State :=
  { at' (fun g => { g with usc := 1 }) with writes := [m], hostCopies := copies }

theorem test_meets_home_writes :
    (writing wr).memOk = true ∧ (∀ b ∈ wr.bytes, isAccAddr (128 * wr.line + b.1) = false)
    ∧ (writing wr).writes.find? (fun m => m.id = 5 && m.phase = .toHome) = some wr ∧ homeWaits (writing wr) 0 2 false [] = false ∧ wr.shared = false
    ∧ 2 ∈ (writing { wr with host := true } [2]).hostCopies ∧ homeWaits (writing { wr with shared := true }) 0 2 true [] = false
    ∧ ((writing { wr with phase := .backInval } [2]).writes.find? (fun m => m.id = 5 && m.phase = .backInval)).isSome = true
    ∧ ((writing { wr with phase := .atPort }).writes.find? (fun m => m.id = 5 && m.phase = .atPort)).isSome = true ∧ mustFollowMsgs (writing { wr with phase := .atPort }) wr.after = false
    ∧ (let s := { writing { wr with phase := .backInval, after := [0] } [2] with loads := [ld] }
       (s.writes.find? (fun m => m.id = 5 && m.phase = .backInval)).isSome = true ∧ mustFollowMsgs s [0] = true
        ∧ (match exec (.backInvalidationResponse 5) s with | .refused (.notEnabled n) => n == "BACK_INVALIDATION_RESPONSE" | _ => false) = true)
    ∧ ((writing { wr with phase := .ack, gwct := 9 }).writes.find? (fun m => m.id = 5 && m.phase = .ack)).map (fun m => decide (m.issuer = .group ⟨0, 0, 0⟩)) = some true
    ∧ (let s := { writing { wr with shared := true } with portLines := List.replicate 256 (portOf base 0, 3) }
       256 ≤ (s.portLines.filter fun x => decide (x.1 = portOf s 0)).length ∧ (portOf s 0, 2) ∉ s.portLines) := by decide +kernel

/-- HOME_WRITE changes the bytes of the write; STORE_ACK lowers USC and raises LGWCT (R180, R181). -/
theorem test_write_and_ack :
    (then' (exec (.homeWrite 5) (writing wr)) fun t => (t.mem, t.writes.map fun m => decide (m.phase = .ack))) = some ([(260, 0xAA), (263, 0xBB)], [true])
    ∧ after (exec (.storeAck 5) (writing { wr with phase := .ack, gwct := 9 })) (fun g => (g.usc, g.lgwct)) = some (0, 9) := by decide +kernel

/-- An ATOM_ADD of 5 to the word at 260. -/
def atm : AtomMsg where
  id := 6
  issuer := .group ⟨0, 0, 0⟩
  part := 0
  after := []
  out := 0
  line := 2
  ops := [⟨0, 260, 0, 5, 0⟩]
  lease := 0
  host := false
  shared := false
  phase := .toHome
  olds := []
  poison := false
  gwct := 0
  ver := 0

theorem test_meets_home_atomics :
    let s := { base with atoms := [atm], mem := [(260, 1)] }
    s.memOk = true ∧ s.atoms.find? (fun m => m.id = 6 && m.phase = .toHome) = some atm ∧ homeWaits s 0 2 false [] = false
    ∧ atm.shared = false ∧ 2 ∉ s.hostCopies ∧ atm.ops = [⟨0, 260, 0, 5, 0⟩] ∧ isAccAddr (260 + 3) = false
    ∧ (then' (exec (.homeAtomic 6) s) fun t => (t.mem, t.atoms.map fun m => m.olds)) = some ([(260, 6)], [[(0, 1)]]) := by decide +kernel

theorem test_meets_cache_drop :
    let s := base.setCore 0 { base.core 0 with cache := [held, { held with line := 3 }] }
    (∃ h ∈ (s.core 0).cache, h.line = 2) ∧ (then' (exec (.coreCacheLineDrop 0 2) s) fun t => (t.core 0).cache.map HeldLine.line) = some [3] :=
  ⟨⟨_, List.mem_cons_self, rfl⟩, by decide +kernel⟩

theorem test_meets_results :
    (let s := loading .response none [] 0
     (s.loads.find? (fun m => m.id = 0 && m.phase = .response)).map (fun m => (decide (m.gid = ⟨0, 0, 0⟩), m.poison, m.out, loadStale s m m.vers))
        = some (true, false, 0, false) ∧ (∀ a ∈ [260, 261, 262, 263], lineOf a = 2))
    ∧ (now (at' fun g => { g with outst := [⟨4, [codeS 3], .value [(codeS 3, .scal 7)], [], 0⟩] })).outst.find? (fun o => o.id = 4)
        = some ⟨4, [codeS 3], .value [(codeS 3, .scal 7)], [], 0⟩
    ∧ (now (at' fun g => { g with wait := .cwait 2 1 3, closed := [⟨1, [], 0⟩] })).wait = .cwait 2 1 3
    ∧ (∀ b ∈ [(⟨1, [], 0⟩ : Batch)], ((1 : Word) - b.num).toNat < 2147483648 → b.jobs = [] ∧ ((2 : Nat) < 2 ∨ b.gwct ≤ base.gt))
    ∧ (now (at' fun g => { g with held := some 1 })).held = some 1 ∧ (now base).lgwct.toNat ≤ base.gt := by decide

/-- A branch of a multicast to the crew. -/
def cast : CastMsg := ⟨3, 0, 0, 0, 0, 256, [1, 2, 3, 4], false, 0⟩

/-- The launch's crew has its place in slot 0 of core 0. -/
def placed (f : Launch → Launch := id) : State := base.modLaunch 0 fun l => f { l with places := [(0, 0, 0)] }

theorem test_meets_delivery :
    let s := { placed with casts := [cast] }
    s.casts.find? (fun m => m.id = 3) = some cast ∧ (s.launch? 0).map (fun l => (decide (l.state = .eligible), l.finished, l.places)) = some (true, [], [(0, 0, 0)])
    ∧ s.crew? 0 0 = some (slotCrew 0) ∧ Memory.wf (s.core 0).sram = true ∧ (slotCrew 0).granules.Nodup ∧ 256 + 4 ≤ 128 * (slotCrew 0).granules.length
    ∧ (then' (exec (.multicastDelivery 3) s) fun t => scratchWord (t.core 0) (slotCrew 0).granules 256) = some 0x04030201 := by decide +kernel

/-- A page request group of the group, for page 5. -/
def pageGroup : PageGroup := ⟨2, ⟨0, 0, 0⟩, ⟨0, 0, 0⟩, none, none, .live, [(0, 5)], [(5, false)], 1⟩

theorem test_meets_waits :
    (let s := { at' (fun g => { g with state := .user }) with gt := 16777216 }
     (now s).state = .user ∧ (now s).userSince + 16777216 ≤ s.gt ∧ trap (exec (.watchdog 0 0 0) s) = some (0x51, 0, 0x1000000))
    ∧ (let s := { at' (fun g => { g with wait := .gt 9 }) with gt := 9 }; (now s).wait = .gt 9 ∧ 9 ≤ s.gt)
    ∧ (let s := at' fun g => { g with ready := 12288 }
       (now s).wait = .none ∧ (now s).halt = .running ∧ (now s).starved = false ∧ 1024 * 12 ≤ (now s).ready
        ∧ after (exec (.issueStarvation 0 0 0) s) Group.starved = some true)
    ∧ (let s := base.setPart 0 { base.part 0 with pages := [pageGroup] }
       (s.part 0).pages.find? (fun p => p.index = 2) = some pageGroup ∧ 1 ∉ (s.part 0).retired
        ∧ (then' (exec (.pageResponse 0 2 .success [7]) s) fun t => t.hostPages) = some [⟨0, 5, 7, true⟩])
    ∧ (base.loads = [] ∧ base.buffered = [] ∧ base.writes = [] ∧ base.atoms = []) := by decide +kernel

/-- A WAITM of the word at byte 0 of object 5 for a word other than v. -/
def wtm (v : Word) : Waitm := ⟨3, v, 0, 1000, 5, 0, none, none, false⟩

/-- The group has an outstanding WAITM, and the word holds 6. -/
def polling (w : Waitm) : State := { mem' (fun g => { g with outst := [⟨0, [codeS 3, codeS 4], .waitm w, [], 0⟩] }) with mem := [(0x1000, 6)], gt := 300 }

/-- WAITM_POLL ends the wait with the word and 0 where the word meets the condition (R207); where it does not, time stands still once 256
ticks have passed since the last read (log 51). -/
theorem test_meets_waitm :
    (let s := polling (wtm 0)
     let ps := waitmPlaces s ⟨0, 0, 0⟩ 0 (wtm 0)
     let as := (placeBytes ps).map fun b => b.1
     missPages ps = [] ∧ as.length = 4 ∧ readWaits s ⟨0, 0, 0⟩ (now s) 0 as = false ∧ (∀ a ∈ as, lineOf a ∉ s.poison) ∧ waitmWord s ⟨0, 0, 0⟩ (now s) 0 as = 6
      ∧ after (exec (.waitmPoll 0 0 0) s) (fun g => (g.regs.readS 3, g.regs.readS 4)) = some (6, 0))
    ∧ after (exec (.waitmPoll 0 0 0) (polling (wtm 6))) (fun g => g.outst.length) = some 1
    ∧ (let w := { wtm 6 with readAt := some 40 }
       (polling w).allGroups = [⟨0, 0, 0⟩] ∧ (now (polling w)).waitms.length = 1 ∧ 40 + 256 ≤ (polling w).gt ∧ waitmSlack (polling w) 9 = 0) := by decide +kernel

/-! ### Launches and queues -/

theorem test_meets_launches :
    (let s := base.modLaunch 0 fun l => { l with state := .waiting, block := { l.block with waits := [] } }
     (s.launch? 0).map (fun l => (decide (l.state = .waiting), l.block.waits)) = some (true, [])
      ∧ (then' (exec (.launchEligible 0) s) fun t => t.launches.map fun l => decide (l.state = .eligible)) = some [true])
    ∧ (let s := base.modLaunch 0 fun l => { l with placed := [], places := [], waited := 196608 }
       (s.launch? 0).map (fun l => (l.wants, decide (l.prio < 255), decide (16384 * 12 ≤ l.waited))) = some (true, true, true)
        ∧ (then' (exec (.priorityAging 0) s) fun t => t.launches.map Launch.raised) = some [1])
    ∧ (let s := base.modLaunch 0 fun l => { l with finished := [0], places := [] }
       (s.launch? 0).map (fun l => (decide (l.block.kind < 2), decide (l.finished.length = l.block.crews), workLeft s l)) = some (true, true, false)
        ∧ (then' (exec (.launchComplete 0) s) fun t => t.launches.map fun l => decide (l.state = .complete)) = some [true])
    ∧ (let s := base.modLaunch 0 fun l => { l with state := .cancelling }
       s.cores.all (fun c => c.mats.isEmpty) = true ∧ (then' (exec (.cancelComplete 0) s) fun t => t.launches.map fun l => decide (l.state = .cancelled)) = some [true]) := by decide +kernel

/-- Another launch of the partition, of which no crew is placed. -/
def other : Launch := { slotLaunch 1 with placed := [], places := [] }

/-- The crew of the program slot with a field changed. -/
def crewed (f : Crew → Crew) : State := (placed).setCrew 0 0 (some (f (slotCrew 0)))

theorem test_meets_saves :
    (let s := { (placed).setCrew 0 0 (some { slotCrew 0 with parked := 786432, groups := [some { slotGroup with wait := .barrier 0 }] }) with launches := [slotLaunch 0, other] }
     (s.crew? 0 0).map (fun k => (k.preemptAt, k.longParked, s.launches.any fun o => o.part = k.part && o.wants)) = some (none, true, true)
      ∧ (then' (exec (.eviction 0 0) s) fun t => (t.crew? 0 0).map Crew.preemptAt) = some (some (some 0)))
    ∧ (let s := { crewed (fun k => { k with preemptAt := some 0 }) with gt := 1200 }
       (s.crew? 0 0).map (fun k => (k.preemptAt, k.launch, k.members.any fun y => !(y.2.stopped false))) = some (some 0, 0, true)
        ∧ (s.launch? 0).map (fun l => 0 + l.block.deadline * 1200) = some 1200
        ∧ (then' (exec (.forcedSave 0 0) s) fun t => (t.group? ⟨0, 0, 0⟩).map fun g => decide (g.halt = .saving)) = some (some true))
    ∧ (let s := crewed fun k => { k with preemptAt := some 0, groups := [some { slotGroup with halt := .saving }] }
       (s.crew? 0 0).map (fun k => (decide (k.preemptAt ≠ none), k.members.all fun y => y.2.stopped k.forced, saveWaits s 0 0 k)) = some (true, true, false)
        ∧ (then' (exec (.crewSave 0 0) s) fun t => t.launches.map fun l => l.saved.map Prod.fst) = some [[0]]) := by decide +kernel

/-- The crew's image, which its launch holds. -/
def saved : Saved := ⟨slotCrew 0, [], [], [], []⟩

theorem test_meets_restore :
    let s := (base.setCrew 0 0 none).modLaunch 0 fun l => { l with places := [], saved := [(0, saved)] }
    (passRun s 0).2 = some 0 ∧ ((passRun s 0).1.launch? 0).map (fun l => (l.nextSaved, (pickReplace (passRun s 0).1 l 0 saved).map fun x => (x.1, x.2.1)))
      = some (some (0, saved), some (0, 0))
    ∧ (then' (exec (.crewRestore 0 0 0) s) fun t => (t.crew? 0 0).map Crew.index) = some (some 0) := by decide +kernel

/-- Queue 0 of partition 0, of context 1, with one entry in its ring at host address 0x7000. -/
def theQueue : Queue := ⟨0x2000, 6, 0, 1, 1, 0x3000, 0, 0, false⟩

/-- An entry by its kind, bin flag and arguments. -/
def entryOf (kind : Nat) (bin : Bool) (args : List Nat) : Nat :=
  natLE ([BitVec.ofNat 8 kind, if bin then 1 else 0, 1, 0, 0, 0, 0, 0] ++ args.flatMap (bytesLE 8))

/-- The queue with an entry at its head. -/
def queued (e : Nat) (s : State := counted []) : State :=
  let p := s.part 0
  { s.setPart 0 { p with queues := [(0, theQueue)] } with
    hostPages := [⟨0, 2, hostBase / 4096 + 7, true⟩, ⟨0, 3, hostBase / 4096 + 8, true⟩]
    mem := s.mem ++ ((bytesLE 64 e).zipIdx.filterMap fun b => if b.1 = 0 then none else some (hostBase + 0x7000 + b.2, b.1)) }

/-- Whether the entry stands at the head as R313 and R315 ask. -/
def headed (s : State) (e kind : Nat) : Bool :=
  (s.part 0).queue? 0 = some theQueue && bitOf (s.part 0).pctl.toNat 6 && headEntry s 0 theQueue = some e && entKind e = kind && entOk 0 e

/-- The head after an entry is taken. -/
def headAfter (o : Out) : Option (Option Nat) := then' o fun t => ((t.part 0).queue? 0).map Queue.head

theorem test_meets_queue :
    let s := queued 0
    (s.part 0).queue? 0 = some theQueue ∧ theQueue.stopped = false ∧ theQueue.head ≠ theQueue.tail ∧ bitOf (s.part 0).pctl.toNat 0 = true
    ∧ ((5 : Word) - BitVec.ofNat 32 theQueue.head).toNat ≤ 2 ^ theQueue.log2n ∧ 2 ^ theQueue.log2n < ((65 : Word) - BitVec.ofNat 32 theQueue.head).toNat
    ∧ (then' (exec (.kick 0 0 0 4 5) s) fun t => ((t.part 0).queue? 0).map Queue.tail) = some (some 5)
    ∧ (then' (exec (.kick 0 0 0 4 65) s) fun t => ((t.part 0).queue? 0).map Queue.stopped) = some (some true) := by decide +kernel

theorem test_meets_entries :
    headed (queued (entryOf 1 false [0x2000])) (entryOf 1 false [0x2000]) 1 = true
    ∧ (let e := entryOf 2 false [2, 9]
       headed (queued e) e 2 = true ∧ counterValid (queued e) 0 1 (entArg e 0) = true ∧ counterMet (queued e) 0 (entArg e 0) (entArg e 1) = true
        ∧ headAfter (exec (.waitCounterEntry 0 0) (queued e)) = some (some 1))
    ∧ (let e := entryOf 3 false [2, 5]
       headed (queued e) e 3 = true ∧ counterValid (queued e) 0 1 (entArg e 0) = true ∧ headAfter (exec (.signalCounterEntry 0 0) (queued e)) = some (some 1)
        ∧ (then' (exec (.signalCounterEntry 0 0) (queued e)) fun t => (counterValue t 0 2).toNat) = some 14)
    ∧ (let e := entryOf 3 false [3, 5]
       headed (queued e) e 3 = true ∧ counterValid (queued e) 0 1 (entArg e 0) = false
        ∧ (then' (exec (.signalCounterEntry 0 0) (queued e)) fun t => ((t.part 0).queue? 0).map Queue.stopped) = some (some true)) := by decide +kernel

theorem test_meets_attaches :
    (let e := entryOf 4 false [7 + 4 * 2 ^ 32, 0, 0x5000]
     let s := queued e ((counted []).modLaunch 0 fun l => { l with block := { l.block with kind := 2 } })
     headed s e 4 = true ∧ (attachLaunch s 0 1 (entArg e 1)).map (fun l => l.block.kind) = some 2 ∧ bitsOf (entArg e 0) 36 32 = 4 ∧ entArg e 2 % 4096 = 0
      ∧ (s.part 0).bindings = [] ∧ (then' (exec (.streamAttach 0 0) s) fun t => (t.part 0).bindings) = some [⟨7, 0, 4, 0x5000⟩])
    ∧ (let e := entryOf 4 true [9 + 1 * 2 ^ 16 + 100 * 2 ^ 32, 0]
       let s := queued e ((counted []).modLaunch 0 fun l => { l with block := { l.block with kind := 3 } })
       headed s e 4 = true ∧ entBin e = true ∧ (attachLaunch s 0 1 (entArg e 1)).map (fun l => l.block.kind) = some 3 ∧ bitsOf (entArg e 0) 23 16 < 128
        ∧ (s.part 0).bin? 9 = none ∧ (then' (exec (.streamAttach 0 0) s) fun t => ((t.part 0).bin? 9).map fun b => (b.count, b.timer)) = some (some (2, 100)))
    ∧ (let e := entryOf 5 false [7]
       let s := queued e ((counted []).setPart 0 { (counted []).part 0 with bindings := [⟨7, 0, 4, 0x5000⟩] })
       headed s e 5 = true ∧ (s.part 0).bindings.find? (fun b => b.stream = entArg e 0) = some ⟨7, 0, 4, 0x5000⟩ ∧ ofContext s 0 1 = true
        ∧ (then' (exec (.streamDetach 0 0) s) fun t => (t.part 0).bindings) = some []) := by decide +kernel

/-- The same in the privileged queue. -/
def privileged (e : Nat) : State := let s := queued e; s.setPart 0 { s.part 0 with queues := [(privQueue, theQueue)] }

/-- The privileged queue's head after an entry is taken, where the entry stood at it as R313 and R315 ask. -/
def privAfter (e kind : Nat) (o : Out) : Option (Option Nat) :=
  let s := privileged e
  if (s.part 0).queue? privQueue = some theQueue && headEntry s 0 theQueue = some e && entKind e = kind && entOk privQueue e then
    then' o fun t => ((t.part 0).queue? privQueue).map Queue.head
  else none

theorem test_meets_privileged_entries :
    (let e := entryOf 8 false [0x8000, 3 + 2 ^ 32, 0x3008, 0xA000, 4096]
     entArg e 1 % 1024 ≠ privQueue ∧ entArg e 1 / 2 ^ 32 ≠ 0 ∧ bitsOf (entArg e 1) 19 16 ≤ 10 ∧ entArg e 0 % 4096 = 0 ∧ entArg e 2 % 8 = 0
      ∧ entArg e 3 % 4096 = 0 ∧ privAfter e 8 (exec (.queueCreate 0 privQueue) (privileged e)) = some (some 1)
      ∧ (then' (exec (.queueCreate 0 privQueue) (privileged e)) fun t => ((t.part 0).queue? 3).map fun q => (q.ring, q.log2n, q.ctx)) = some (some (0x8000, 6, 1)))
    ∧ (let e := entryOf 9 false [3]; entArg e 0 ≠ privQueue ∧ privAfter e 9 (exec (.queueDestroy 0 privQueue) (privileged e)) = some (some 1))
    ∧ (let e := entryOf 10 false [0, 7]; privAfter e 10 (exec (.cancelEntry 0 privQueue) (privileged e)) = some (some 1))
    ∧ (let e := entryOf 11 false [0, 0]
       privAfter e 11 (exec (.preEmptEntry 0 privQueue) (privileged e)) = some (some 1) ∧ ((privileged e).part 0).cores.getLsbD 0 = true
        ∧ (then' (exec (.preEmptEntry 0 privQueue) (privileged e)) fun t => (t.crew? 0 0).map fun k => k.preemptAt.isSome) = some (some true)) := by
  decide +kernel

/-! ### Records and wakes -/

/-- A record of stream 7 and key 3, with time stamp 25 and, or not, the WM flag. -/
def rec7 (wm : Bool := false) (ts : Nat := 25) (part : Nat := 0) : Record := ⟨BitVec.ofNat 512 (7 + (if wm then 2 ^ 16 else 0) + 3 * 2 ^ 32 + ts * 2 ^ 64), part⟩

/-- A record on its way. -/
def recMsg (p : RecPhase) (r : Record := rec7) : RecMsg := ⟨4, r, ⟨0, 0, 0⟩, true, none, p, 0, 0, false, none, 1, 0⟩

/-- A window launch with stream 7 attached, on core 0, with a record at a phase. -/
def streamed (m : RecMsg) (slates : List Slate := []) (bs : List Binding := [⟨7, 0, 4, 0⟩]) : State :=
  let s := base.modLaunch 0 fun l => { l with cores := [0], block := { l.block with kind := 2, win := some win } }
  let s1 := s.setPart 0 { s.part 0 with bindings := bs }
  { s1.setCore 0 { s1.core 0 with dormers := [dormer slates] } with recs := [m] }

theorem test_meets_ingress :
    (let s := streamed (recMsg .toIngress)
     s.recs.find? (fun m => m.id = 4 && m.phase = .toIngress) = some (recMsg .toIngress) ∧ (s.part 0).bridge.contains (recStream rec7.bits) = false
      ∧ boundLaunch s 0 (recStream rec7.bits) = some 0 ∧ (s.launch? 0).map Launch.partitionCores = some [0] ∧ nodeHasCredit s 0 0 = true
      ∧ recControl rec7.bits = false ∧ recControl (rec7 true).bits = true)
    ∧ (let s := streamed (recMsg .toIngress); ((s.setPart 0 { s.part 0 with bridge := [7] }).part 0).bridge.contains 7 = true)
    ∧ boundLaunch (streamed (recMsg .toIngress) [] []) 0 7 = none
    ∧ (then' (exec (.recordIngress 4) (streamed (recMsg .toIngress) [] [])) fun t => t.recs.map RecMsg.status) = some [2]
    ∧ (then' (exec (.recordIngress 4) (streamed (recMsg .toIngress))) fun t => t.recs.map RecMsg.phase) = some [.toCore 0] := by decide +kernel

theorem test_meets_acceptance :
    (let s := streamed (recMsg (.toCore 0))
     let d := dormer []
     s.recs.find? (fun m => m.id = 4) = some (recMsg (.toCore 0)) ∧ (recMsg (.toCore 0)).core? = some 0 ∧ recBlocked s (recMsg (.toCore 0)) 0 = false
      ∧ s.dormer? 0 0 = some d ∧ s.win? 0 = some win ∧ faultFull s 0 0 ⟨7, 0, 4, 0⟩ = false ∧ (s.launch? 0).map (fun l => lateReason l win d rec7.bits) = some 0
      ∧ (s.launch? 0).map (fun l => lateReason l win { d with marks := [⟨7, 100, false⟩] } rec7.bits) = some 1
      ∧ win.kind = 0 ∧ d.overfull = false ∧ d.freeBank ≠ none ∧ d.slates = [] ∧ (d.acceptControl win (rec7 true).bits).overfull = false)
    ∧ (then' (exec (.recordAccept 4) (streamed (recMsg (.toCore 0)))) fun t => (t.dormer? 0 0).map fun d => d.slates.map fun x => (x.key, x.start, x.stop, x.count))
        = some (some [(3, 20, 30, 1)])
    ∧ (then' (exec (.recordAccept 4) (streamed (recMsg (.toCore 0) (rec7 true)))) fun t => (t.dormer? 0 0).map fun d => (d.mark 7).wmark) = some (some 25) := by decide +kernel

theorem test_meets_post_acceptance :
    let s := { at' (fun g => { g with wait := .post ⟨true, false, 9, 0, [], [(1, 0)], some 4, 0⟩ }) with recs := [{ recMsg .done with status := 2 }] }
    (s.recs.find? (fun m => m.id = 4 && m.phase = .done)).isSome = true ∧ (now s).wait = .post ⟨true, false, 9, 0, [], [(1, 0)], some 4, 0⟩
    ∧ after (exec (.rpostOrdAcceptance 4) s) (fun g => g.regs.readV 9 1) = some 2 := by decide +kernel

/-- A filter entry that gives stream 7 of partition 0 to stream 8 of partition 1. -/
def pass : BitVec 256 := BitVec.ofNat 256 (1 + 7 * 2 ^ 48 + 1 * 2 ^ 72 + 8 * 2 ^ 80)

theorem test_meets_bridge :
    let s := { base with recs := [recMsg .toBridge], pkg := { base.pkg with filter := [pass] } }
    s.recs.find? (fun m => m.id = 4 && m.phase = .toBridge) = some (recMsg .toBridge)
    ∧ s.pkg.filter.zipIdx.find? (fun e => filterMatches e.1.toNat 0 7) = some (pass, 0) ∧ filterPasses pass.toNat rec7.bits = true ∧ pass.extractLsb' 160 32 = 0
    ∧ (base.pkg.filter = [])
    ∧ (then' (exec (.bridgeFilter 4) s) fun t => t.recs.map fun m => (m.record.part, recStream m.record.bits)) = some [(1, 8)] := by decide +kernel

theorem test_meets_bin_timer :
    let s := { base.setPart 0 { base.part 0 with bins := [⟨4, 0, 2, 10, [(0, 1)], true⟩] } with gt := 10 }
    (s.part 0).bin? 4 = some ⟨4, 0, 2, 10, [(0, 1)], true⟩ ∧ (∀ r ∈ [((0 : Nat), (1 : BitVec 512))].head?, r.1 + 10 ≤ s.gt)
    ∧ (then' (exec (.nodeBinTimer 0 4) s) fun t => (t.part 0).nodeGroups) = some [⟨0, [1]⟩] := by decide +kernel

/-- A graph launch that asks for quiescence on counter 2, with no group resident. -/
def quiet (samples : List Sample) : State :=
  let s := (base.setCrew 0 0 none).modLaunch 0 fun l => { l with places := [], block := { l.block with kind := 3, quiesce := true, graph := 2 } }
  s.setPart 0 { s.part 0 with samples := samples }

theorem test_meets_quiescence :
    (quiescentLaunches (quiet []) 0 2).map Launch.seq = [0] ∧ ((quiet []).part 0).samples = []
    ∧ (let s := quiet [⟨2, 12288, true, 0, 0⟩]
       (s.part 0).samples.find? (fun x => x.counter = 2) = some ⟨2, 12288, true, 0, 0⟩ ∧ (quiescentLaunches s 0 2).all (launchQuiet s) = true
        ∧ ((quiescentLaunches s 0 2).map Launch.posted).sum = 0 ∧ ((quiescentLaunches s 0 2).map Launch.taken).sum = 0)
    ∧ (then' (exec (.quiescenceSample 0 2) (quiet [])) fun t => (t.part 0).samples) = some [⟨2, 0, true, 0, 0⟩] := by decide +kernel

/-- A WDQ query in slot 0 of core 0, to byte 8. -/
theorem test_meets_query :
    let s := (regs [0, 8]).modLaunch 0 fun l => { l with block := { l.block with kind := 1, gridX := 2, gridY := 2 }, cursor := 3 }
    (then' (exec (.wdq 0 1) s) fun t => ((t.core 0).jobs.find? (fun j => j.id = 0)).map fun j =>
      (decide (j.kind = .query 8), earlierQuery (t.core 0) j, mustFollow (t.core 0) j.launch j.slot j.id j.reads j.writes, storesPending t ⟨0, j.slot, j.grp⟩ j.after,
        decide j.granules.Nodup)) = some (some (true, false, false, false, true))
    ∧ (then' (exec (.wdq 0 1) s) fun t => (then' (exec (.wdQuery 0 0) t) fun u => scratchWord (u.core 0) (slotCrew 0).granules 8)) = some (some 0x00010001) := by
  decide +kernel

/-- A kind-2 launch's crew on core 0, without a group, and what waits for a wake. -/
def waking (ready : List WakeItem) (slates : List Slate) : State :=
  let s := base.modLaunch 0 fun l => { l with places := [(0, 0, 0)], block := { l.block with kind := 2, win := some win, roles := [⟨12, .general, 64, 1⟩] } }
  let s1 := s.setCrew 0 0 (some { slotCrew 0 with groups := [] })
  s1.setCore 0 { s1.core 0 with dormers := [dormer slates ready] }

theorem test_meets_wakes :
    let s := waking [⟨.open, some 0, rec7.bits⟩] [slate]
    (s.launch? 0).map (fun l => (decide (l.state = .eligible), l.places.find? (fun p => p.2.1 = 0), l.block.roles.length)) = some (true, some (0, 0, 0), 1)
    ∧ (List.range 16).find? (fun i => (getAt (none : Option Group) [] i).isNone) = some 0 ∧ (pickLaneset (s.core 0).use 64).isSome = true
    ∧ (s.dormer? 0 0).map (fun d => (d.ready, (d.slate? 0).map Slate.backed)) = some ([⟨.open, some 0, rec7.bits⟩], some true)
    ∧ (then' (exec (.wakeStart 0 0 0 1) s) fun t => (t.group? ⟨0, 0, 0⟩).map fun g => (g.pc, g.regs.act)) = some (some (BitVec.ofNat 32 win.openE, 1)) := by decide +kernel

theorem test_meets_node_wakes :
    let s := (waking [] []).setPart 0 { (waking [] []).part 0 with nodeGroups := [⟨0, [5, 6]⟩] }
    (s.part 0).nodeGroups.find? (fun g => g.launch = 0) = some ⟨0, [5, 6]⟩
    ∧ (then' (exec (.wakeStart 0 0 5 1) s) fun t => (t.group? ⟨0, 0, 0⟩).map fun g => (g.pc, g.regs.act, g.regs.readV 48 1)) = some (some (12, 3, 6)) := by decide +kernel

theorem test_meets_fetch :
    let x : Slate := { slate with spilled := true, fetching := true, bank := none, place := some 0 }
    let s := waking [] [x]
    s.win? 0 = some win ∧ (s.dormer? 0 0).map (fun d => (d.slate? 0, d.freeBank)) = some (some x, some 8) := by decide +kernel

/-! ### The network, the supervisor core and the hosts -/

/-- A packet from router 0 to the endpoint of a router, or to a set of cores. -/
def pkt (dst : Nat) (set : List Nat := []) : Packet := ⟨0, 0, dst, 0, 0, set, 0⟩

/-- A network with a packet at the head of input 6 of router 0. -/
def netted (p : Packet) (suspect : Bool := false) (timer : Nat := 0) : State :=
  { State.reset with net := (Net.reset.setBuf 0 6 ⟨[p], timer, suspect⟩) }

/-- A packet on its way from router 0 to router 1. -/
def linked (retries : List (Nat × Nat × Nat) := []) : State := { State.reset with net := { Net.reset with links := [(0, 1, pkt 1)], retries := retries } }

/-- A head goes on the link to router 1 and arrives there; at its router it is delivered; a multicast is divided, and the part for router 0 keeps its place
(R339, R345, R347). -/
theorem test_meets_forwarding :
    (let s := netted (pkt 1)
     ((s.net.buf 0 6).packets = [pkt 1] ∧ 1 ∈ (pkt 1).requests 0 ∧ s.net.outranked 0 6 1 (pkt 1) = false ∧ neighbour 0 1 = some 1
        ∧ (s.net.buf 1 (farInput 1)).packets.length + (s.net.onLink 0 1).length < inputDepth (farInput 1))
      ∧ (then' (exec (.packetForward 0 6 1) s) fun t => (t.net.links, (t.net.buf 0 6).packets)) = some ([(0, 1, pkt 1)], []))
    ∧ (let s := netted (pkt 0)
       (6 ∈ (pkt 0).requests 0 ∧ s.net.outranked 0 6 6 (pkt 0) = false ∧ s.net.sinks = [])
        ∧ (then' (exec (.packetForward 0 6 6) s) fun t => t.net.delivered) = some [pkt 0])
    ∧ (let s := netted (pkt 0 [0, 1]) false 7
       1 ∈ (pkt 0 [0, 1]).requests 0 ∧ s.net.outranked 0 6 1 (pkt 0 [0, 1]) = false
        ∧ (then' (exec (.packetForward 0 6 1) s) fun t => (t.net.onLink 0 1, t.net.buf 0 6)) = some ([pkt 0 [1]], ⟨[pkt 0 [0]], 7, false⟩)) := by decide +kernel

/-- A flit on a link arrives or is counted as a retry, a link whose 16th retry in a row has failed is reported, and an endpoint injects a packet (R338, R347). -/
theorem test_meets_links :
    (linked.net.onLink 0 1 = [pkt 1]
        ∧ (then' (moveStep exec (.linkArrive 0 1) linked) fun t => (t.net.links, (t.net.buf 1 0).packets)) = some ([], [pkt 1])
        ∧ (then' (exec (.linkRetry 0 1) linked) fun t => t.net.retryCount 0 1) = some 1)
    ∧ (let s := linked [(0, 1, 17)]
       16 < s.net.retryCount 0 1 ∧ (0, 1) ∉ s.net.reported ∧ (then' (exec (.linkFailureReport 0 1) s) fun t => (t.net.reported, t.pkg.events.length)) = some ([(0, 1)], 1))
    ∧ (0 < (endpoints 5).length ∧ (pkt 1).named = true
        ∧ (then' (moveStep exec (.inject 5 6 (pkt 1)) { State.reset with gt := 9 }) fun t => (t.net.buf 5 6).packets) = some [{ pkt 1 with src := 5, age := 9 }]) := by
  decide +kernel

/-- A head that has waited for T becomes suspect; the token captures its packet, the gutter lane brings it to its router, and the endpoint takes it (R341 to R344). -/
theorem test_meets_recovery :
    (let s := netted (pkt 1) false 245760
     s.net.timeout * 120 ≤ (s.net.buf 0 6).timer ∧ (then' (exec (.suspectMark 0 6) s) fun t => (t.net.buf 0 6).suspect) = some true)
    ∧ (State.reset.net.captured = none ∧ State.reset.net.oldestSuspect 1 = none)
    ∧ (let s := { netted (pkt 1) true with net := { (netted (pkt 1) true).net with token := 131 } }
       s.net.oldestSuspect ((s.net.token + 1) % 132) = some (6, pkt 1)
        ∧ (then' (exec .garnetTokenArrival s) fun t => (t.net.captured, t.net.gutter)) = some (some 0, some (0, pkt 1)))
    ∧ (let s := { netted (pkt 0 [1, 2]) true with net := { (netted (pkt 0 [1, 2]) true).net with token := 131 } }
       s.net.oldestSuspect 0 = some (6, pkt 0 [1, 2])
        ∧ (then' (exec .garnetTokenArrival s) fun t => (t.net.gutter, (t.net.buf 0 6).packets)) = some (some (0, pkt 1), [pkt 0 [2]]))
    ∧ (let s := { State.reset with net := { Net.reset with gutter := some (0, pkt 1), captured := some 0 } }
       gutterOut 0 (pkt 1) = some 1 ∧ s.net.onLink 0 17 = [] ∧ (then' (moveStep exec .gutterHop s) fun t => t.net.onLink 0 17) = some [pkt 1]
        ∧ (then' (moveStep exec .gutterHop s) fun t => then' (moveStep exec (.linkArrive 0 17) t) fun u => u.net.gutter) = some (some (some (1, pkt 1))))
    ∧ (let s := { State.reset with net := { Net.reset with gutter := some (1, pkt 1), captured := some 0 } }
       (s.net.sinks.filter fun x => x.1 = 1 && x.2.dstPort = 0).length < 8 ∧ (then' (exec .gutterSinkAck s) fun t => t.net.sinks) = some [(1, pkt 1)])
    ∧ (let s := { State.reset with net := { Net.reset with sinks := [(1, pkt 1)] } }
       s.net.sinks = [] ++ (1, pkt 1) :: [] ∧ (then' (exec (.packetForward 1 10 6) s) fun t => (t.net.sinks, t.net.delivered)) = some ([], [pkt 1])) := by
  decide +kernel

/-- Core 0 with its supervisor running. -/
def supervised (s : State := base) (q : List EscEntry := []) : State := s.setCore 0 { s.core 0 with supRunning := true, escQueue := q }

/-- A group that waits in ESC, with one entry on its stack. -/
def escaped : State := supervised (at' fun g => { g with wait := .esc none, stack := [⟨false, 4, 1, 0x1F⟩], regs := { g.regs with s := [0, 0, 0, 0, 0, 9] } })

theorem test_meets_supervisor :
    ((supervised.core 0).supRunning = true ∧ (supervised.core 0).escQueue = [])
    ∧ (then' (exec (.escQueuePop 0) (supervised base [⟨5⟩])) fun t => ((t.core 0).supData, (t.core 0).escQueue, (t.core 0).escTaken)) = some (5, [], [⟨5⟩])
    ∧ ((now escaped).wait = .esc none ∧ (now escaped).outst = [] ∧ after (exec (.escCompletion 0 0) escaped) (fun g => g.wait) = some .none ∧ (now escaped).pend = [])
    ∧ (now supervised).wait = .none
    ∧ supervised.partOf 0 = some 0
    ∧ (((supervised.part 0).eqtail - (supervised.part 0).eqhead).toNat < 2 ^ (6 + min 10 ((supervised.part 0).eqbase.toNat % 16)))
    ∧ ((now supervised).parked = false ∧ (now supervised).halt = .running) ∧ (7 : Nat) < (now escaped).budget ∧ (now escaped).budget ≤ 128
    ∧ (now escaped).entry? 0 = some ⟨false, 4, 1, 0x1F⟩ ∧ Memory.wf supervised.pkg.fwMem = true ∧ supReach supervised 0 64 = true ∧ supReach supervised 0 33554432 = false := by
  decide +kernel

/-- A trap raised while a group waits in ESC is taken at the completion: here its crew has no handler, and the group enters the core's (R245, R253). -/
theorem test_meets_late_trap :
    let s := supervised (at' fun g => { g with wait := .esc (some (0x50, 8, 3)) })
    (now s).wait = .esc (some (0x50, 8, 3)) ∧ (∃ l, (now s).wait = .esc l)
    ∧ after (exec (.escCompletion 0 0) s) (fun g => (g.tcause, g.tpc, g.tval)) = some (0x50, 8, 3)
    ∧ after (exec (.escCompletion 0 0) s) (fun g => g.wait) = some .none :=
  ⟨by decide, ⟨some (0x50, 8, 3), by decide⟩, by decide +kernel, by decide +kernel⟩

/-- The package controller's firmware has a line of slice 0 zeroed (R369). -/
theorem test_meets_package_scrub :
    let s := { State.reset with pkg := { State.reset.pkg with fwImage := some 0 }, mem := [(devAddr 0 128, 7), (devAddr 0 256, 8)] }
    s.pkg.fwImage.isSome = true ∧ 128 * (1 + 1) ≤ sliceBytes ∧ s.memOk = true
    ∧ (then' (moveStep exec (.pkgScrub 0 1 1) s) fun t => t.mem) = some [(devAddr 0 256, 8)] := by decide +kernel

/-- The windows read s5 of a stopped group, and a scratchpad word of its crew; a reserved MW does not enter the stack; an error, or a poisoned granule, stops the
supervisor (R92, R254, R255, R267). -/
theorem test_supervisor_windows :
    (then' (exec (.groupWindowAccess 0 (0x10000 + 20) none) escaped) fun t => (t.core 0).supData) = some 9
    ∧ (then' (exec (.groupWindowAccess 0 (0x10800 + 24) (some 0x1FFFFF)) escaped) fun t => (t.group? ⟨0, 0, 0⟩).map fun g => g.stack) = some (some [⟨false, 4, 1, 0x1F⟩])
    ∧ (let c := slotCrew 0; (8 : Nat) % 4 = 0 ∧ 8 + 4 ≤ 128 * c.granules.length ∧ 128 * c.granules.length ≤ 0x800000 ∧ scratchPoison supervised 0 c.granules 8 4 = none
      ∧ Memory.wf (supervised.core 0).sram = true
      ∧ (let s := { supervised with poison := [sramLine 0 (getAt 0 c.granules 0)] }
         scratchPoison s 0 c.granules 8 4 = some (sramLine 0 (getAt 0 c.granules 0))
          ∧ (then' (exec (.scratchpadWindowAccess 0 8 none) s) fun t => (t.core 0).fenced) = some true))
    ∧ (then' (exec (.supervisorCoreError 0 3) supervised) fun t => ((t.core 0).supRunning, (t.core 0).fenced)) = some (false, true) := by decide +kernel

theorem test_meets_host :
    (5 < (base.part 0).hdmSize ∧ ¬ base.poison.contains (lineOf (hdmAddr (base.part 0) 5)) = true ∧ base.memOk = true)
    ∧ (then' (exec (.hostHdmAccess 0 5 (some 7)) base) fun t => then' (exec (.hostHdmAccess 0 5 none) t) fun u => u.hostData) = some (some 7)
    ∧ (then' (exec (.hostHdmAccess 0 ((base.part 0).hdmSize) none) base) fun t => (t.hostPoison, t.pkg.aer)) = some (true, 1)
    ∧ (let s := { base with poison := [lineOf (hdmAddr (base.part 0) 5)] }
       s.poison.contains (lineOf (hdmAddr (s.part 0) 5)) = true ∧ (then' (exec (.hostHdmAccess 0 5 none) s) fun t => t.hostPoison) = some true) := by decide +kernel

/-! ### Registers and management -/

theorem test_meets_registers :
    (base.part 0).otinv.getLsbD 63 = false ∧ (0x8000000000000001 : DWord).getLsbD 63 = true
    ∧ ((base.setPart 0 { base.part 0 with otinv := 0x8000000000000000 }).part 0).otinv.getLsbD 63 = true
    ∧ (base.part 0).scrub.getLsbD 63 = false ∧ (base.part 0).slices.getLsbD ((0x8000010000000000 : DWord).toNat % 256) = true
    ∧ (base.part 0).loading = false ∧ (base.part 0).cores.getLsbD 5 = false ∧ (base.part 0).cores.getLsbD 0 = true ∧ coreBusy base 0 = true
    ∧ coreBusy (base.setCrew 0 0 none) 0 = false ∧ (base.part 0).dbgstat.getLsbD 0 = false ∧ (base.crew? 0 0).isSome = true
    ∧ base.crew? 0 3 = none ∧ Memory.wf base.pkg.fwMem = true
    ∧ getAt none (slotCrew 0).groups 0 = some slotGroup ∧ slotGroup.halt = .running ∧ slotGroup.state = .normal ∧ slotGroup.outst = [] := by decide +kernel

/-- A scrub clears its range; OTINV reads bit 63 until it is done (R354, R361). -/
theorem test_scrub :
    (let s := { base.setPart 0 { base.part 0 with scrub := 0x8000010000000100 } with mem := [(devAddr 0 128, 7), (devAddr 0 256, 8)] }
     (s.part 0).scrub.getLsbD 63 = true ∧ s.memOk = true ∧ (s.part 0).slices.getLsbD ((s.part 0).scrub.toNat % 256) = true
      ∧ (then' (exec (.scrubDone 0) (s.setPart 0 { s.part 0 with slices := 2 })) fun t => t.mem) = some s.mem
      ∧ (then' (exec (.scrubDone 0) s) fun t => (t.mem, (t.part 0).scrub)) = some ([(devAddr 0 256, 8)], 0x0000010000000100))
    ∧ (then' (exec (.otinv 0 0x8000000000000001) base) fun t => then' (exec (.otinvDone 0) t) fun u => ((t.part 0).otinv.getLsbD 63, (u.part 0).otinv.getLsbD 63))
        = some (some (true, false)) := by decide +kernel

/-- The crew with a second group, of a state. -/
def paired (f : Group → Group := id) (st : GState := .normal) : State :=
  base.setCrew 0 0 (some { slotCrew 0 with groups := [some (f slotGroup), some { slotGroup with state := st }] })

theorem test_meets_debug :
    (let s := at' fun g => { g with halt := .debug }
     (now s).halt = .debug ∧ after (exec (.dbgResume 0 0 0) s) (fun g => g.halt) = some .running)
    ∧ after (exec (.dbgResume 0 0 0) (paired (fun g => { g with halt := .debug }) .core)) (fun g => g.halt) = some (.halted 0 true)
    ∧ (let s := (base.setPart 0 { base.part 0 with debugWait := some (0, 0, [0]) })
       (s.part 0).debugWait = some (0, 0, [0]) ∧ (now s).outst = [] ∧ (then' (exec (.debugStopComplete 0) s) fun t => (t.part 0).debugWait) = some none)
    ∧ (then' (exec (.dbgStopGroup 0 0 0 0) paired) fun t => (t.crew? 0 0).map fun k => k.members.map fun x => x.2.halt) = some (some [.debug, .halted 0 false])
    ∧ (then' (exec (.dbgStop 0 0 3) base) fun t => (t.part 0).dbgstat) = some 4 := by decide +kernel

/-- A stack whose state and clamp stand at values, raised by die 0. -/
def clocked (p c : Nat) (hot : List (Option Nat × Nat) := []) : State := { base with dies := [⟨[], p, c, 0, false, 0, [], 65535, hot, some 0⟩], gt := 2000000 }

/-- A clamp goes down a state at 111 °C, and back once die 0 has stayed at 105 °C or below for a millisecond; a reading above that starts the time anew (R372). -/
theorem test_meets_power :
    ((clocked 3 0).die 0).pstate ≠ min 7 (wantedState (clocked 3 0) 0 + ((clocked 3 0).die 0).clamp)
    ∧ (let d := (clocked 0 0).die 0; thermalLimit d 0 < 111 ∧ d.pstate < 7 ∧ d.clamp = 0)
    ∧ (let d := (clocked 1 1 [(some 0, 111)]).die 0
       d.causes = [(some 0, 111)] ∧ 105 + 5 ≤ thermalLimit d 0 ∧ d.clamp ≠ 0 ∧ d.coolSince = some 0 ∧ d.clampAt + 1200000 ≤ (clocked 1 1).gt ∧ ¬ 106 + 5 ≤ thermalLimit d 0)
    ∧ (then' (exec (.clampRaise 0 (some 0) 111) (clocked 0 0)) fun t => ((t.die 0).pstate, (t.die 0).clamp)) = some (1, 1)
    ∧ (then' (exec (.clampReturn 0 (some 0) 105) (clocked 1 1 [(some 0, 111)])) fun t => (t.die 0).clamp) = some 0
    ∧ (then' (moveStep exec (.sensor 0 (some 0) 106) (clocked 1 1 [(some 0, 111)])) fun t => (t.die 0).coolSince) = some none := by decide +kernel

/-- The fabric manager's key stands in slot 0, and its session is open. -/
def managed (s : State := State.reset) : State := { s with pkg := { s.pkg with slots := [⟨5, 6, false, 2, true⟩], session := some 5 } }

theorem test_meets_management :
    State.reset.pkg.authentic = false ∧ managed.pkg.authentic = true ∧ managed.pkg.roleSlot 1 0 = true ∧ managed.pkg.rebind = none
    ∧ waysFree managed 0 0 3 = true ∧ (managed.part 0).bound = false ∧ (1 : BitVec 48) ≠ 0
    ∧ (then' (exec (.bind 0 0 0 1 1 [3] true) managed) fun t => ((t.part 0).bound, (t.part 0).hypervisor, getAt 0 (getAt Gateway.reset t.gateways 0).ways 0)) = some (true, true, 3)
    ∧ (then' (exec (.enroll 1 7 8 1 (some 0)) managed) fun t => (t.pkg.slot 1).ec) = some 7
    ∧ (then' (exec (.nett 512) managed) fun t => t.net.timeout) = some 512
    ∧ (then' (exec (.nett 512) State.reset) fun t => (t.net.timeout, t.pkg.reply)) = some (2048, false)
    ∧ (∀ k, k < 4 → (State.reset.pkg.slot k).used = false) ∧ { State.reset.pkg with session := some 1 }.session ≠ none ∧ (2 : BitVec 2).getLsbD 1 = true
    ∧ (let s := base.setPart 0 { base.part 0 with loading := true }
       (s.part 0).loading = true ∧ fwStatus s 0 = 1 ∧ (then' (exec (.fwloadResult 0) s) fun t => (t.part 0).loading) = some false) := by decide +kernel

/-- Partition 0 holds cores 0 and 1 and slices 0 and 1, and is reassigned core 1 and slice 1 to partition 1 (R364). -/
theorem test_meets_reassignment :
    let s := managed ((base.setPart 0 { base.part 0 with cores := 3, slices := 3 }).setPart 1 { base.part 1 with bound := true, cores := 4, slices := 4 })
    (s.part 0).bound = true ∧ (s.part 1).bound = true ∧ (2 : BitVec 48) &&& ~~~ (s.part 0).cores = 0 ∧ (2 : BitVec 192) &&& ~~~ (s.part 0).slices = 0
    ∧ (s.part 0).slices &&& ~~~ (2 : BitVec 192) ≠ 0 ∧ (s.part 0).cores &&& ~~~ (2 : BitVec 48) ≠ 0 ∧ coreBusy s 1 = false ∧ slicesBusy s 2 2 = false ∧ jobsBusy s 2 = false ∧ scrubBusy (s.part 0) 2 = false
    ∧ (then' (exec (.rebind 0 1 2 2) s) fun t => ((t.part 0).cores, (t.part 0).slices, t.pkg.rebind)) = some (1, 1, some ⟨0, 1, 2, 2, 0⟩)
    ∧ (let u := { s with pkg := { s.pkg with rebind := some ⟨0, 1, 2, 2, 0⟩ }, gt := 65541 }
       slicesBusy u 2 2 = false ∧ (then' (exec .rebindComplete u) fun t => ((t.part 1).cores, (t.part 1).slices)) = some (6, 6)) := by decide +kernel

/-! ### The whole machine -/

theorem test_meets_result_timing : (now base).pend = [] ∧ base.crew? 0 0 = some (slotCrew 0) := by decide

theorem test_meets_register_frame :
    (then' (exec (.sadd 0 1 2 3 0) (regs [0, 0, 3, 4])) fun _ => true) = some true := by
  decide

/-- A word at the counter is fetched, decoded and run; a word of no opcode traps with cause 0x01, a reserved field with 0x02, a fetch beyond the code with 0x08. -/
theorem test_meets_step :
    let w := encode (.saddi 0 1 2 5)
    let s := (regs [0, 0, 3]).withFetchWord 32 w.toNat
    s.agenda = [.issue ⟨0, 0, 0⟩] ∧ canIssue (now s) = true ∧ (now s).windowed = [] ∧ (now s).stepOwed = none ∧ (now s).pc.toNat % 4 = 0
    ∧ codeWord? s 0 0 256 0 = some w ∧ decode w = .ok (.saddi 0 1 2 5) ∧ after (step s) (fun g => (g.regs.readS 1, g.pc)) = some (8, 4)
    ∧ trap (step (base.withFetchWord 32 0xFFFFFFFF)) = some (0x01, 0, 0xFFFFFFFF)
    ∧ trap (step (base.withFetchWord 32 0x01800001)) = some (0x02, 0, 0x01800001)
    ∧ codeWord? (at' fun g => { g with pc := 256 }) 0 0 256 256 = none := by decide +kernel

theorem test_meets_schedule :
    (let s := { base with agenda := [.tick 3] }; (then' (step s) fun t => t.gt) = some 3)
    ∧ (let s := { base with agenda := [.event .powerOnReset] }; (then' (step s) fun t => t.launches) = some [])
    ∧ (let s := { base with agenda := [.event (.homeLoad 9)] }
       (match exec (.homeLoad 9) { s with agenda := [] } with | .refused (.notEnabled _) => true | _ => false) = true ∧ (then' (step s) fun t => t.agenda) = some [])
    ∧ (let s := { base with agenda := [.hostByte 3 7] }; (then' (step s) fun t => t.mem) = some [(hostBase + 3, 7)]) := by decide +kernel

theorem test_meets_prefix_and_handler :
    (let s := (at' fun g => { g with pc := 0 }).withFetchWord 64 ((encode (.pfx 31 0 0 0 0 0)).toNat + 2 ^ 32 * (encode (.vadd 0 1 2 3)).toNat)
     fetchWord s s.cur (now s) ((now s).pc + 4) = some (encode (.vadd 0 1 2 3)))
    ∧ (let s := at' fun g => { g with state := .user }
       (s.group? s.cur).map (fun x => decide (x.state ≠ .core)) = some true ∧ (now s).outst = [] ∧ (now s).wait = .none ∧ (s.crew? s.cur.core s.cur.slot).isSome = true) := by decide +kernel

/-- PCTL's bits off: a kick changes nothing, no post posts, no entry is taken. -/
theorem test_meets_partition_control :
    (let s := posting.setPart 0 { posting.part 0 with pctl := 0 }
     (s.part 0).pctl.getLsbD 0 = false ∧ (s.part 0).pctl.getLsbD 6 = false ∧ (s.part 0).pctl.getLsbD 7 = false
      ∧ Ready { word := encode (.rpost 0 0 0 0), op := 0xE6, st := 0, vtop := topOf (List.range 16), reads := List.range 16, masked := true } s (now s)
      ∧ acquirePending (now s) = false)
    ∧ (base.part 0).pctl.getLsbD 6 = true ∧ (0x81 : DWord).getLsbD 6 = false
    ∧ ((base.setPart 0 { base.part 0 with pages := [pageGroup] }).part 0).pages.find? (fun g => g.index = 2) = some pageGroup :=
  ⟨⟨by decide, by decide, by decide, ready_of_met (by decide), by decide⟩, by decide, by decide, by decide⟩

/-- Memories in canonical form, and a store that keeps the form. -/
theorem test_meets_cells : Memory.wf [(3, 1), (7, 2)] = true ∧ cellSet [(3, 1), (7, 2)] 3 0 = [(7, 2)] ∧ State.reset.memOk = true ∧ base.memOk = true := by decide

/-! ### Clauses of the statements at their boundaries -/

theorem test_meets_fused_member :
    let q : Desc := { vDesc (encode (.ffma 0 3 1 2)) 0x83 0 1 setF 3 [1, 2, 3] with masked := true, writes := [3] }
    let off := at' fun g => { g with regs := { (now chained).regs with act := 0 } }
    Ready q chained (now chained) ∧ (Ready q off (now off) ∧ effMask off (now off) = 0 ∧ (now off).regs.cc ≠ 0 ∧ effType off (now off) = 2)
    ∧ acquirePending (now chained) = false := ⟨ready_of_met (by decide), ⟨ready_of_met (by decide), by decide, by decide, by decide⟩, by decide⟩

/-- FFMA in a chain keeps 1.0 * 2.0 + 0 in W in binary64, and its binary32 result in its register (R117). -/
theorem test_fused_member :
    after (exec (.ffma 0 3 1 2) chained) (fun g => (g.regs.cc, laneGet64 g.regs.w 0, g.regs.readV 3 0))
      = some (1, 0x4000000000000000, 0x40000000) := by decide

theorem test_meets_divergent_branch :
    let q : Desc := { word := encode (.brp 0 1 4), op := 0x08, st := 0, writes := codesAct, preds := [codeP 1] }
    let qs := d' (.sync 0) 0x0A [] codesAct
    let pr := fun (p : Mask) => (stacked 0).modGroup ⟨0, 0, 0⟩ fun g => { g with regs := { g.regs with p := [0, p] } }
    let gone := (stacked 2).modGroup ⟨0, 0, 0⟩ fun g => { g with
      stack := [⟨true, 8, 4, 0x1F⟩, ⟨false, 64, 5, 0x1F⟩], regs := { g.regs with xm := 4 } }
    Ready q (stacked 31) (now (stacked 31)) ∧ Ready q (stacked 32) (now (stacked 32)) ∧ Ready q (pr 0) (now (pr 0))
    ∧ Ready q (pr 3) (now (pr 3)) ∧ Ready qs (stacked 0) (now (stacked 0)) ∧ Ready qs gone (now gone)
    ∧ (now gone).stack = [⟨true, 8, 4, 0x1F⟩] ++ ⟨false, 64, 5, 0x1F⟩ :: [] ∧ (4 : Mask) &&& ~~~ (now gone).regs.xm = 0
    ∧ (5 : Mask) &&& ~~~ (now gone).regs.xm ≠ 0 :=
  ⟨ready_of_met (by decide), ready_of_met (by decide), ready_of_met (by decide), ready_of_met (by decide), ready_of_met (by decide),
    ready_of_met (by decide), by decide, by decide, by decide⟩

/-- BARINIT with count 0, in the crew of a launch and of a window launch. -/
theorem test_meets_barrier_of_all :
    let q := d' (.barinit 0 3 0) 0x0E [] []
    let w := base.modLaunch 0 fun l => { l with block := { l.block with kind := 2 } }
    Ready q base (now base) ∧ (base.launch? 0).map (fun l => decide (2 ≤ l.block.kind)) = some false
    ∧ Ready q w (now w) ∧ (w.launch? 0).map (fun l => decide (2 ≤ l.block.kind)) = some true :=
  ⟨ready_of_met (by decide), by decide, ready_of_met (by decide), by decide⟩

/-- BARINIT with count 0 expects the crew's one group, and traps with cause 0x02 in a window crew (R129, R323). -/
theorem test_barrier_of_all :
    (then' (exec (.barinit 0 3 0) base) fun t => (t.crew? 0 0).map fun k => (k.barrier 3).expected) = some (some 1)
    ∧ trap (exec (.barinit 0 3 0) (base.modLaunch 0 fun l => { l with block := { l.block with kind := 2 } }))
      = some (0x02, 0, (encode (.barinit 0 3 0)).toNat) := by decide

/-- Two groups of one crew, the second in handler state, or halted. -/
def duo (f : Group → Group := id) (s : State := base) : State := (s.setCrew 0 0 (match s.crew? 0 0 with
  | some k => some { k with total := 2, groups := k.groups ++ [k.groups.head?.bind fun g => g.map fun g => f { g with gid := 1 }] }
  | none => none))

theorem test_meets_two_handlers :
    let q : Desc := { word := encode (.rft 0), op := 0x14, st := 0, priv := .handler }
    let a := duo (fun g => g) (handler .user)
    let b := duo (fun g => { g with state := .normal, halt := .halted 3 true }) (handler .user)
    let c := at' fun g => { g with state := .core, ps := .user, tpc := 32 }
    (Ready q a (now a) ∧ (a.group? ⟨0, 0, 1⟩).map Group.state = some .user ∧ (now a).ps = .normal)
    ∧ (Ready q b (now b) ∧ (b.group? ⟨0, 0, 1⟩).map Group.halt = some (.halted 3 true))
    ∧ (Ready q c (now c) ∧ (now c).ps = .user) :=
  ⟨⟨ready_of_met (by decide), by decide, by decide⟩, ⟨ready_of_met (by decide), by decide⟩, ready_of_met (by decide), by decide⟩

/-- A return while another group is in its handler leaves the group halted; the last return lets the crew go on (R250). -/
theorem test_two_handlers :
    after (exec (.rft 0) (duo (fun g => g) (handler .user))) (fun g => g.halt) = some (.halted 0 true)
    ∧ (then' (exec (.rft 0) (duo (fun g => { g with state := .normal, halt := .halted 3 true }) (handler .user))) fun t =>
        (t.group? ⟨0, 0, 1⟩).map Group.halt) = some (some .running) := by decide

theorem test_meets_flags_read :
    let s := at' fun g => { g with outst := [⟨5, [3], .value [(3, .vec 1 [])], [], 0⟩] }
    Ready (d' (.sysrd 0 4 1) 0x17 [] [codeS 4]) base (now base) ∧ Ready (d' (.sysrd 0 4 1) 0x17 [] [codeS 4]) s (now s)
    ∧ flagsPending (now base) = [] ∧ flagsPending (now s) = [3] :=
  ⟨ready_of_met (by decide), ready_of_met (by decide), by decide, by decide⟩

/-- Every kind of value of ATOMX.FADD: a sum, a zero, a NaN, an infinity (R205). -/
theorem test_atomic_sum :
    atomValue 10 0x3F800000 0x3F800000 0 = 0x40000000 ∧ atomValue 10 0x80000000 0x80000000 0 = 0x80000000
    ∧ atomValue 10 0x80000000 0 0 = 0 ∧ atomValue 10 0x7F800001 0 0 = 0x7FC00000 ∧ atomValue 10 0x7F800000 0xFF800000 0 = 0x7FC00000
    ∧ atomValue 10 0xFF800000 0x3F800000 0 = 0xFF800000 ∧ atomValue 10 1 2 0 = 3 := by decide +kernel

/-- The crew's FIFO 0 in bank 3, which holds `ws`; v1 the offsets of two of its words, v2 values. -/
def ported (ws : List Word) (f : Group → Group := id) (o : Word := 0x800000) : State :=
  let s := vecs [[], [o, o], [7, 9]]
  let s1 := s.setCore 0 ((s.core 0).setBank 3 ⟨.fifo, true, ws, none⟩)
  (s1.setCrew 0 0 (match s1.crew? 0 0 with | some k => some { k with fifos := [3] } | none => none)).modGroup ⟨0, 0, 0⟩ f

/-- A store that waits to leave the group. -/
def unsent : Group → Group := fun g => { g with buf := [⟨4, 9, [], 0, false⟩] }

theorem test_meets_fifo_ports :
    let ql : Desc := { word := encode (.lds 0 3 1 0), op := 0xB2, st := 0, vtop := topOf [3, 1], reads := [1], writes := [3], masked := true }
    let qs : Desc := { word := encode (.sts 0 2 1 0), op := 0xB3, st := 0, vtop := topOf [2, 1], reads := [1, 2], masked := true }
    let causes := fun (n o : Nat) b => laneCauses ([0, 1].map fun l => (l, wordCauses (slotCrew 0).granules n o b))
    Ready ql (ported [1, 2]) (now (ported [1, 2])) ∧ Ready qs (ported []) (now (ported [])) ∧ Ready qs (ported [] unsent) (now (ported [] unsent))
    ∧ releasedCore (now (ported [])) = true ∧ releasedCore (now (ported [] unsent)) = false
    ∧ ((ported [1]).crew? 0 0).map Crew.fifos = some [3] ∧ (ported [1]).poison = []
    ∧ causes 1 0x800000 false = none ∧ causes 1 0x800000 true = none ∧ causes 1 0x800010 false = some (0x0B, 0)
    ∧ causes 1 0x800004 true = some (0x0B, 0) ∧ causes 1 0x800004 false = none ∧ causes 1 0x800008 false = some (0x0B, 0)
    ∧ laneCauses [(0, scratchCauses (slotCrew 0).granules 4096 4)] = some (0x0B, 0)
    ∧ scratchCauses (slotCrew 0).granules 4092 4 = [] :=
  ⟨ready_of_met (by decide), ready_of_met (by decide), ready_of_met (by decide), by decide, by decide, by decide, by decide, by decide +kernel,
    by decide +kernel, by decide +kernel, by decide +kernel, by decide +kernel, by decide +kernel, by decide +kernel, by decide +kernel⟩

/-- LDS pops a word for each lane in lane order, and waits with too few; its count port counts (R213). -/
theorem test_fifo_pop :
    arrived (exec (.lds 0 3 1 0) (ported [5, 6, 8])) (fun g => (g.regs.readV 3 0, g.regs.readV 3 1)) = some (5, 6)
    ∧ (then' (exec (.lds 0 3 1 0) (ported [5, 6, 8])) fun t => ((t.core 0).bank 3).fifo) = some [8]
    ∧ after (exec (.lds 0 3 1 0) (ported [5])) (fun g => g.wait) = some (.fifo 0)
    ∧ arrived (exec (.lds 0 3 1 0) (ported [5, 6, 8] id 0x800004)) (fun g => g.regs.readV 3 1) = some 3 := by decide +kernel

/-- STS pushes a word for each lane in lane order, once the group's earlier stores have left it (R187, R213). -/
theorem test_fifo_push :
    (then' (exec (.sts 0 2 1 0) (ported [5])) fun t => ((t.core 0).bank 3).fifo) = some [5, 7, 9]
    ∧ after (exec (.sts 0 2 1 0) (ported [5] unsent)) (fun g => (g.held, g.pc)) = some (some 0, 0)
    ∧ trap (exec (.sts 0 2 1 0) (ported [] id 0x800004)) = some (0x0B, 0, 0) := by decide +kernel

/-- An acquire of which a load is outstanding. -/
def acquiring (g : Group) : Group := { g with outst := [⟨9, [5], .load 5 4 [] 0 [] [], [32], 0⟩], acqs := 1, acq := [9] }

theorem test_meets_kept_stores :
    let q : Desc := { word := encode (.st 0 2 1 1 2), op := 0xB1, st := 0, vtop := topOf [1, 2], reads := [1, codeC 1, 2], masked := true }
    let qs : Desc := { word := encode (.sts 0 2 1 0), op := 0xB3, st := 0, vtop := topOf [2, 1], reads := [1, 2], masked := true }
    let f := d' (.fence 0 0 0) 0xB9 [] []
    Ready q (mem' acquiring) (now (mem' acquiring)) ∧ Ready qs (mem' acquiring) (now (mem' acquiring)) ∧ acquirePending (now (mem' acquiring)) = true
    ∧ bufferRoom (mem' acquiring) ⟨0, 0, 0⟩ (now (mem' acquiring)) (lineWrites 0 [(4096, 1, 0, false)]) = true
    ∧ Ready f (mem' acquiring) (now (mem' acquiring)) ∧ Ready f base (now base)
    ∧ (∃ o ∈ (now (mem' acquiring)).outst, ∀ ws, o.kind ≠ .value ws) ∧ Ready (d' (.fence 0 0 1) 0xB9 [] []) base (now base) :=
  ⟨ready_of_met (by decide +kernel), ready_of_met (by decide +kernel), by decide +kernel, by decide +kernel, ready_of_met (by decide +kernel),
    ready_of_met (by decide), ⟨_, .head _, by intro ws h; cases h⟩, ready_of_met (by decide)⟩

/-- While an acquire is pending a store is kept; a fence with acquire is held until the load has returned (R187, R197). -/
theorem test_kept_stores :
    after (exec (.st 0 2 1 1 2) (mem' acquiring)) (fun g => (g.pc, g.buf.map fun w => w.line)) = some (4, [32])
    ∧ after (exec (.sts 0 2 1 0) (mem' acquiring)) (fun g => (g.pc, g.bankBuf)) = some (4, [(0, 0x11223344), (4, 9)])
    ∧ after (exec (.fence 0 0 0) (mem' acquiring)) (fun g => (g.held, g.pc)) = some (some 0, 0) := by decide +kernel

/-- A bank whose FIFO a crew holds is refused with status 4 (R211). -/
theorem test_bank_used :
    let used := ((ported []).modGroup ⟨0, 0, 0⟩ fun g => { g with state := .core, regs := { g.regs with s := [0, 3, 0] } })
    after (exec (.bmode 0 3 1 2) used) (fun g => g.regs.readS 3) = some 4 := by decide +kernel

theorem test_meets_bank_refusals :
    let q : Desc := { word := encode (.bmode 0 3 1 2), op := 0xBF, st := 0, priv := .core, reads := [codeS 1, codeS 2], writes := [codeS 3] }
    let at1 := fun (a b : Word) (f : Core → Core) =>
      let s := (handler .core).modGroup ⟨0, 0, 0⟩ fun g => { g with regs := { g.regs with s := [0, a, b] } }
      s.setCore 0 (f (s.core 0))
    let full := at1 0 3 fun c => { c with banks := List.replicate 32 ⟨.cache, false, [], none⟩ |>.mapIdx fun i b => if 8 ≤ i then { b with mode := .dormer } else b }
    let used := ((ported []).modGroup ⟨0, 0, 0⟩ fun g => { g with state := .core, regs := { g.regs with s := [0, 3, 0] } })
    let kept := (at1 8 0 fun c => { (c.setBank 8 ⟨.dormer, true, [], some 0⟩) with dormers := [⟨0, [8], [], [⟨0, 7, 0, 3, 10, 20, 1, 0, [], false, false, [], 0, false, false, false, true, some 8, none⟩], 1, 0, [], [], []⟩] })
    (Ready q full (now full) ∧ bankBusy full full.cur = false ∧ ((full.core 0).banksIn .dormer).length = 24 ∧ ((full.core 0).bank 0).mode = .cache)
    ∧ (Ready q used (now used) ∧ ((used.core 0).bank 3).mode = .fifo ∧ (used.core 0).usedFifos.contains 3 = true)
    ∧ (Ready q kept (now kept) ∧ ((kept.core 0).bank 8).mode = .dormer ∧ dormerPinned kept (kept.core 0) 8 = true)
    ∧ (Ready q (at1 0 3 id) (now (at1 0 3 id)) ∧ ((at1 0 3 id).core 0).banksIn .dormer = []) :=
  ⟨⟨ready_of_met (by decide), by decide, by decide, by decide⟩, ⟨ready_of_met (by decide), by decide, by decide⟩,
    ⟨ready_of_met (by decide), by decide, by decide⟩, ready_of_met (by decide), by decide⟩

theorem test_meets_reduction_and_failures :
    let q := fun (i : Instr) op => d' i op [codeS 1, codeS 2, codeS 3] []
    let r := fun (s : State) a b => firstFailure (copyRange s (slotCrew 0) .normal false 0 a 128 [.read] ++ copyRange s (slotCrew 0) .normal false 0 b 128 [.write, .atomic])
    Ready (q (.cred 0 1 0 0 2 3) 0xC5) (copySS 128) (now (copySS 128)) ∧ r (copySS 128) 0 256 = none
    ∧ Ready (q (.cpy 0 1 0 0 3) 0xC0) (copySS 0) (now (copySS 0)) ∧ Ready (q (.cpy 0 1 0 0 3) 0xC0) (copySS 4100) (now (copySS 4100))
    ∧ Ready (d' (.cpys 0 1 1 0) 0xC4 [codeS 1, codeS 2, codeS 3, codeC 1] []) (laid [0, 64, 0, 4]) (now (laid [0, 64, 0, 4]))
    ∧ Ready (d' (.ctoken 0 1 1 2 1) 0xC9 [codeS 1, codeS 2, codeS 3, codeS 4, codeC 1] []) (laid [0, 0, 0, 7, 8]) (now (laid [0, 0, 0, 7, 8]))
    ∧ accessCauses (laid []) 0 .normal (capMake 5 0 512 15) 0 8 .write = [] :=
  ⟨ready_of_met (by decide), by decide, ready_of_met (by decide), ready_of_met (by decide), ready_of_met (by decide), ready_of_met (by decide),
    by decide +kernel⟩

/-- What the job of a core's only slot is, once an instruction has made it. -/
def made (o : Out) (f : State → Job → Bool) : Option (Option Bool) :=
  then' o fun t => ((t.core 0).jobs.head?).map fun j => jobReady t 0 j && (jobMisses t 0 j).isEmpty && j.skipped.isEmpty && f t j

/-- An object of 4,096 bytes as number 5, with a capability of all rights to it in c1; a layout record of two single bytes. -/
def big (l : List Word) : State :=
  let lay : BitVec 256 := 0#32 ++ 0#32 ++ 0#32 ++ 1#32 ++ 0x00010001#32 ++ 0x00010002#32 ++ 7#32 ++ 0#32
  (base.setPart 0 { base.part 0 with entryCache := [(5, BitVec.ofNat 1024 (1 + 4096 * 2 ^ 24 + (4096 + 4096 * 2 ^ 64) * 2 ^ 128))] }).modGroup
    ⟨0, 0, 0⟩ fun g => { g with regs := { g.regs with act := 3, c := [0, capMake 5 0 4096 15], s := l, lay := [lay] } }

/-- Where the first and the last byte of a range stand for core 0's first job. -/
def ends (t : State) (j : Job) (x : Nat → Side) (n : Nat) (w : Bool) : List (Option Loc) :=
  [(x 0).loc t 0 j.part j.skipped w, (x (n - 1)).loc t 0 j.part j.skipped w]

/-- A tile copy, a gather, a scatter, a token, and a reduction, in slots of core 0, ready and with their pages. -/
theorem test_meets_moving_jobs :
    made (exec (.cpyt 0 1 0 1 0 1) (big [0, 0, 0])) (fun _ j => match j.kind with | .tile (5, 0) 0 _ true => true | _ => false)
      = some (some true)
    ∧ made (exec (.cpyg 0 1 1 0) (big [0, 0, 128, 4])) (fun _ j => decide (j.kind = .gather 0 5 0 4096 128 4 4) && !j.overlaps) = some (some true)
    ∧ made (exec (.cpys 0 1 1 0) (big [0, 128, 0, 4])) (fun _ j => decide (j.kind = .scatter 128 0 5 0 4096 4 4) && !j.overlaps) = some (some true)
    ∧ made (exec (.ctoken 0 1 1 2 0) (big [0, 0, 0, 7])) (fun _ j => match j.kind with | .token 0 5 0 _ 4 => true | _ => false) = some (some true)
    ∧ made (exec (.cred 0 1 0 0 2 3) (copySS 4)) (fun t j => decide (j.kind = .reduce (.scratch 0) (.scratch 256) 4 2)
        && decide (ends t j (fun i => .scratch i) 4 false = [some (.scratch 0), some (.scratch 3)])
        && decide (ends t j (fun i => .scratch (256 + i)) 4 true = [some (.scratch 256), some (.scratch 259)])) = some (some true)
    ∧ made (exec (.cred 0 1 0 1 2 2) (big [0, 0, 0, 4])) (fun _ j => decide (j.kind = .reduce (.scratch 0) (.mem 5 0) 4 2)) = some (some true) := by
  decide +kernel

/-- CPYT in each direction, a gather and a reduction move their bytes (R233 to R235). -/
theorem test_moving_jobs :
    (then' (exec (.cpyt 0 1 0 1 0 1) (big [0, 0, 0])) fun t => then' (exec (.jobStart 0 0) t) fun u => (u.writes.length, (u.writes.head?.map fun w => w.line)))
      = some (some (1, some 32))
    ∧ (let s := (big [0, 0, 128, 2]).setCore 0 (scratchWriteWord ((big [0, 0, 128, 2]).core 0) (slotCrew 0).granules 4 1)
       let m := s.writeHdm 0 4096 [1, 2, 3, 4, 5, 6, 7, 8]
       (then' (exec (.cpyg 0 1 1 0) m) fun t => then' (exec (.jobStart 0 0) t) fun u =>
         (scratchWord (u.core 0) (slotCrew 0).granules 128, scratchWord (u.core 0) (slotCrew 0).granules 132))
        = some (some (0x04030201, 0x08070605)))
    ∧ (let s := (copySS 4).setCore 0 (scratchWriteWord (scratchWriteWord ((copySS 4).core 0) (slotCrew 0).granules 0 5) (slotCrew 0).granules 256 7)
       (then' (exec (.cred 0 1 0 0 2 3) s) fun t => then' (exec (.jobStart 0 0) t) fun u => scratchWord (u.core 0) (slotCrew 0).granules 256)
        = some (some 12)) := by decide +kernel

/-- A launch of two crews' peers, with 128 bytes to send to the first. -/
def casting : State := (copySS (1 + 65536)).modLaunch 0 fun l =>
  { l with places := [(0, 0, 0)], block := { l.block with scratch := 4096, peers := 2 } }

/-- A multicast in a slot of core 0, and its message at its receiver, the crew in slot 0. -/
theorem test_meets_multicast_steps :
    made (exec (.cpym 0 1 0 0 1) casting) (fun _ j => match j.kind with | .multicast (.scratch 0) 256 128 [_] 0 => true | _ => false) = some (some true)
    ∧ (then' (exec (.cpym 0 1 0 0 1) casting) fun t => then' (exec (.jobStart 0 0) t) fun u =>
        (u.casts.map fun m => [m.core, m.crew, m.off, m.bytes.length], (u.core 0).jobs.map Job.acks)) = some (some ([[0, 0, 256, 128]], [1])) := by
  decide +kernel

/-- Its delivery writes the receiver's scratchpad, counts its object down and acknowledges (R237, R241). -/
theorem test_multicast_delivery :
    ((then' (exec (.cpym 0 1 0 0 1) casting) fun t => then' (exec (.jobStart 0 0) t) fun u =>
      then' (exec (.multicastDelivery ((u.casts.map CastMsg.id).getD 0 0)) u) fun v =>
        ((v.core 0).jobs.map Job.acks, (v.crew? 0 0).map fun k => (k.obj 0).count.toInt))) = some (some (some ([0], some (-128)))) := by
  decide +kernel

/-- A job whose page does not translate, while its partition asks for no pages. -/
theorem test_meets_skipped_page :
    let away := (big [0, 0, 128]).setPart 0 { base.part 0 with entryCache := [(5, BitVec.ofNat 1024 (3 + 4096 * 2 ^ 24))] }
    (then' (exec (.cpyt 0 1 0 1 0 1) away) fun t => ((t.core 0).jobs.head?).map fun j => (jobReady t 0 j, (jobMisses t 0 j).length, (t.part 0).pctl.getLsbD 7))
      = some (some (true, 1, false)) := by decide +kernel

/-- A crew of a launch, not standing, on a core whose region 1 is another context's. -/
def foreign : State := let s := tiled [0, 16]; s.setCore 0 { s.core 0 with accown := [1, 9], live := [1, 1] }

theorem test_meets_matrix_traps :
    let m := fun (l : List Word) => Ready (d' (.mlay 0 0 1) 0xD0 (codesS 1 8) []) (regs l) (now (regs l))
    let g := fun (w : Word) => Ready (d' (.mgang 0 1) 0xD1 [codeS 1] []) (regs [0, w]) (now (regs [0, w]))
    m [0, 0, 64, 0x00200020, 0x00010001] ∧ m [0, 0, 7, 0x00200000, 0x00010001] ∧ m [0, 0, 7, 0x00200020, 0x00010000]
    ∧ g 0x08000000 ∧ g 0x07000000 ∧ g 0x02000000 ∧ g 0x01000010 ∧ g 0x01000003 ∧ g 0 :=
  ⟨ready_of_met (by decide), ready_of_met (by decide), ready_of_met (by decide), ready_of_met (by decide), ready_of_met (by decide),
    ready_of_met (by decide), ready_of_met (by decide), ready_of_met (by decide), ready_of_met (by decide)⟩

/-- A zero extent, a nonzero slot beyond the count, and equal indices trap with cause 0x02 and their scalar (R271, R273). -/
theorem test_matrix_traps :
    trap (exec (.mlay 0 0 1) (regs [0, 0, 7, 0x00200020, 0x00010000])) = some (0x02, 0, 0x00010000)
    ∧ trap (exec (.mgang 0 1) (regs [0, 0x01000010])) = some (0x02, 0, 0x01000010)
    ∧ trap (exec (.mgang 0 1) (regs [0, 0x02000000])) = some (0x02, 0, 0x02000000) := by decide

theorem test_meets_tile_failures :
    let qf := fun d n => d' (.accfree 0 d n) 0xD8 [codeS d.toNat] []
    let qa : Desc := d' (.accalloc 0 3 0 1) 0xD7 [] [codeS 3, codeP 1]
    let none' := (tiled []).setCore 0 { (tiled []).core 0 with accown := [2, 2, 2, 2], live := [1, 1, 1, 1] }
    let other := none'.setCrew 0 1 (some { slotCrew 0 with launch := 0, reserve := some (1, 0) })
    let later := other.setCrew 0 0 (match other.crew? 0 0 with | some k => some { k with launch := 1 } | none => none)
    (Ready (qf 1 0) foreign (now foreign) ∧ Ready (qf 2 0) foreign (now foreign) ∧ (foreign.core 0).owner 1 = 9
      ∧ (foreign.crew? 0 0).map Crew.held = some 1)
    ∧ (Ready (qf 1 0) (tiled [0, 1]) (now (tiled [0, 1])) ∧ ((tiled []).core 0).owner 0 = 1) ∧ Ready (qf 1 1) (tiled [0, 1]) (now (tiled [0, 1]))
    ∧ (Ready qa none' (now none') ∧ (none'.core 0).oldestReserve = none ∧ (none'.core 0).findBlock 1 false 1 = none)
    ∧ (Ready qa later (now later) ∧ (later.core 0).oldestReserve = some 1 ∧ (later.crew? 0 1).map Crew.launch = some 0
      ∧ (later.crew? 0 0).map Crew.launch = some 1 ∧ (later.core 0).findBlock 1 false 1 = none) :=
  ⟨⟨ready_of_met (by decide), ready_of_met (by decide), by decide, by decide⟩, ⟨ready_of_met (by decide), by decide⟩, ready_of_met (by decide),
    ⟨ready_of_met (by decide), by decide, by decide +kernel⟩, ready_of_met (by decide), by decide, by decide, by decide, by decide +kernel⟩

/-- ACCFREE of a foreign region takes 0x30 and of a tile not held 0x31; ACCALLOC with no block reads 0xFFFFFFFF, or 0xFFFFFFFE behind an
older reservation (R284, R285). -/
theorem test_tile_failures :
    trap (exec (.accfree 0 1 0) foreign) = some (0x30, 0, 16) ∧ trap (exec (.accfree 0 1 0) (tiled [0, 1])) = some (0x31, 0, 1)
    ∧ trap (exec (.accfree 0 1 1) (tiled [0, 1])) = some (0x0A, 0, 1)
    ∧ (let none' := (tiled []).setCore 0 { (tiled []).core 0 with accown := [2, 2, 2, 2], live := [1, 1, 1, 1] }
       let other := none'.setCrew 0 1 (some { slotCrew 0 with launch := 0, reserve := some (1, 0) })
       let later := other.setCrew 0 0 (match other.crew? 0 0 with | some k => some { k with launch := 1 } | none => none)
       arrived (exec (.accalloc 0 3 0 1) none') (fun g => g.regs.readS 3) = some 0xFFFFFFFF
        ∧ arrived (exec (.accalloc 0 3 0 1) later) (fun g => g.regs.readS 3) = some 0xFFFFFFFE) := by decide +kernel

/-- A reuse latch on the registers from v4. -/
def latched : State := (tiled []).modGroup ⟨0, 0, 0⟩ fun g => { g with reuse := some ⟨4, 7, 0xD2, 0, [[1], [2]], 1⟩ }

theorem test_meets_reuse :
    let q : Desc := { word := encode (.mma 0 0 4 0 1), op := 0xD2, st := 0, vtop := topOf [4, 5], types := setX, masked := true, reads := [] }
    let q6 : Desc := { word := encode (.mma 0 0 6 0 0), op := 0xD2, st := 0, vtop := topOf [6, 7], types := setX, masked := true, reads := [6, 7] }
    Ready q latched (now latched) ∧ (now latched).reuse = some ⟨4, 7, 0xD2, 0, [[1], [2]], 1⟩ ∧ Ready q6 latched (now latched)
    ∧ mwEtype (now latched).regs.mw = 7 ∧ (foreign.core 0).owner (16 / 16) ≠ 1
    ∧ Ready { word := encode (.mma 0 16 4 0 0), op := 0xD2, st := 0, vtop := topOf [4, 5], types := setX, masked := true, reads := [4, 5] } foreign (now foreign) :=
  ⟨ready_of_met (by decide), by decide, ready_of_met (by decide), by decide, by decide, ready_of_met (by decide)⟩

/-- A matching latch gives A from the latch; another register empties it (R275). -/
theorem test_reuse :
    ((then' (exec (.mma 0 0 4 0 1) latched) fun t => (t.core 0).mats.map fun j => match j.kind with | .mma _ ts => ts.map TileIn.regs | _ => []))
      = some [[[[1], [2]]]]
    ∧ after (exec (.mma 0 0 6 0 0) latched) (fun g => g.reuse) = some none := by decide +kernel

/-- Two groups whose gang registers list both, and hold tiles 0 and 1; a latch that group 1 opened with `op`, in a list. -/
def ganged (latch : Option Gang) (w : Word := 0x02000010) (act : Mask := 1) : State :=
  let s := (tiled []).modGroup ⟨0, 0, 0⟩ fun g => { g with regs := { g.regs with gang := w, act := act } }
  s.setCrew 0 0 (match s.crew? 0 0 with
    | some k => some { k with held := 3, gang := latch, groups := k.groups ++ [k.groups.head?.bind fun g => g.map fun g => { g with gid := 1 }] }
    | none => none)

/-- Group 1 has issued MMA of tile 1. -/
def opened (op : Nat := 0xD2) (list : List Nat := [0, 1]) : Gang := ⟨list, [(1, 0)], ⟨op, 0, 7, layout, false⟩, [⟨1, 1, 4, [[], []], 1⟩]⟩

theorem test_meets_gang_operations :
    let q : Desc := { word := encode (.mma 0 0 4 0 0), op := 0xD2, st := 0, vtop := topOf [4, 5], types := setX, masked := true, reads := [4, 5] }
    let r := fun (s : State) => Ready q s (now s)
    let list := fun (s : State) => (List.range (((now s).regs.gang.toNat / 2 ^ 24) % 8)).map fun j => ((now s).regs.gang.toNat / 16 ^ j) % 16
    (r (ganged none) ∧ list (ganged none) = [0, 1] ∧ (now (ganged none)).reuse = none ∧ effMask (ganged none) (now (ganged none)) ≠ 0
      ∧ recordFailures (slotCrew 0).granules ⟨0xD2, 0, 7, layout, false⟩ (encode (.mma 0 0 4 0 0)) = []
      ∧ ((ganged none).crew? 0 0).map Crew.held = some 3 ∧ tilesLocked ((ganged none).core 0) [0] = false)
    ∧ (r (ganged none 0x01000000) ∧ list (ganged none 0x01000000) = [0])
    ∧ (r (ganged (some opened)) ∧ ((ganged (some opened)).crew? 0 0).map Crew.gang = some (some opened))
    ∧ (r (ganged (some opened) 0x02000010 0) ∧ effMask (ganged (some opened) 0x02000010 0) (now (ganged (some opened) 0x02000010 0)) = 0)
    ∧ (r (ganged none 0x01000001) ∧ 0 ∉ list (ganged none 0x01000001))
    ∧ r (ganged (some (opened 0xD2 [1, 0]))) ∧ r (ganged (some (opened 0xD3))) :=
  ⟨⟨ready_of_met (by decide), by decide, by decide, by decide, by decide +kernel, by decide, by decide⟩, ⟨ready_of_met (by decide), by decide⟩,
    ⟨ready_of_met (by decide), by decide⟩, ⟨ready_of_met (by decide), by decide⟩, ⟨ready_of_met (by decide), by decide⟩,
    ready_of_met (by decide), ready_of_met (by decide)⟩

/-- The first of a gang waits in its latch; the last hands every tile over, or enters with none under an empty mask (R50, R36). -/
theorem test_gang_operations :
    after (exec (.mma 0 0 4 0 0) (ganged none)) (fun g => (g.wait, g.pc)) = some (.gang, 0)
    ∧ (then' (exec (.mma 0 0 4 0 0) (ganged (some opened))) fun t => (t.core 0).mats.map fun j => match j.kind with
        | .mma _ ts => ts.map TileIn.tile | _ => []) = some [[1, 0]]
    ∧ (then' (exec (.mma 0 0 4 0 0) (ganged (some opened) 0x02000010 0)) fun t => (t.core 0).mats.map fun j => match j.kind with
        | .mma _ ts => ts.map TileIn.tile | _ => []) = some [[1]] := by decide +kernel

/-- A latch whose tile 17 lies in a region that another context owns: the last of the gang takes trap 0x30 for it, and is held while the region is locked (R286). -/
theorem test_gang_strange_tile :
    let far : State := ganged (some { opened with tiles := [⟨1, 17, 4, [[], []], 1⟩] })
    let shut := far.setCore 0 { far.core 0 with locked := [none, some ⟨0, 0, 1⟩] }
    ((far.core 0).owner (17 / 16) ≠ 1 ∧ trap (exec (.mma 0 0 4 0 0) far) = some (0x30, 0, 17))
    ∧ after (exec (.mma 0 0 4 0 0) shut) (fun g => (g.held, g.pc)) = some (some 0, 0) := by decide +kernel

/-- A list that omits the group, and a differing opcode, trap with cause 0x01; another list waits (R50). -/
theorem test_gang_refusals :
    trap (exec (.mma 0 0 4 0 0) (ganged none 0x01000001)) = some (0x01, 0, (encode (.mma 0 0 4 0 0)).toNat)
    ∧ trap (exec (.mma 0 0 4 0 0) (ganged (some (opened 0xD3)))) = some (0x01, 0, (encode (.mma 0 0 4 0 0)).toNat)
    ∧ after (exec (.mma 0 0 4 0 0) (ganged (some (opened 0xD2 [1, 0])))) (fun g => g.wait) = some .gangBusy := by decide +kernel

/-- ACCZ's job in core 0's queue, of another kind. -/
def matJob (kind : MatKind) : Option (Option (State × MatJob)) :=
  then' (exec (.accz 0 0 0) (tiled [])) fun t =>
    let u := t.setCore 0 { t.core 0 with mats := (t.core 0).mats.map fun j => { j with kind := kind } }
    (u.core 0).mats.head?.map fun j => (u, j)

/-- A record of two elements of two bytes, and its job ready, with its pages and without poison. -/
def two : BitVec 256 := 0#32 ++ 0#32 ++ 0#32 ++ 1#32 ++ 0x00010001#32 ++ 0x00010002#32 ++ 0x15#32 ++ 0#32

theorem test_meets_tile_jobs :
    let ok := fun k => (matJob k).map fun o => o.map fun p =>
      matReady p.1 0 p.2 && (matMisses p.1 0 p.2).isEmpty && (matPoison p.1 0 p.2).isNone && p.2.skipped.isEmpty
    ok (.load 0 (.scratch 0) two) = some (some true) ∧ ok (.store 0 (.scratch 0) two none 0) = some (some true)
    ∧ ok (.mma ⟨0xD2, 0, 7, layout, false⟩ [⟨0, 0, 4, [[], []], 1⟩]) = some (some true) := by decide +kernel

/-- ACCLD converts the elements at its walk's places; ACCST writes them back (R282, R283). -/
theorem test_tile_jobs :
    ((matJob (.load 0 (.scratch 0) two)).map fun o => o.map fun p =>
      then' (exec (.matrixJobStart 0 p.2.id) (p.1.setCore 0 (scratchWriteWord (p.1.core 0) (slotCrew 0).granules 0 0x40003C00))) fun u =>
        (accGet (u.core 0).acc 0, accGet (u.core 0).acc 1)) = some (some (some (0x3F800000, 0x40000000))) := by decide +kernel

/-- A launch block of one crew of one group: general role with 128 registers, 4,096 bytes of scratchpad, code of 128 bytes, no
counter but its own. -/
def blockBits : Nat :=
  let no := 0xFFFFFFFF
  2 ^ 16 + 2 ^ 24 + (128 * 2 ^ 40 + 2 ^ 48) * 2 ^ 64 + 2 ^ 256 + 4096 * 2 ^ 288 + 2 ^ 336 + 128 * 2 ^ 480
    + no * (2 ^ 1152 + 2 ^ 1184 + 2 ^ 1216) + ((List.range 4).map fun i => no * 2 ^ (1248 + 96 * i)).sum
    + ((List.range 8).map fun i => no * 2 ^ (1632 + 32 * i)).sum + 2 * 2 ^ 1952

/-- The block in object 5, a counter table with counter 2 of context 1 elsewhere, and a launch that may save 2^20 bytes. -/
def launching (bits : Nat) : State :=
  let s := mem' fun g => { g with regs := { g.regs with s := [0, 0] } }
  let s1 := s.setPart 0 { s.part 0 with cnt := 0x3001 }
  let block := (List.range 256).filterMap fun i => let b := byteOf bits i; if b = 0 then none else some (devAddr 0 (4096 + i), b)
  let s2 := { s1 with mem := block ++ [(devAddr 0 0x3020, 9), (devAddr 0 0x302C, 1)] }
  s2.modLaunch 0 fun l => { l with saveBytes := 0x100000, block := { l.block with prio := 3 } }

theorem test_meets_launch :
    Ready (d' (.launchq 0 4 1 1) 0xEE [codeS 1, codeC 1] [codeS 4]) (launching blockBits) (now (launching blockBits))
    ∧ (now (launching blockBits)).usc = 0 ∧ (now (launching blockBits)).buf = [] ∧ counterValid (launching blockBits) 0 1 2 = true
    ∧ accessCauses (launching blockBits) 0 .normal (capMake 5 0 512 15) 0 256 .read = []
    ∧ (acceptedBlock (counted []) 0 1 0x100000 blockBits).isSome = true
    ∧ (acceptedBlock (counted []) 0 1 0x100000 (blockBits + 2 ^ 33)).isNone = true :=
  ⟨ready_of_met (by decide +kernel), by decide +kernel, by decide +kernel, by decide +kernel, by decide +kernel, by decide +kernel, by decide +kernel⟩

/-- LAUNCHQ of a legal block reads 0 and adds a launch, of its issuer's priority at most (R319, R331). -/
theorem test_launch :
    (then' (exec (.launchq 0 4 1 1) (launching blockBits)) fun t => (t.launches.map fun l => [l.seq, l.block.crews, l.block.prio],
      (t.group? ⟨0, 0, 0⟩).map fun g => g.drain.regs.readS 4)) = some ([[0, 1, 3], [1, 1, 0]], some 0) := by decide +kernel

theorem test_meets_last_exit :
    let q := d' (.exit 0) 0x0C [] []
    let busy := at' acquiring
    let two' := duo
    Ready q busy (now busy) ∧ (now busy).outst ≠ [] ∧ Ready q two' (now two')
    ∧ (two'.crew? 0 0).map (fun k => (getAt none k.groups 1).isSome) = some true
    ∧ (base.launch? 0).map Launch.standing = some false ∧ (base.crew? 0 0).map (fun k => (List.range 16).all fun i => i = 0 || (getAt none k.groups i).isNone) = some true :=
  ⟨ready_of_met (by decide), by decide, ready_of_met (by decide), by decide, by decide, by decide⟩

/-- EXIT with a load outstanding waits for it; the exit of the crew's last group finishes the crew (R42, R86). -/
theorem test_last_exit :
    after (exec (.exit 0) (at' acquiring)) (fun g => (g.wait, g.pc)) = some (.drain, 0)
    ∧ (then' (exec (.exit 0) base) fun t => (t.launch? 0).map Launch.finished) = some (some [0])
    ∧ (then' (exec (.exit 0) (duo)) fun t => ((t.launch? 0).map Launch.finished, decide (t.group? ⟨0, 0, 0⟩ = none))) = some (some [], true) := by decide +kernel

/-- A node group with two lanes, of which the guard leaves one. -/
def noded : State := at' fun g => { g with
  wake := some (.node, [⟨none, none, false, false, none, none⟩]), regs := { g.regs with act := 3, p := [1], mw := 0 } }

/-- Lane 0 of a wake of a kind, alone under its guard, with slate 0 and its partner, slate 1. -/
def merging (kind : WakeKind) : State :=
  let s := wokenOne.modGroup ⟨0, 0, 0⟩ fun g => { g with
    wake := some (kind, [⟨some 0, some 1, false, false, some ⟨10, 20, 3, 1, 0⟩, some ⟨10, 30, 3, 1, 0⟩⟩]) }
  s.setCore 0 { s.core 0 with dormers := [dormer [slate, { slate with id := 1 }]] }

theorem test_meets_more_wake_ends :
    let q := fun (i : Instr) op (s : State) => ({ word := encode i, op := op, st := 0, masked := true, reads := frameRegs s, writes := codesAct } : Desc)
    (Ready (q (.wyield 0) 0xE0 noded) noded (now noded) ∧ (now noded).windowWake = none ∧ (now noded).wake ≠ none
      ∧ effMask noded (now noded) = 1 ∧ (now noded).regs.act &&& ~~~ (1 : Mask) ≠ 0 ∧ releasedCore (now noded) = true)
    ∧ (Ready (q (.wmerge 0) 0xE3 (merging .merge)) (merging .merge) (now (merging .merge)) ∧ effMask (merging .merge) (now (merging .merge)) = 1
      ∧ (now (merging .merge)).windowWake = some .merge)
    ∧ (Ready (q (.wyield 0) 0xE0 (merging .close)) (merging .close) (now (merging .close)) ∧ (now (merging .close)).windowWake = some .close)
    ∧ (Ready { word := encode (.wclose 0), op := 0xE1, st := 0, masked := true, writes := codesAct } wokenOne (now wokenOne))
    ∧ (let s := wokenOne.modGroup ⟨0, 0, 0⟩ unsent; Ready (q (.wyield 0) 0xE0 s) s (now s) ∧ releasedCore (now s) = false) :=
  ⟨⟨ready_of_met (by decide), by decide, by decide, by decide, by decide, by decide⟩, ⟨ready_of_met (by decide), by decide, by decide⟩,
    ⟨ready_of_met (by decide), by decide⟩, ready_of_met (by decide), ready_of_met (by decide), by decide⟩

/-- A node group's WYIELD lets its other lane go on; WMERGE keeps a slate with its frame and frees its partner; WYIELD at a
close frees the slate (R305, R306). -/
theorem test_more_wake_ends :
    after (exec (.wyield 0) noded) (fun g => (g.regs.act, g.regs.xm, g.pc)) = some (2, 1, 4)
    ∧ (then' (exec (.wmerge 0) (merging .merge)) fun t => (t.dormer? 0 0).map fun d => d.slates.map fun z => (z.id, z.frame, z.out)) = some (some [(0, [8], false)])
    ∧ (then' (exec (.wyield 0) (merging .close)) fun t => (t.dormer? 0 0).map fun d => d.slates.map Slate.id) = some (some [1]) := by decide +kernel

/-- Fifteen records of core 0 in flight. -/
def crowded : State := { posting with recs := List.replicate 15 ⟨4, ⟨7, 0⟩, ⟨0, 0, 0⟩, true, none, .toIngress, 0, stackOf 0, true, none, 1, 0⟩ }

theorem test_meets_scarce_credits :
    let ds := List.range 16
    Ready { word := encode (.rpost 0 0 0 0), op := 0xE6, st := 0, vtop := topOf ds, reads := ds, masked := true } crowded (now crowded)
    ∧ (crowded.recs.filter fun r => r.phase = .toIngress && r.credit && r.poster.core = 0 && r.node = stackOf 0).length = 15
    ∧ (activeLanes (effMask crowded (now crowded))).length = 2 := ⟨ready_of_met (by decide), by decide, by decide⟩

/-- With one credit left the first lane posts, and the second waits at issue (R309, R344). -/
theorem test_scarce_credits :
    (then' (exec (.rpost 0 0 0 0) crowded) fun t => t.recs.length) = some 16
    ∧ after (exec (.rpost 0 0 0 0) crowded) (fun g => (g.pc, match g.wait with | .post p => p.todo.map Prod.fst | _ => [])) = some (0, [1]) := by decide +kernel

/-- The digests of the three bytes "abc", as FIPS 180-4's examples give them, and P-384's base point lies on its curve. -/
theorem test_security_engine :
    keyDigest [0x61, 0x62, 0x63]
      = 0xcb00753f45a35e8bb5a03d699ac65007272c32ab0eded1631a8b605a43ff5bed8086072ba1e7cc2358baeca134c825a7
    ∧ natBE (sha256.digest [0x61, 0x62, 0x63]) = 0xba7816bf8f01cfea414140de5dae2223b00361a396177a9cb410ff61f20015ad
    ∧ (match ecG with | some p => ecOnCurve p.1 p.2 | none => false) = true := by decide +kernel

/-! ### Results, held loads, traps under way -/

/-- A known result of the group, with id 4, into s3. -/
def pendingResult (g : Group) : Group := { g with outst := [⟨4, [codeS 3], .value [(codeS 3, .scal 7)], [], 0⟩] }

theorem test_meets_traps_under_way :
    (let s := at' pendingResult
     (now s).wait = .none ∧ (now s).outst ≠ [] ∧ (now s).state ≠ .core
      ∧ ((takeTrapAt s s.cur 0x42 8 5).group? s.cur).map (fun g => (g.wait, g.state)) = some (.trap 0x42 8 5, .normal)
      ∧ then' (exec (.variableLatencyResult 0 0 0 4) (takeTrapAt s s.cur 0x42 8 5)) (fun t => (t.group? s.cur).map fun g => (g.wait, g.tpc, g.regs.readS 3))
        = some (some (.none, 8, 7)))
    ∧ (let s := at' fun g => { g with wait := .trap 0x42 8 5 }
       (now s).wait = .trap 0x42 8 5 ∧ (now s).outst = [] ∧ (now s).state ≠ .core ∧ ((trapDue s s.cur).group? s.cur).map (fun g => (g.tcause, g.tpc)) = some (0x42, 8))
    ∧ (let s := at' fun g => { pendingResult g with wait := .trap 0x50 12 3 }
       (now s).wait = .trap 0x50 12 3 ∧ ((takeTrapAt s s.cur 0x42 8 5).group? s.cur).map (fun g => g.wait) = some (.trap 0x50 12 3))
    ∧ (let s := at' fun g => { g with wait := .esc none }
       (now s).wait = .esc none ∧ ((takeTrapAt s s.cur 0x42 8 5).group? s.cur).map (fun g => g.wait) = some (.esc (some (0x42, 8, 5)))) := by decide +kernel

/-- A line write of line 32 with two bytes, and a later one of another group behind it. -/
def wr32 (g : Gid) (id : Nat) (v : BitVec 8) (after : List Nat := []) (p : WritePhase := .toHome) : WriteMsg :=
  { wr with id := id, issuer := .group g, line := 32, bytes := [(0, v), (1, v)], after := after, phase := p }

theorem test_meets_forwarded_bytes :
    let sees := fun (s : State) (i : Nat) => overlay (forwardBytes s ⟨0, 0, 0⟩ (now s) 32) (4096 + i)
    let put := fun (ws : List WriteMsg) (f : Group → Group) => { mem' f with writes := ws }
    sees (put [wr32 ⟨0, 0, 0⟩ 1 5] fun g => { g with buf := [⟨4, 32, [(0, 9)], 0, false⟩] }) 0 = some 9
    ∧ sees (put [wr32 ⟨0, 1, 0⟩ 1 5] id) 0 = some 5 ∧ sees (put [] id) 0 = none
    ∧ sees (put [wr32 ⟨0, 1, 0⟩ 1 5, wr32 ⟨0, 0, 0⟩ 2 6] id) 0 = some 6
    ∧ sees (put [wr32 ⟨0, 0, 0⟩ 2 6, wr32 ⟨0, 1, 0⟩ 3 7 [2]] id) 0 = some 7
    ∧ sees (put [wr32 ⟨0, 0, 0⟩ 2 6 [] .ack, wr32 ⟨0, 1, 0⟩ 3 7] id) 0 = some 7
    ∧ sees (put [wr32 ⟨0, 0, 0⟩ 2 6 [] .ack] id) 0 = some 6 := by decide +kernel

/-- The core's cache holds line 32, whose first byte is 0x11. -/
def cached : State := mem'.setCore 0 { mem'.core 0 with cache := [⟨32, [0x11, 0x22, 0x33, 0x44], 50, [], 0, false, 4⟩] }

/-- An atomic of the group in flight on the word at 4,096. -/
def aimed (s : State) : State := { s with atoms := [{ atm with line := 32, ops := [⟨0, 4096, 0, 5, 0⟩] }] }

theorem test_meets_held_and_cached_loads :
    let ldu := ({ word := encode (.ldu 0 3 1 0), op := 0xB4, st := 0, reads := [codeC 1], writes := [codeS 3] } : Desc)
    let at1 := fun (s : State) => aimed { s with atoms := [] }
    let q : Desc := { word := encode (.atom 0 2 1 1 0), op := 0xB6, st := 0, vtop := topOf [2, 1], reads := [1, 2, codeC 1], writes := [2], masked := true }
    let full := mem' fun g => { acquiring g with buf := List.replicate 32 ⟨4, 9, [], 0, false⟩ }
    let qs : Desc := { word := encode (.st 0 2 1 1 2), op := 0xB1, st := 0, vtop := topOf [1, 2], reads := [1, codeC 1, 2], masked := true }
    Ready ldu cached (now cached) ∧ Ready ldu (at1 mem') (now (at1 mem')) ∧ (Ready q (at1 mem') (now (at1 mem')) ∧ lineInFlight (at1 mem') ⟨0, 0, 0⟩ 32 = true)
    ∧ (Ready q (polling (wtm 6)) (now (polling (wtm 6))) ∧ watched (polling (wtm 6)) ⟨0, 0, 0⟩ (now (polling (wtm 6))) 1 [4096] = true)
    ∧ (Ready qs full (now full) ∧ bufferRoom full ⟨0, 0, 0⟩ (now full) (lineWrites 0 [(4096, 1, 0, false)]) = false) :=
  ⟨ready_of_met (by decide +kernel), ready_of_met (by decide +kernel), ⟨ready_of_met (by decide +kernel), by decide +kernel⟩,
    ⟨ready_of_met (by decide +kernel), by decide +kernel⟩, ready_of_met (by decide +kernel), by decide +kernel⟩

/-- The copy serves LDU at once; LDU of a byte that the group's atomic targets is held (R177, R200). -/
theorem test_held_and_cached_loads :
    (then' (exec (.ldu 0 3 1 0) cached) fun t => (t.loads.length, (t.group? ⟨0, 0, 0⟩).map fun g => g.outst.map Outst.awaited)) = some (0, some [[]])
    ∧ (then' (exec (.ldu 0 3 1 0) cached) fun t => after (exec (.loadResponse 0) t) fun g => g.regs.readS 3) = some (some 0x44332211)
    ∧ after (exec (.ldu 0 3 1 0) (aimed mem')) (fun g => (g.held, g.pc, g.outst.length)) = some (some 0, 0, 0) := by decide +kernel

/-- A result of kind `k` that awaits lines 32 and perhaps more; line 32 has arrived with the bytes 1 and 2. -/
def responding (k : OutKind) (lines : List Nat := [32]) (part : State := mem') : State :=
  { part.modGroup ⟨0, 0, 0⟩ fun g => { g with outst := [⟨0, [3], k, lines, 0⟩] } with
    loads := [{ ld with line := 32, bytes := [4096, 4097], phase := .response, data := [1, 2] }] }

/-- LD of two bytes in lane 1 into v3, and its lane 0 cleared. -/
def lane1 : OutKind := .load 3 2 [⟨1, [4096, 4097], []⟩] 1 [] []

theorem test_meets_load_results :
    (((responding lane1).loads.find? fun m => m.id = 0 && m.phase = .response).map fun m => (decide (m.gid = ⟨0, 0, 0⟩), m.out, loadStale (responding lane1) m m.vers))
      = some (true, 0, false)
    ∧ (now (responding lane1)).wait.trapping = false ∧ (now (responding lane1 [32, 33])).outst.map Outst.awaited = [[32, 33]]
    ∧ readyOut (responding lane1 []) 0 = some ⟨0, 0, 0⟩
    ∧ capLoadable mem' 0 (capMake 5 0 512 15) = true ∧ capLoadable mem' 0 (capMake 0xF000 0 512 15) = false := by decide +kernel

/-- A byte pair is zero-extended into its lane, the cleared lane reads 0, the other keeps its value; a result of two lines waits for the second (R199, R85). -/
theorem test_load_results :
    after (exec (.loadResponse 0) (responding lane1)) (fun g => (g.regs.readV 3 0, g.regs.readV 3 1, g.regs.readV 1 1, g.outst.length)) = some (0, 0x201, 4, 0)
    ∧ after (exec (.loadResponse 0) (responding lane1 [32, 33])) (fun g => (g.regs.readV 3 1, g.outst.map Outst.awaited)) = some (0, [[33]]) := by decide +kernel

/-- The group awaits the old words of two lanes, of lines 32 and 33; that of lane 0 is back. -/
def atomised (lines : List Nat) : State :=
  { mem' fun g => { g with usc := 2, outst := [⟨0, [3], .atom 3 3 [] [], lines, 0⟩] } with
    atoms := [{ atm with line := 32, phase := .ack, olds := [(0, 77)], gwct := 9 }] }

theorem test_meets_atomic_results :
    ((atomised [32]).atoms.find? (fun a => a.id = 6 && a.phase = .ack)).map (fun a => (decide (a.issuer = .group ⟨0, 0, 0⟩), a.out)) = some (true, 0)
    ∧ (atomised [32]).loads = [] ∧ (now (atomised [32, 33])).wait.trapping = false
    ∧ after (exec (.loadResponse 6) (atomised [32, 33])) (fun g => (g.usc, g.lgwct, g.outst.map Outst.awaited)) = some (1, 9, [[33]])
    ∧ after (exec (.loadResponse 6) (atomised [32])) (fun g => (g.regs.readV 3 0, g.usc, g.outst.length)) = some (77, 1, 0) := by decide +kernel

theorem test_meets_timers :
    (let s := { at' (fun g => { pendingResult g with state := .user }) with gt := 16777216 }
     (now s).outst ≠ [] ∧ (now s).wait.pastWatchdog = false
      ∧ (then' (exec (.watchdog 0 0 0) s) fun t => (t.group? ⟨0, 0, 0⟩).map fun g => g.wait) = some (some (.trap 0x51 0 0x1000000)))
    ∧ (let s := { at' (fun g => { g with state := .user, wait := .esc none }) with gt := 16777216 }
       (now s).wait = .esc none ∧ (now s).wait.pastWatchdog = false
        ∧ (then' (exec (.watchdog 0 0 0) s) fun t => (t.group? ⟨0, 0, 0⟩).map fun g => g.wait) = some (some (.esc (some (0x51, 0, 0x1000000)))))
    ∧ (let s := (at' fun g => { g with wait := .page 2 }).setPart 0 { base.part 0 with pages := [pageGroup] }
       (now s).wait = .page 2 ∧ after (exec (.pageResponse 0 2 .success [7]) s) (fun g => (g.wait, g.granted)) = some (.none, [5])) := by decide +kernel

/-- A gateway's live copy of line 2 from before a write of version 3 that the group has seen there is no answer (R179, R184). -/
theorem test_meets_stale_gateway :
    let s := { gatewayed with loads := [{ ld with phase := .toGateway, gateway := some 0, minVer := [(260, 3)] }] }
    liveCopy s.gt 2 (getAt Gateway.reset s.gateways 0).lines = some held ∧ (∃ a ∈ [260, 261], verAt held.vers a < loadVer s { ld with minVer := [(260, 3)] } a)
    ∧ (then' (exec (.gatewayLoad 0) s) fun t => t.loads.map fun m => decide (m.phase = .toHome)) = some [true] := by decide +kernel

theorem test_meets_save_waits :
    let s := crewed fun k => { k with preemptAt := some 0, groups := [some { pendingResult slotGroup with wait := .barrier 0 }] }
    let t := crewed fun k => { k with preemptAt := some 0, groups := [some { pendingResult slotGroup with halt := .saving }] }
    (s.crew? 0 0).map (fun k => (decide (k.preemptAt ≠ none), k.members.all fun y => y.2.stopped k.forced, saveWaits s 0 0 k,
        k.members.any fun y => decide (y.2.halt ≠ .saving ∧ y.2.halt ≠ .cancelled))) = some (true, true, true, true)
    ∧ (then' (exec (.crewSave 0 0) s) fun t => (t.group? ⟨0, 0, 0⟩).map fun g => decide (g.halt = .saving)) = some (some true)
    ∧ (t.crew? 0 0).map (fun k => (saveWaits t 0 0 k, k.members.all fun y => decide (y.2.halt = .saving))) = some (true, true) := by decide +kernel

/-- An EXIT of a wake's lanes with another group resident, and a WYIELD of both lanes of a wake. -/
theorem test_meets_wakes_end :
    let gone := (duo id woken)
    let both := woken fun g => { g with wake := some (.merge, [⟨some 0, none, false, false, none, none⟩, ⟨some 1, none, false, false, none, none⟩]) }
    let two := both.setCore 0 { both.core 0 with dormers := [dormer [slate, { slate with id := 1, key := 4 }]] }
    (Ready (d' (.exit 0) 0x0C [] []) gone (now gone) ∧ (now gone).outst = [] ∧ (now gone).windowWake = some .open ∧ (curWindow gone).isSome = true
      ∧ ((gone.crew? 0 0).map fun k => (getAt none k.groups 1).isSome) = some true)
    ∧ (then' (exec (.exit 0) gone) fun t => (t.dormer? 0 0).map fun d => d.slates.map fun z => (z.id, z.frame, z.out)) = some (some [(0, [5], false)])
    ∧ (let q : Desc := { word := encode (.wyield 0), op := 0xE0, st := 0, masked := true, reads := frameRegs two, writes := codesAct }
       Ready q two (now two) ∧ effMask two (now two) = 3 ∧ releasedCore (now two) = true)
    ∧ (then' (exec (.wyield 0) two) fun t => (t.dormer? 0 0).map fun d => d.slates.map fun z => (z.id, z.frame, z.out)) = some (some [(0, [8], false), (1, [0], false)]) :=
  ⟨⟨ready_of_met (by decide +kernel), by decide +kernel, by decide +kernel, by decide +kernel, by decide +kernel⟩, by decide +kernel,
    ⟨ready_of_met (by decide +kernel), by decide +kernel, by decide +kernel⟩, by decide +kernel⟩

/-- A listed gang group whose acquire waits, with an empty mask, is held (R187). -/
theorem test_meets_held_gang :
    let s := (ganged (some opened) 0x02000010 0).modGroup ⟨0, 0, 0⟩ fun g => { acquiring g with }
    let q : Desc := { word := encode (.mma 0 0 6 0 0), op := 0xD2, st := 0, vtop := topOf [6, 7], types := setX, masked := true, reads := [6, 7] }
    Ready q s (now s) ∧ acquirePending (now s) = true ∧ effMask s (now s) = 0
    ∧ after (exec (.mma 0 0 6 0 0) s) (fun g => (g.held, g.pc)) = some (some 0, 0) :=
  ⟨ready_of_met (by decide +kernel), by decide +kernel, by decide +kernel, by decide +kernel⟩

/-- While a BMODE of another group is at work a change completes it, and the placements that waited are decided (R212, R322). -/
theorem test_meets_bank_change :
    let at1 := (handler .core).modGroup ⟨0, 0, 0⟩ fun g => { g with held := some 0, regs := { g.regs with s := [0, 0, 1] } }
    let s := at1.setCore 0 { at1.core 0 with bankChange := some (⟨0, 0, 0⟩, 0) }
    let q : Desc := { word := encode (.bmode 0 3 1 2), op := 0xBF, st := 0, priv := .core, reads := [codeS 1, codeS 2], writes := [codeS 3] }
    Ready q s (now s) ∧ (s.core 0).changing = true ∧ bankBusy s s.cur = false
    ∧ (then' (exec (.bmode 0 3 1 2) s) fun t => (((t.core 0).bank 0).mode, (t.core 0).changing)) = some (.scratch, false) :=
  ⟨ready_of_met (by decide +kernel), by decide +kernel, by decide +kernel, by decide +kernel⟩

theorem test_meets_float_reductions :
    Ready { vDesc (encode (.vred 0 3 1 6)) 0x5F 0 2 setG 3 [1] with masked := true, writes := [3], fixed := [3] } floats (now floats)
    ∧ Ready { vDesc (encode (.vred 0 3 1 6)) 0x5F 0 2 setG 3 [1] with masked := true, writes := [3], fixed := [3] } floatsTrap (now floatsTrap)
    ∧ Ready { vDesc (encode (.vscan 0 3 1 0 6)) 0x60 0 2 setG 3 [1] with masked := true, writes := [3] } floats (now floats)
    ∧ enabledCause (now floats).regs.mw 1 = none ∧ enabledCause (now floatsTrap).regs.mw 1 = some 0x20
    ∧ (∃ l, (effMask floatsTrap (now floatsTrap)).getLsbD l = true ∧ (decodeFloat .f32 ((now floatsTrap).regs.readV 1 l).toNat).snan = true) :=
  ⟨ready_of_met (by decide), ready_of_met (by decide), ready_of_met (by decide), by decide, by decide, ⟨1, by decide⟩⟩

/-- 2.0 + 1.0 is 3.0 in both lanes; a signalling NaN makes its prefix's sum the quiet NaN and traps with its lane; the prefix before it is 1.0 (R151, R152). -/
theorem test_float_reductions :
    after (exec (.vred 0 3 2 6) floats) (fun g => (g.regs.readV 3 0, g.regs.readV 3 1, g.regs.flags)) = some (0x40400000, 0x40400000, 0)
    ∧ after (exec (.vscan 0 3 1 0 6) floats) (fun g => (g.regs.readV 3 0, g.regs.readV 3 1, g.regs.flags)) = some (0x3F800000, 0x7FC00000, 1)
    ∧ trap (exec (.vred 0 3 1 6) floatsTrap) = some (0x20, 0, 1) := by decide +kernel

/-- Object 5 as a page of virtual memory, translated to slice 0, which its partition no longer holds (R173, R174, R364). -/
def lost : State :=
  let e : BitVec 1024 := BitVec.ofNat 1024 (1 + 2 + 512 * 2 ^ 24 + 4096 * 2 ^ 64)
  let s := mem'.setPart 0 { mem'.part 0 with entryCache := [(5, e)], slices := 0 }
  { s with hostPages := [⟨0, 1, 3, true⟩] }

/-- The load traps with 0x11 and its lowest lane, and the store writes nothing (R171, R174). -/
theorem test_meets_refused_translation :
    (let e := objEntry lost 0 5
     accWindow? 5 = none ∧ entryMalformed (lost.part 0) e = false ∧ entryKind e = 1 ∧ 0 < entrySize e
     ∧ translate lost (stackOf 0) (lost.part 0).pasid (entryVbase e) false = some 12288 ∧ (lost.part 0).reaches 12288 = false
     ∧ laneAccessCauses lost 0 0 .normal (capMake 5 0 512 15) 0 4 .read = [0x11])
    ∧ trap (exec (.ld 0 2 1 1 2) lost) = some (0x11, 0, 0)
    ∧ trap (exec (.st 0 2 1 1 2) lost) = some (0x11, 0, 0) := by decide +kernel

/-- A trap of a group that waits in a double fault is kept, and taken at the completion (R252, R253). -/
theorem test_meets_late_double_fault :
    let s := supervised (at' fun g => { g with wait := .doubleFault none })
    let u := takeTrapAt s s.cur 0x50 8 3
    (now s).wait = .doubleFault none ∧ (u.group? s.cur).map (fun g => (g.wait, g.pc)) = some (.doubleFault (some (0x50, 8, 3)), 0)
    ∧ (u.core 0).escQueue = [] ∧ (now u).wait.escalated = true
    ∧ after (exec (.escCompletion 0 0) u) (fun g => (g.wait, g.tcause, g.tpc, g.tval)) = some (.none, 0x50, 8, 3) := by decide +kernel

/-- Nothing more starts on a fenced core (R266). -/
theorem test_fenced_wake :
    let s := waking [⟨.open, some 0, rec7.bits⟩] [slate]
    (s.core 0).fenced = false ∧ (s.setCore 0 { s.core 0 with fenced := true }).launch? 0 = s.launch? 0
    ∧ (match exec (.wakeStart 0 0 0 1) (s.setCore 0 { s.core 0 with fenced := true }) with | .refused _ => true | _ => false) = true := by decide +kernel

/-- A quiet graph's launch ends attached to nothing, though no bin was its own (R328). -/
theorem test_quiescence_detaches :
    (then' (exec (.quiescenceSample 0 2) (quiet [⟨2, 12288, true, 0, 0⟩])) fun t => (t.launch? 0).map fun l => l.detached) = some (some true) := by decide +kernel
end Tests
end

section
/-! SUPPORT. Properties of GT and memory that survive whatever the device does to memory, and how the parts of a meaning keep them. -/

namespace Sys2Proof.Machine

open Sys2Proof

/-- A property of GT and memory that the write of a byte and the dropping of cells keep. Whatever the device does to memory
is made of these two, and nothing but time and power-on reset changes GT: each such property is therefore an invariant. -/
structure MemInv where
  holds : Nat → List Host.Cell → Prop
  set : ∀ {n m} (a : Nat) (b : BitVec 8), holds n m → holds n (cellSet m a b)
  drop : ∀ {n m} (f : Host.Cell → Bool), holds n m → holds n (m.filter f)

theorem MemInv.cellsWrite (P : MemInv) {n : Nat} {m : List Host.Cell} (bs : List (BitVec 8)) (a : Nat) (h : P.holds n m) :
    P.holds n (cellsWrite m a bs) := by
  induction bs generalizing m a with
  | nil => exact h
  | cons b bs ih => exact ih (a + 1) (P.set a b h)

/-- The property holds of a state. -/
def Keeps (P : MemInv) (s : State) : Prop := P.holds s.gt s.mem

/-- The property holds of the next state, where an instruction answers one. -/
def OutKeeps (P : MemInv) : Out → Prop
  | .next t => Keeps P t
  | _ => True

/-- The property holds of the state after a queue's entry, where the entry is taken. -/
def EntryKeeps (P : MemInv) : Option (Option State) → Prop
  | some (some t) => Keeps P t
  | _ => True

section
variable {P : MemInv} {s t : State}

/-! ### The parts of a meaning: other fields, branches, loops and answers -/

protected theorem Keeps.congr (h : Keeps P s) (hgt : t.gt = s.gt) (hmem : t.mem = s.mem) : Keeps P t := by
  unfold Keeps
  rw [hgt, hmem]
  exact h

protected theorem Keeps.ite {c : Prop} [Decidable c] (hs : Keeps P s) (ht : Keeps P t) : Keeps P (if c then s else t) := by
  split
  · exact hs
  · exact ht

protected theorem Keeps.fst_ite {α : Type} {p q : State × α} {c : Prop} [Decidable c] (hp : Keeps P p.1) (hq : Keeps P q.1) :
    Keeps P (if c then p else q).1 := by
  split
  · exact hp
  · exact hq

protected theorem Keeps.getD {r : Option State} (hr : ∀ t, r = some t → Keeps P t) (h : Keeps P s) : Keeps P (r.getD s) := by
  cases r with
  | none => exact h
  | some t => exact hr t rfl

protected theorem Keeps.foldl {α : Type} {f : State → α → State} {xs : List α} (hf : ∀ s x, Keeps P s → Keeps P (f s x))
    (h : Keeps P s) : Keeps P (xs.foldl f s) := by
  induction xs generalizing s with
  | nil => exact h
  | cons x xs ih => exact ih (hf s x h)

protected theorem OutKeeps.keeps {r : Out} (h : OutKeeps P r) (e : r = .next t) : Keeps P t := by
  subst e
  exact h

protected theorem OutKeeps.ite {a b : Out} {c : Prop} [Decidable c] (ha : OutKeeps P a) (hb : OutKeeps P b) :
    OutKeeps P (if c then a else b) := by
  split
  · exact ha
  · exact hb

protected theorem EntryKeeps.keeps {r : Option (Option State)} (h : EntryKeeps P r) (e : r = some (some t)) : Keeps P t := by
  subst e
  exact h

protected theorem EntryKeeps.ite {a b : Option (Option State)} {c : Prop} [Decidable c] (ha : EntryKeeps P a)
    (hb : EntryKeeps P b) : EntryKeeps P (if c then a else b) := by
  split
  · exact ha
  · exact hb

/-! ### Updates of one other field -/

protected theorem Keeps.withAgenda {x} (h : Keeps P s) : Keeps P { s with agenda := x } := h.congr rfl rfl
protected theorem Keeps.withPfx {x} (h : Keeps P s) : Keeps P { s with pfx := x } := h.congr rfl rfl
protected theorem Keeps.withFree {x} (h : Keeps P s) : Keeps P { s with free := x } := h.congr rfl rfl
protected theorem Keeps.withNextId {x} (h : Keeps P s) : Keeps P { s with nextId := x } := h.congr rfl rfl
protected theorem Keeps.withPoison {x} (h : Keeps P s) : Keeps P { s with poison := x } := h.congr rfl rfl
protected theorem Keeps.withLeases {x} (h : Keeps P s) : Keeps P { s with leases := x } := h.congr rfl rfl
protected theorem Keeps.withHostCopies {x} (h : Keeps P s) : Keeps P { s with hostCopies := x } := h.congr rfl rfl
protected theorem Keeps.withPortLines {x} (h : Keeps P s) : Keeps P { s with portLines := x } := h.congr rfl rfl
protected theorem Keeps.withHostPages {x} (h : Keeps P s) : Keeps P { s with hostPages := x } := h.congr rfl rfl
protected theorem Keeps.withHostReg {x} (h : Keeps P s) : Keeps P { s with hostReg := x } := h.congr rfl rfl
protected theorem Keeps.withLoads {x} (h : Keeps P s) : Keeps P { s with loads := x } := h.congr rfl rfl
protected theorem Keeps.withWrites {x} (h : Keeps P s) : Keeps P { s with writes := x } := h.congr rfl rfl
protected theorem Keeps.withAtoms {x} (h : Keeps P s) : Keeps P { s with atoms := x } := h.congr rfl rfl
protected theorem Keeps.withRecs {x} (h : Keeps P s) : Keeps P { s with recs := x } := h.congr rfl rfl
protected theorem Keeps.withCasts {x} (h : Keeps P s) : Keeps P { s with casts := x } := h.congr rfl rfl
protected theorem Keeps.withCores {x} (h : Keeps P s) : Keeps P { s with cores := x } := h.congr rfl rfl
protected theorem Keeps.withDies {x} (h : Keeps P s) : Keeps P { s with dies := x } := h.congr rfl rfl
protected theorem Keeps.withGateways {x} (h : Keeps P s) : Keeps P { s with gateways := x } := h.congr rfl rfl
protected theorem Keeps.withLaunches {x} (h : Keeps P s) : Keeps P { s with launches := x } := h.congr rfl rfl
protected theorem Keeps.withGhosts {x} (h : Keeps P s) : Keeps P { s with ghosts := x } := h.congr rfl rfl
protected theorem Keeps.withParts {x} (h : Keeps P s) : Keeps P { s with parts := x } := h.congr rfl rfl
protected theorem Keeps.withNet {x} (h : Keeps P s) : Keeps P { s with net := x } := h.congr rfl rfl
protected theorem Keeps.withPkg {x} (h : Keeps P s) : Keeps P { s with pkg := x } := h.congr rfl rfl

end

end Sys2Proof.Machine
end

section
/-! SUPPORT. What the shared operations of the state keep: traps, the gate, retirement, placement and the Dormers. -/

namespace Sys2Proof.Machine

open Sys2Proof

variable {P : MemInv} {s : State}

/-! ### Writes of the places of the state, traps, the gate and retirement -/

protected theorem Keeps.setCore {c x} (h : Keeps P s) : Keeps P (s.setCore c x) := h.withCores

protected theorem Keeps.setCrew {c k x} (h : Keeps P s) : Keeps P (s.setCrew c k x) := h.setCore

protected theorem Keeps.setGroup {g x} (h : Keeps P s) : Keeps P (s.setGroup g x) := by
  unfold State.setGroup
  split
  · exact h
  · exact h.setCrew

protected theorem Keeps.modGroup {g f} (h : Keeps P s) : Keeps P (s.modGroup g f) := by
  unfold State.modGroup
  split
  · exact h
  · exact h.setGroup

protected theorem Keeps.setPart {p x} (h : Keeps P s) : Keeps P (s.setPart p x) := h.withParts

protected theorem Keeps.setDie {k x} (h : Keeps P s) : Keeps P (s.setDie k x) := h.withDies

protected theorem Keeps.modLaunch {n f} (h : Keeps P s) : Keeps P (s.modLaunch n f) := h.withLaunches

protected theorem Keeps.fresh (h : Keeps P s) : Keeps P (s.fresh).2 := h.withNextId

protected theorem Keeps.newVer {a n} (h : Keeps P s) : Keeps P (s.newVer a n) := .congr h rfl rfl

protected theorem Keeps.newVers {as} (h : Keeps P s) : Keeps P (s.newVers as) := .congr h rfl rfl

protected theorem Keeps.devWrite {a b} (h : Keeps P s) : Keeps P (s.devWrite a b) :=
  Keeps.newVer (P.set a b h)

protected theorem Keeps.writeHdm {p a bs} (h : Keeps P s) : Keeps P (s.writeHdm p a bs) := by
  induction bs generalizing s a with
  | nil => exact h
  | cons b bs ih => exact ih h.devWrite

protected theorem Keeps.vaWrite {stack part va bs} (h : Keeps P s) : Keeps P (vaWrite s stack part va bs) := by
  induction bs generalizing s va with
  | nil => exact h
  | cons b bs ih =>
    refine ih ?_
    split
    · exact h.devWrite
    · exact h

protected theorem Keeps.escalate {c e} (h : Keeps P s) : Keeps P (s.escalate c e) := h.setCore

protected theorem Keeps.enterTrap {g cause tpc tval} (h : Keeps P s) : Keeps P (enterTrap s g cause tpc tval) := by
  unfold Machine.enterTrap
  dsimp only
  split
  · exact .ite h.setGroup.escalate h.setGroup
  · exact h

protected theorem Keeps.takeTrapAt {g cause tpc tval} (h : Keeps P s) : Keeps P (takeTrapAt s g cause tpc tval) := by
  unfold Machine.takeTrapAt
  dsimp only
  split
  · split
    · exact h.withPfx.setGroup
    · exact h.withPfx.setGroup
    · exact .ite (.enterTrap (.ite h.withPfx.setCore h.withPfx.setCrew)) (.setGroup (.ite h.withPfx.setCore h.withPfx.setCrew))
  · exact h.withPfx

protected theorem Keeps.trapDue {g} (h : Keeps P s) : Keeps P (trapDue s g) := by
  unfold Machine.trapDue
  split
  · exact h
  · split
    · exact .ite h.enterTrap h
    · exact h

protected theorem Keeps.takeTrap {cause tval} (h : Keeps P s) : Keeps P (takeTrap s cause tval) := by
  unfold Machine.takeTrap
  split
  · exact h.takeTrapAt
  · exact h

protected theorem Keeps.fetchLine {core part base off} (h : Keeps P s) : Keeps P (s.fetchLine core part base off) := h.setCore

protected theorem Keeps.returnFromTrap {g next} (h : Keeps P s) : Keeps P (returnFromTrap s g next) := by
  unfold Machine.returnFromTrap
  dsimp only
  split
  · exact h.setCrew
  · exact h

protected theorem Keeps.holdIssue (h : Keeps P s) : Keeps P (holdIssue s) := h.modGroup.withPfx

protected theorem Keeps.waitIssue {w} (h : Keeps P s) : Keeps P (waitIssue s w) := h.modGroup.withPfx

protected theorem Keeps.issue {d} {k : Group → Mask → Out} (h : Keeps P s) (hk : ∀ g m, OutKeeps P (k g m)) :
    OutKeeps P (issue d s k) := by
  unfold Machine.issue
  split
  · trivial
  · split
    · exact h.takeTrap
    · exact h.waitIssue
    · exact hk _ _

protected theorem Keeps.finishAt {d g pc} (h : Keeps P s) : Keeps P (finishAt s d g pc) := h.setGroup.withPfx

protected theorem Keeps.finishTo {d g pc} (h : Keeps P s) : Keeps P (finishTo s d g pc) := h.finishAt

protected theorem Keeps.finish {d g} (h : Keeps P s) : Keeps P (finish s d g) := h.finishAt

protected theorem Keeps.finishMember {d g} (h : Keeps P s) : Keeps P (finishMember s d g) := h.finishAt

protected theorem Keeps.uniform {d f} (h : Keeps P s) : OutKeeps P (uniform d s f) := h.issue fun _ _ => h.finish

/-! ### Accesses -/

protected theorem Keeps.cacheEntry {part id} (h : Keeps P s) : Keeps P (s.cacheEntry part id) := .ite h h.setPart

/-! ### Placement, crews and Dormers -/

protected theorem Keeps.bankPoison {core c} (h : Keeps P s) : Keeps P (s.bankPoison core c) := h.withPoison

protected theorem Keeps.placeCrew {seq index t} (h : Keeps P s) (e : placeCrew s seq index = some t) : Keeps P t := by
  unfold Machine.placeCrew at e
  split at e
  · cases e
  · split at e
    · cases e
    · exact Option.some.inj e ▸ h.bankPoison.setCore.modLaunch

protected theorem Keeps.placeFrom {seq index n} (h : Keeps P s) : Keeps P (placeFrom s seq index n) := by
  induction n generalizing s index with
  | zero => exact h
  | succ n ih =>
    unfold Machine.placeFrom
    split
    · exact h
    · exact ih (h.placeCrew ‹_›)

protected theorem Keeps.placeAll {seq index n t} (h : Keeps P s) (e : placeAll s seq index n = some t) : Keeps P t := by
  induction n generalizing s index with
  | zero => exact Option.some.inj e ▸ h
  | succ n ih =>
    unfold Machine.placeAll at e
    split at e
    · cases e
    · exact ih (h.placeCrew ‹_›) e

protected theorem Keeps.placeLaunch {l} (h : Keeps P s) : Keeps P (placeLaunch s l) :=
  .ite (.getD (fun _ e => h.placeAll e) h) h.placeFrom

protected theorem Keeps.passLoop {ls} (h : Keeps P s) : Keeps P (passLoop s ls).1 := by
  induction ls generalizing s with
  | nil => exact h
  | cons l ls ih =>
    unfold Machine.passLoop
    dsimp only
    split
    · split
      · exact h
      · split
        · exact h
        · exact ih h
    · exact .fst_ite h.placeLaunch (ih h.placeLaunch)

protected theorem Keeps.passRun {part} (h : Keeps P s) : Keeps P (passRun s part).1 := by
  unfold Machine.passRun
  split
  · exact h
  · exact h.passLoop

protected theorem Keeps.placementPass {part} (h : Keeps P s) : Keeps P (placementPass s part) := h.passRun

protected theorem Keeps.passLocks {n next} (h : Keeps P s) : Keeps P (s.passLocks n next) := h.withCores

protected theorem Keeps.unlock {g} (h : Keeps P s) : Keeps P (s.unlock g) := by
  unfold State.unlock
  split
  · exact h.passLocks
  · exact h

protected theorem Keeps.leaveLocks {g} (h : Keeps P s) : Keeps P (s.leaveLocks g) := by
  unfold State.leaveLocks
  split
  · exact h.passLocks
  · exact h

protected theorem Keeps.emptySlot {core slot} (h : Keeps P s) : Keeps P (emptySlot s core slot) := by
  unfold Machine.emptySlot
  dsimp only
  split
  · exact h
  · exact h.setCore

protected theorem Keeps.freeCrewSlot {core slot} (h : Keeps P s) : Keeps P (freeCrewSlot s core slot) := by
  unfold Machine.freeCrewSlot
  dsimp only
  split
  · exact h
  · exact h.emptySlot.setCore

protected theorem Keeps.finishCrew {core slot} (h : Keeps P s) : Keeps P (finishCrew s core slot) := by
  unfold Machine.finishCrew
  dsimp only
  split
  · exact h
  · exact h.freeCrewSlot.modLaunch.placementPass

protected theorem Keeps.leaveGhost {launch g x} (h : Keeps P s) : Keeps P (leaveGhost s launch g x) := .congr h rfl rfl

protected theorem Keeps.abandonGang {core slot grp} (h : Keeps P s) : Keeps P (abandonGang s core slot grp) := by
  unfold Machine.abandonGang
  dsimp only
  split
  · exact h
  · split
    · exact h
    · refine .ite ?_ h
      split
      · refine .setCrew ?_
        refine h.setCrew.foldl fun s p hs => ?_
        split
        · exact hs.takeTrapAt
        · exact hs
      · refine h.setCrew.foldl fun s p hs => ?_
        split
        · exact hs.takeTrapAt
        · exact hs

protected theorem Keeps.modDormer {core launch f} (h : Keeps P s) : Keeps P (s.modDormer core launch f) := by
  unfold State.modDormer
  dsimp only
  split
  · exact h
  · exact h.setCore

protected theorem Keeps.wakeSlots {core slot} (h : Keeps P s) : Keeps P (wakeSlots s core slot) := by
  unfold Machine.wakeSlots
  split
  · exact h
  · split
    · exact .ite h.setCrew h
    · exact h

protected theorem Keeps.spillSlate {core l w id} (h : Keeps P s) : Keeps P (s.spillSlate core l w id) := by
  unfold State.spillSlate
  dsimp only
  refine .modDormer ?_
  refine h.withFree.foldl fun s' i hs' => ?_
  split
  · exact hs'.devWrite
  · exact hs'

protected theorem Keeps.settleSpills {core launch} (h : Keeps P s) : Keeps P (s.settleSpills core launch) := by
  unfold State.settleSpills
  split
  · exact h.foldl fun _ _ h => h.spillSlate
  · exact h

protected theorem Keeps.wakeOver {g launch x} (h : Keeps P s) : Keeps P (wakeOver s g launch x) := by
  unfold Machine.wakeOver
  split
  · exact h.modDormer.wakeSlots
  · exact h

protected theorem Keeps.retireGroup {g} (h : Keeps P s) : Keeps P (retireGroup s g) := by
  unfold Machine.retireGroup
  dsimp only
  split
  · split
    · exact h.leaveLocks.leaveGhost.withPfx.setGroup.abandonGang
    · exact .ite h.leaveLocks.leaveGhost.withPfx.setGroup.abandonGang.setCrew.wakeOver.finishCrew
        h.leaveLocks.leaveGhost.withPfx.setGroup.abandonGang.setCrew.wakeOver
  · exact h

end Sys2Proof.Machine
end

section
/-! SUPPORT. What the instructions keep, and the steps of messages and jobs that they start. -/

namespace Sys2Proof.Machine

open Sys2Proof

variable {P : MemInv} {s : State}

/-! ### Control flow, barriers and the system registers -/

protected theorem Keeps.jumpTo {d g t} (h : Keeps P s) : OutKeeps P (jumpTo s d g t) := .ite h.takeTrap h.finishTo

protected theorem Keeps.branchLanes {q g taken t} (h : Keeps P s) : OutKeeps P (branchLanes s q g taken t) :=
  .ite h.finish (.ite h.finishTo (.ite h.takeTrap h.finish))

protected theorem Keeps.resumeOrRetire {q g sync} (h : Keeps P s) : OutKeeps P (resumeOrRetire s q g sync) := by
  unfold Machine.resumeOrRetire
  dsimp only
  split
  · exact h.finishAt
  · exact .ite h.finish.retireGroup h.waitIssue

protected theorem Keeps.execSync {st} (h : Keeps P s) : OutKeeps P (execSync st s) :=
  h.issue fun _ _ => .ite h.takeTrap h.resumeOrRetire

protected theorem Keeps.crewOp {q g f} (h : Keeps P s) : OutKeeps P (crewOp s q g f) := by
  unfold Machine.crewOp
  dsimp only
  split
  · exact h.finish.setCrew
  · exact h.finish

protected theorem Keeps.execBarinit {st b n} (h : Keeps P s) : OutKeeps P (execBarinit st b n s) :=
  h.issue fun _ _ => .ite h.takeTrap h.crewOp

protected theorem Keeps.execPhint {st a b} (h : Keeps P s) : OutKeeps P (execPhint st a b s) :=
  h.issue fun _ _ => .ite h.finish h.crewOp

protected theorem Keeps.execChain {st n} (h : Keeps P s) : OutKeeps P (execChain st n s) := h.issue fun _ _ => h.finishMember

protected theorem Keeps.execEsc {st i} (h : Keeps P s) : OutKeeps P (execEsc st i s) :=
  h.issue fun _ _ => h.finish.modGroup.escalate

protected theorem Keeps.execSysrd {st d r} (h : Keeps P s) : OutKeeps P (execSysrd st d r s) := by
  unfold Machine.execSysrd
  dsimp only
  refine h.issue fun g x => ?_
  refine .ite h.waitIssue ?_
  split
  · exact h
  · exact h.finish

protected theorem Keeps.sysStore {q g n v} (h : Keeps P s) : OutKeeps P (sysStore s q g n v) :=
  .ite h.takeTrap (.ite h.waitIssue (.ite (.ite (.ite h.holdIssue h.setCore.holdIssue) h.setCore.finish) h.setGroup.withPfx))

protected theorem Keeps.sysUpdate {q a n f} (h : Keeps P s) : OutKeeps P (sysUpdate s q a n f) := by
  unfold Machine.sysUpdate
  refine h.issue fun g x => ?_
  split
  · exact h
  · exact h.sysStore

protected theorem Keeps.execIpref {st d} (h : Keeps P s) : OutKeeps P (execIpref st d s) :=
  h.issue fun _ _ => (h.foldl fun _ _ h => h.fetchLine).finish

protected theorem Keeps.execUndefinedOpcode {w} (h : Keeps P s) : OutKeeps P (execUndefinedOpcode w s) := by
  unfold Machine.execUndefinedOpcode
  split
  · trivial
  · exact h.takeTrap

protected theorem Keeps.execInstructionFetchFault {off} (h : Keeps P s) : OutKeeps P (execInstructionFetchFault off s) := by
  unfold Machine.execInstructionFetchFault
  split
  · trivial
  · exact h.takeTrap

/-! ### Events and machine checks -/

protected theorem Keeps.postEvent {part e} (h : Keeps P s) : Keeps P (s.postEvent part e) := .ite h.setPart h.vaWrite.setPart

protected theorem Keeps.packageEvent {e} (h : Keeps P s) : Keeps P (s.packageEvent e) := h.withPkg

protected theorem Keeps.groupEvent {g kind cause tpc tval info} (h : Keeps P s) :
    Keeps P (s.groupEvent g kind cause tpc tval info) := by
  unfold State.groupEvent
  split
  · exact h
  · exact h.postEvent

protected theorem Keeps.losePages {part gid fate} (h : Keeps P s) : Keeps P (s.losePages part gid fate) := h.setPart

protected theorem Keeps.loseCrewPages {core slot k} (h : Keeps P s) : Keeps P (s.loseCrewPages core slot k) :=
  h.foldl fun _ _ h => h.losePages

protected theorem Keeps.loseCorePages {core but} (h : Keeps P s) : Keeps P (s.loseCorePages core but) := by
  unfold State.loseCorePages
  refine h.foldl fun s i hs => ?_
  split
  · exact hs.loseCrewPages
  · exact hs

protected theorem Keeps.fence {core but} (h : Keeps P s) : Keeps P (s.fence core but) := h.loseCorePages.setCore

protected theorem Keeps.machineCheck {g pc lane line} (h : Keeps P s) : Keeps P (machineCheck s g pc lane line) := by
  unfold Machine.machineCheck
  dsimp only
  split
  · exact h
  · exact h.takeTrapAt.fence.postEvent.packageEvent

/-! ### Scalars -/

protected theorem Keeps.scalarOp {q d a b f} (h : Keeps P s) : OutKeeps P (scalarOp q d a b f s) := h.uniform

protected theorem Keeps.scalarOp1 {q d a f} (h : Keeps P s) : OutKeeps P (scalarOp1 q d a f s) := h.uniform

protected theorem Keeps.execSdiv {st d a b f} (h : Keeps P s) : OutKeeps P (execSdiv st d a b f s) := by
  unfold Machine.execSdiv
  dsimp only
  refine h.issue fun g x => ?_
  split
  · exact h.takeTrap
  · exact h.fresh.finish

/-! ### Memory: writes in flight, results and acquires -/

protected theorem Keeps.accPut {a b} (h : Keeps P s) : Keeps P (accPut s a b) := by
  unfold Machine.accPut
  dsimp only
  exact .ite h.setCore (.ite h.setCore h)

protected theorem Keeps.physPut {a b} (h : Keeps P s) : Keeps P (physPut s a b) :=
  .ite h.accPut (P.set a b h)

protected theorem Keeps.linePut {line bs} (h : Keeps P s) : Keeps P (linePut s line bs) := h.foldl fun _ _ h => h.physPut

protected theorem Keeps.evict {line} (h : Keeps P s) : Keeps P (s.evict line) := by
  unfold State.evict
  dsimp only
  split
  · exact h
  · exact .congr h rfl rfl

protected theorem Keeps.sliceRoom {line} (h : Keeps P s) : Keeps P (s.sliceRoom line) := by
  unfold State.sliceRoom
  dsimp only
  refine .ite h ?_
  split
  · exact h.evict
  · exact h

protected theorem Keeps.raiseExpiry {line x} (h : Keeps P s) : Keeps P (s.raiseExpiry line x) := h.sliceRoom.withLeases

protected theorem Keeps.sendWrite {part issuer w poison after} (h : Keeps P s) :
    Keeps P (sendWrite s part issuer w poison after) := by
  unfold Machine.sendWrite
  dsimp only
  split
  · exact h.withWrites.setCore
  · exact h.withWrites

protected theorem Keeps.sendOwn {gid w} (h : Keeps P s) : Keeps P (sendOwn s gid w) := h.sendWrite

protected theorem Keeps.issueWrites {gid g xs} (h : Keeps P s) : Keeps P (issueWrites s gid g xs).1 := by
  induction xs generalizing s g with
  | nil => exact h
  | cons w ws ih => exact .fst_ite (ih h) (ih h.sendOwn)

protected theorem Keeps.sendNext {gid line} (h : Keeps P s) : Keeps P (sendNext s gid line) := by
  unfold Machine.sendNext
  split
  · exact h
  · refine .ite h ?_
    split
    · exact h
    · exact .ite h h.setGroup.sendOwn

protected theorem Keeps.flushBank {gid} (h : Keeps P s) : Keeps P (flushBank s gid) := by
  unfold Machine.flushBank
  split
  · exact h.setGroup.setCore
  · exact h

protected theorem Keeps.acquireDone {gid} (h : Keeps P s) : Keeps P (acquireDone s gid) := by
  unfold Machine.acquireDone
  split
  · exact h
  · exact .ite h (.foldl (fun _ _ h => h.sendNext) (.ite h h.flushBank))

protected theorem Keeps.observe {gid g line as} (h : Keeps P s) : Keeps P (observe s gid g line as) :=
  .ite h h.withWrites.setCore

protected theorem Keeps.deliverResult {gid id} (h : Keeps P s) : Keeps P (deliverResult s gid id) := by
  unfold Machine.deliverResult
  dsimp only
  split
  · split
    · exact h
    · split
      · exact h.setGroup
      · exact h.setGroup
      · split
        · exact h.setGroup.machineCheck
        · exact h.setGroup
      · split
        · exact h.setGroup.machineCheck
        · exact h.setGroup
      · split
        · exact h.setGroup.machineCheck
        · exact .ite h.setGroup h.setGroup.takeTrapAt
      · split
        · exact h.setGroup.machineCheck
        · exact h.setGroup
      · exact h
      · exact h.setGroup.machineCheck
  · exact h

protected theorem Keeps.resultDone {gid} (h : Keeps P s) : Keeps P (resultDone s gid) := h.trapDue.acquireDone

protected theorem Keeps.deliver {gid id} (h : Keeps P s) : Keeps P (deliver s gid id) := h.deliverResult.resultDone

protected theorem Keeps.raiseCstat {gid id bits} (h : Keeps P s) : Keeps P (raiseCstat s gid id bits) := by
  unfold Machine.raiseCstat
  split
  · exact h.setGroup
  · exact h

/-! ### Lane-by-lane forms -/

protected theorem Keeps.vecMulti {q ds f} (h : Keeps P s) : OutKeeps P (vecMulti q ds f s) :=
  h.issue fun _ _ => .ite h.finish h.finish

protected theorem Keeps.vecOp {q d f} (h : Keeps P s) : OutKeeps P (vecOp q d f s) := h.vecMulti

protected theorem Keeps.withFlags {g fs} {k : Group → Out} (h : Keeps P s) (hk : ∀ g, OutKeeps P (k g)) :
    OutKeeps P (withFlags s g fs k) := by
  unfold Machine.withFlags
  split
  · exact h.takeTrap
  · exact hk _

protected theorem Keeps.flagMulti {q ds} {f : State → Group → Nat → List Word × FlagBits} (h : Keeps P s) :
    OutKeeps P (flagMulti q ds f s) :=
  h.issue fun _ _ => .ite h.finish (h.withFlags fun _ => h.finish)

protected theorem Keeps.flagOp {q d} {f : State → Group → Nat → Word × FlagBits} (h : Keeps P s) :
    OutKeeps P (flagOp q d f s) :=
  h.flagMulti

/-! ### Loads, stores, atomics and capabilities -/

protected theorem Keeps.noteTranslation {core part va write} (h : Keeps P s) :
    Keeps P (noteTranslation s core part va write) := by
  unfold Machine.noteTranslation
  dsimp only
  split
  · exact h
  · split
    · exact h.setDie
    · exact h

protected theorem Keeps.noteAccess {core part id ys write} (h : Keeps P s) : Keeps P (noteAccess s core part id ys write) :=
  .ite (h.cacheEntry.foldl fun _ _ h => h.noteTranslation) h.cacheEntry

protected theorem Keeps.refusePage {gid pc lane page} (h : Keeps P s) : Keeps P (refusePage s gid pc lane page) :=
  h.groupEvent.takeTrapAt

protected theorem Keeps.pageMiss {g miss write writes} (h : Keeps P s) : OutKeeps P (pageMiss s g miss write writes) := by
  unfold Machine.pageMiss
  split
  · exact h.refusePage
  · exact h.waitIssue

protected theorem Keeps.withAccess {g a} {k : State → Crew → List (Nat × List ByteAt) → Out} (h : Keeps P s)
    (hk : ∀ t c x, Keeps P t → OutKeeps P (k t c x)) :
    OutKeeps P (withAccess s g a k) := by
  unfold Machine.withAccess
  dsimp only
  split
  · exact h
  · refine .ite h.holdIssue ?_
    split
    · exact h.takeTrap
    · split
      · exact hk _ _ _ h.noteAccess
      · exact h.pageMiss

protected theorem Keeps.sendLoads {gid part out need xs} (h : Keeps P s) : Keeps P (sendLoads s gid part out need xs) := by
  induction xs generalizing s with
  | nil => exact h
  | cons x xs ih => exact ih h.fresh.withLoads

protected theorem Keeps.startLoad {q g part xs regs} {kind : List LaneLoad → List (Nat × BitVec 8) → List Nat → OutKind}
    (h : Keeps P s) :
    OutKeeps P (startLoad s q g part xs regs kind) :=
  .ite h.holdIssue ((h.foldl fun _ _ h => h.observe).fresh.sendLoads.finish)

protected theorem Keeps.execLd {st d c o z} (h : Keeps P s) : OutKeeps P (execLd st d c o z s) :=
  h.issue fun _ _ => .ite h.finish (h.withAccess fun _ _ _ hs1 => hs1.startLoad)

protected theorem Keeps.startStore {q g bs} (h : Keeps P s) : OutKeeps P (startStore s q g bs) :=
  .ite h.holdIssue h.withNextId.issueWrites.finish

protected theorem Keeps.execSt {st d c o z} (h : Keeps P s) : OutKeeps P (execSt st d c o z s) :=
  h.issue fun _ _ => .ite h.finish (h.withAccess fun _ _ _ hs1 => hs1.startStore)

protected theorem Keeps.execLdu {st d c i} (h : Keeps P s) : OutKeeps P (execLdu st d c i s) :=
  h.issue fun _ _ => h.withAccess fun _ _ _ hs1 => hs1.startLoad

protected theorem Keeps.execStu {st d c i} (h : Keeps P s) : OutKeeps P (execStu st d c i s) :=
  h.issue fun _ _ => h.withAccess fun _ _ _ hs1 => hs1.startStore

protected theorem Keeps.execLds {st d a i} (h : Keeps P s) : OutKeeps P (execLds st d a i s) := by
  unfold Machine.execLds
  dsimp only
  refine h.issue fun g m => ?_
  split
  · exact h
  · refine .ite h.finish (.ite h.holdIssue ?_)
    split
    · exact h.takeTrap
    · split
      · exact h.waitIssue
      · exact h.fresh.setCore.finish

protected theorem Keeps.execSts {st d a i} (h : Keeps P s) : OutKeeps P (execSts st d a i s) := by
  unfold Machine.execSts
  dsimp only
  refine h.issue fun g m => ?_
  split
  · exact h
  · refine .ite h.finish ?_
    split
    · exact h.takeTrap
    · exact .ite h.holdIssue (.ite h.finish h.setCore.crewOp)

protected theorem Keeps.sendAtoms {gid part ops xs} (h : Keeps P s) : Keeps P (sendAtoms s gid part ops xs) := by
  induction xs generalizing s with
  | nil => exact h
  | cons x xs ih => exact ih (.congr h rfl rfl)

protected theorem Keeps.memAtomic {q d v2 c o op} (h : Keeps P s) : OutKeeps P (memAtomic q d v2 c o op s) := by
  unfold Machine.memAtomic
  dsimp only
  exact h.issue fun _ _ => .ite h.finish (h.withAccess fun _ _ _ hs1 => .ite hs1.holdIssue hs1.fresh.sendAtoms.finish)

protected theorem Keeps.execAtoms {st d o f} (h : Keeps P s) : OutKeeps P (execAtoms st d o f s) := by
  unfold Machine.execAtoms
  dsimp only
  refine h.issue fun g m => ?_
  split
  · exact h
  · refine .ite h.finish (.ite h.holdIssue ?_)
    split
    · exact h.takeTrap
    · exact h.fresh.setCore.finish

protected theorem Keeps.execWaitm {st d c i} (h : Keeps P s) : OutKeeps P (execWaitm st d c i s) :=
  h.issue fun _ _ => .ite h.takeTrap (h.withAccess fun _ _ _ hs1 => hs1.fresh.finish)

protected theorem Keeps.withCapAccess {g c i r} {k : State → Crew → List ByteAt → Out} (h : Keeps P s)
    (hk : ∀ t c x, Keeps P t → OutKeeps P (k t c x)) :
    OutKeeps P (withCapAccess s g c i r k) := by
  unfold Machine.withCapAccess
  dsimp only
  split
  · exact h
  · refine .ite h.holdIssue ?_
    split
    · exact h.takeTrap
    · exact hk _ _ _ h.cacheEntry

protected theorem Keeps.execCapld {st d c i} (h : Keeps P s) : OutKeeps P (execCapld st d c i s) :=
  h.issue fun _ _ => h.withCapAccess fun _ _ _ hs1 => hs1.startLoad

protected theorem Keeps.execCapst {st d c i} (h : Keeps P s) : OutKeeps P (execCapst st d c i s) :=
  h.issue fun _ _ => h.withCapAccess fun _ _ _ hs1 => hs1.startStore

protected theorem Keeps.execCapsub {st d a b} (h : Keeps P s) : OutKeeps P (execCapsub st d a b s) :=
  h.issue fun _ _ => .ite h.takeTrap (.ite h.takeTrap (.ite h.takeTrap (.ite h.takeTrap h.finish)))

protected theorem Keeps.spillBank {core b} (h : Keeps P s) : Keeps P (spillBank s core b) :=
  h.setCore.foldl fun _ _ h => h.settleSpills

protected theorem Keeps.execBmode {st d a b} (h : Keeps P s) : OutKeeps P (execBmode st d a b s) :=
  h.issue fun _ _ => .ite h.holdIssue (.ite h.finish (.ite (Keeps.holdIssue (.setCore (.ite h h.setCore))) (Keeps.ite
    (.placementPass (.finish (.setCore (.bankPoison (.ite (.ite h h.setCore) (.spillBank (.ite h h.setCore))))))) (.finish
    (.setCore (.bankPoison (.ite (.ite h h.setCore) (.spillBank (.ite h h.setCore)))))))))

/-! ### Messages to and from memory -/

protected theorem Keeps.modLoad {id f} (h : Keeps P s) : Keeps P (s.modLoad id f) := h.withLoads

protected theorem Keeps.execHomeLoad {msg} (h : Keeps P s) : OutKeeps P (execHomeLoad msg s) := by
  unfold Machine.execHomeLoad
  dsimp only
  split
  · trivial
  · exact .ite trivial (Keeps.modLoad (.ite h h.raiseExpiry))

protected theorem Keeps.execGatewayLoad {msg} (h : Keeps P s) : OutKeeps P (execGatewayLoad msg s) := by
  unfold Machine.execGatewayLoad
  dsimp only
  split
  · trivial
  · refine .ite trivial ?_
    split
    · exact .ite h.modLoad h.modLoad
    · exact h.modLoad

protected theorem Keeps.execGatewayFillResponse {msg} (h : Keeps P s) : OutKeeps P (execGatewayFillResponse msg s) := by
  unfold Machine.execGatewayFillResponse
  dsimp only
  split
  · trivial
  · exact .ite h.modLoad h.withGateways.modLoad

protected theorem Keeps.gatewayDrop {i line} (h : Keeps P s) : Keeps P (gatewayDrop s i line) := h.withGateways

protected theorem Keeps.installFill {m} (h : Keeps P s) : Keeps P (installFill s m) := .ite h h.setCore

protected theorem Keeps.deliverIfDone {gid out} (h : Keeps P s) : Keeps P (deliverIfDone s gid out) := by
  unfold Machine.deliverIfDone
  split
  · exact h
  · split
    · exact .ite h.deliver h
    · exact h

protected theorem Keeps.loadArrives {m} (h : Keeps P s) : Keeps P (loadArrives s m) :=
  .ite h.modLoad h.withLoads.installFill.modGroup.deliverIfDone

protected theorem Keeps.ghostBack {part issuer line id gwct} (h : Keeps P s) :
    Keeps P (ghostBack s part issuer line id gwct) := by
  unfold Machine.ghostBack
  dsimp only
  split
  · exact h
  · split
    · exact h
    · split
      · exact h.withGhosts
      · exact h.sendWrite.withGhosts

protected theorem Keeps.atomArrives {a} (h : Keeps P s) : Keeps P (atomArrives s a) := by
  unfold Machine.atomArrives
  dsimp only
  split
  · exact h.withAtoms.modGroup.deliverIfDone.sendNext
  · exact h.withAtoms.ghostBack
  · split
    · exact .ite h.withAtoms.setCore.raiseCstat h.withAtoms.setCore
    · exact h.withAtoms.setCore
  · exact h.withAtoms

protected theorem Keeps.execLoadResponse {msg} (h : Keeps P s) : OutKeeps P (execLoadResponse msg s) := by
  unfold Machine.execLoadResponse
  split
  · exact h.loadArrives
  · split
    · exact h.atomArrives
    · split
      · exact h.deliver
      · trivial

protected theorem Keeps.execVariableLatencyResult {core slot grp result} (h : Keeps P s) :
    OutKeeps P (execVariableLatencyResult core slot grp result s) := by
  unfold Machine.execVariableLatencyResult
  split
  · trivial
  · exact .ite h.deliver trivial

protected theorem Keeps.modWrite {id f} (h : Keeps P s) : Keeps P (s.modWrite id f) := h.withWrites

protected theorem Keeps.modAtom {id f} (h : Keeps P s) : Keeps P (s.modAtom id f) := h.withAtoms

protected theorem Keeps.aerPoison {yes} (h : Keeps P s) : Keeps P (aerPoison s yes) := .ite h.withPkg h

protected theorem Keeps.corePerformed {m ver} (h : Keeps P s) : Keeps P (corePerformed s m ver) := by
  unfold Machine.corePerformed
  split
  · exact h.setCore
  · exact h

protected theorem Keeps.atomPerformed {m ver} (h : Keeps P s) : Keeps P (atomPerformed s m ver) := by
  unfold Machine.atomPerformed
  dsimp only
  split
  · exact h.setCore
  · exact h

protected theorem Keeps.performWrite {m} (h : Keeps P s) : Keeps P (performWrite s m) :=
  h.linePut.newVers.withPoison.aerPoison.corePerformed.modWrite

protected theorem Keeps.atomOps {xs} (h : Keeps P s) : Keeps P (atomOps s xs).1 := by
  induction xs generalizing s with
  | nil => exact h
  | cons x xs ih => exact ih (h.foldl fun _ _ h => h.physPut)

protected theorem Keeps.performAtom {m} (h : Keeps P s) : Keeps P (performAtom s m) :=
  h.atomOps.newVers.atomPerformed.withPoison.aerPoison.modAtom

protected theorem Keeps.holdPort {port line} (h : Keeps P s) : Keeps P (s.holdPort port line) := .ite h h.withPortLines

protected theorem Keeps.leavePort {port line id} (h : Keeps P s) : Keeps P (s.leavePort port line id) := .ite h h.withPortLines

protected theorem Keeps.execHomeWrite {msg} (h : Keeps P s) : OutKeeps P (execHomeWrite msg s) := by
  unfold Machine.execHomeWrite
  split
  · trivial
  · exact .ite trivial (.ite h.holdPort.modWrite (.ite h.modWrite h.performWrite))

protected theorem Keeps.execHomeAtomic {msg} (h : Keeps P s) : OutKeeps P (execHomeAtomic msg s) := by
  unfold Machine.execHomeAtomic
  split
  · trivial
  · exact .ite trivial (.ite h.holdPort.modAtom (.ite h.modAtom h.performAtom))

protected theorem Keeps.execBackInvalidationResponse {msg}
    (h : Keeps P s) : OutKeeps P (execBackInvalidationResponse msg s) := by
  unfold Machine.execBackInvalidationResponse
  split
  · exact .ite trivial h.withHostCopies.performWrite
  · split
    · exact h.withHostCopies.performAtom
    · trivial

protected theorem Keeps.execCxlCacheGloballyObserved {msg}
    (h : Keeps P s) : OutKeeps P (execCxlCacheGloballyObserved msg s) := by
  unfold Machine.execCxlCacheGloballyObserved
  split
  · exact .ite trivial h.leavePort.performWrite
  · split
    · exact h.leavePort.performAtom
    · trivial

protected theorem Keeps.jobAck {m} (h : Keeps P s) : Keeps P (jobAck s m) := by
  unfold Machine.jobAck
  dsimp only
  split
  · exact h.setCore
  · exact h.setCore
  · exact h

protected theorem Keeps.execStoreAck {msg} (h : Keeps P s) : OutKeeps P (execStoreAck msg s) := by
  unfold Machine.execStoreAck
  dsimp only
  split
  · trivial
  · split
    · exact h.withWrites.modGroup.sendNext
    · exact h.withWrites.ghostBack
    · exact h.withWrites.jobAck

protected theorem Keeps.execCoreCacheLineDrop {core line} (h : Keeps P s) : OutKeeps P (execCoreCacheLineDrop core line s) :=
  .ite h.setCore trivial

protected theorem Keeps.sendPageGroup {part owner name ctx job out lanes pages n t} (h : Keeps P s)
    (e : sendPageGroup s part owner name ctx job out lanes pages = some (n, t)) : Keeps P t := by
  unfold Machine.sendPageGroup at e
  dsimp only at e
  split at e
  · cases e
  · split at e
    · cases e
    · cases e
      exact h.setPart

protected theorem Keeps.sendJobPages {part owner name ctx job miss n t} (h : Keeps P s)
    (e : sendJobPages s part owner name ctx job miss = some (n, t)) : Keeps P t := by
  unfold Machine.sendJobPages at e
  dsimp only at e
  split at e
  · cases e
  · exact h.sendPageGroup e

protected theorem Keeps.groupPages {part gid out lanes pages n t} (h : Keeps P s)
    (e : groupPages s part gid out lanes pages = some (n, t)) : Keeps P t := by
  unfold Machine.groupPages at e
  split at e
  · exact h.sendPageGroup e
  · cases e

protected theorem Keeps.waitmMiss {gid part page g o w} (h : Keeps P s) : OutKeeps P (waitmMiss s gid part page g o w) := by
  unfold Machine.waitmMiss
  dsimp only
  refine .ite h.setGroup.refusePage.resultDone (.ite h.setGroup.takeTrapAt.resultDone ?_)
  split
  · trivial
  · exact (h.groupPages ‹_›).modGroup

protected theorem Keeps.waitmReads {gid part g o w as} (h : Keeps P s) : Keeps P (waitmReads s gid part g o w as) := by
  unfold Machine.waitmReads
  dsimp only
  split
  · exact h.setGroup.machineCheck.resultDone
  · exact (h.foldl fun _ _ h => h.observe).noteAccess.setGroup.resultDone

protected theorem Keeps.execWaitmPoll {core slot grp} (h : Keeps P s) : OutKeeps P (execWaitmPoll core slot grp s) := by
  unfold Machine.execWaitmPoll
  dsimp only
  split
  · split
    · trivial
    · split
      · exact h.waitmMiss
      · exact .ite h.setGroup.takeTrapAt.resultDone h.waitmReads
  · trivial

protected theorem Keeps.execWaitgtDeadline {core slot grp}
    (h : Keeps P s) : OutKeeps P (execWaitgtDeadline core slot grp s) := by
  unfold Machine.execWaitgtDeadline
  split
  · split
    · exact .ite h.setGroup trivial
    · trivial
  · trivial

protected theorem Keeps.execWatchdog {core slot grp} (h : Keeps P s) : OutKeeps P (execWatchdog core slot grp s) := by
  unfold Machine.execWatchdog
  dsimp only
  split
  · exact .ite h.takeTrapAt.groupEvent trivial
  · trivial

protected theorem Keeps.execIssueStarvation {core slot grp} (h : Keeps P s) :
    OutKeeps P (execIssueStarvation core slot grp s) := by
  unfold Machine.execIssueStarvation
  split
  · exact .ite h.setGroup trivial
  · trivial

protected theorem Keeps.requestPages {gid} (h : Keeps P s) : Keeps P (requestPages s gid) := by
  unfold Machine.requestPages
  dsimp only
  split
  · split
    · refine .ite h.takeTrapAt ?_
      split
      · exact h
      · exact (h.groupPages ‹_›).setGroup
    · exact h
  · exact h

protected theorem Keeps.servePages (h : Keeps P s) : Keeps P (servePages s) :=
  h.foldl fun _ _ h => h.requestPages

protected theorem Keeps.waitmAnswer {part pg g out code} (h : Keeps P s) : Keeps P (waitmAnswer s part pg g out code) := by
  unfold Machine.waitmAnswer
  split
  · exact h
  · exact .ite h.setGroup h.setGroup.refusePage.resultDone

protected theorem Keeps.pageAnswer {part pg code} (h : Keeps P s) : Keeps P (pageAnswer s part pg code) := by
  unfold Machine.pageAnswer
  dsimp only
  split
  · exact h
  · split
    · exact h.waitmAnswer
    · exact .ite h (.ite h.setGroup h.refusePage)

protected theorem Keeps.jobAnswer {part pg job code} (h : Keeps P s) : Keeps P (jobAnswer s part pg job code) :=
  .foldl (fun _ _ h => h.postEvent) (.ite h.setCore (h.setCore.foldl fun _ _ h => h.raiseCstat))

protected theorem Keeps.execPageResponse {part index code frames} (h : Keeps P s) :
    OutKeeps P (execPageResponse part index code frames s) := by
  unfold Machine.execPageResponse
  dsimp only
  split
  · trivial
  · refine Keeps.servePages ?_
    split
    · exact .jobAnswer (.ite h.withHostPages.setPart.postEvent h.withHostPages.setPart)
    · exact .ite (.pageAnswer (.ite h.withHostPages.setPart.postEvent h.withHostPages.setPart)) (.ite
        h.withHostPages.setPart.postEvent h.withHostPages.setPart)

protected theorem Keeps.execAtsInvalidation {part va pages} (h : Keeps P s) :
    OutKeeps P (execAtsInvalidation part va pages s) :=
  .ite trivial (Keeps.congr h rfl rfl)

/-! ### Copy jobs -/

protected theorem Keeps.addJob {q g k j} (h : Keeps P s) : OutKeeps P (addJob s q g k j) := by
  unfold Machine.addJob
  dsimp only
  refine .ite h.holdIssue ?_
  split
  · exact h.finish
  · exact h.fresh.setCore.finish

protected theorem Keeps.jobInstr {q f} (h : Keeps P s) : OutKeeps P (jobInstr q s f) := by
  unfold Machine.jobInstr
  dsimp only
  refine h.issue fun g x => ?_
  split
  · exact h
  · refine .ite h.holdIssue ?_
    split
    · exact h.takeTrap
    · exact (h.foldl fun _ _ h => h.cacheEntry).addJob

protected theorem Keeps.linearJob {q a c d r rs mk} (h : Keeps P s) : OutKeeps P (linearJob q a c d r rs mk s) := by
  unfold Machine.linearJob
  dsimp only
  exact h.jobInstr

protected theorem Keeps.execCpyt {st a c d l r} (h : Keeps P s) : OutKeeps P (execCpyt st a c d l r s) := by
  unfold Machine.execCpyt
  dsimp only
  exact h.jobInstr

protected theorem Keeps.execCpym {st a c o r} (h : Keeps P s) : OutKeeps P (execCpym st a c o r s) := by
  unfold Machine.execCpym
  dsimp only
  exact h.jobInstr

protected theorem Keeps.execCpyg {st a c f} (h : Keeps P s) : OutKeeps P (execCpyg st a c f s) := by
  unfold Machine.execCpyg
  dsimp only
  exact h.jobInstr

protected theorem Keeps.execCpys {st a c f} (h : Keeps P s) : OutKeeps P (execCpys st a c f s) := by
  unfold Machine.execCpys
  dsimp only
  exact h.jobInstr

protected theorem Keeps.tryCwait {gid} (h : Keeps P s) : Keeps P (tryCwait s gid) := by
  unfold Machine.tryCwait
  split
  · exact h
  · split
    · exact .ite h.setGroup h
    · exact h

protected theorem Keeps.execCtoken {st c a b f} (h : Keeps P s) : OutKeeps P (execCtoken st c a b f s) := by
  unfold Machine.execCtoken
  dsimp only
  exact h.jobInstr

protected theorem Keeps.execBotest {st d n} (h : Keeps P s) : OutKeeps P (execBotest st d n s) :=
  h.issue fun _ _ => h.fresh.crewOp

protected theorem Keeps.putScratch {core granules ws} (h : Keeps P s) : Keeps P (putScratch s core granules ws) :=
  h.setCore.withPoison

protected theorem Keeps.applyMoves {core part issuer granules ms} (h : Keeps P s) :
    Keeps P (applyMoves s core part issuer granules ms).2 :=
  h.putScratch.withNextId.foldl fun _ _ h => h.sendWrite

protected theorem Keeps.modJob {core id f} (h : Keeps P s) : Keeps P (s.modJob core id f) := h.setCore

protected theorem Keeps.runMoves {core j} (h : Keeps P s) : Keeps P (runMoves s core j) :=
  h.withFree.applyMoves.raiseCstat.modJob

protected theorem Keeps.sendReduce {core part id op ws xs} (h : Keeps P s) :
    Keeps P (sendReduce s core part id op ws xs) := by
  induction xs generalizing s with
  | nil => exact h
  | cons x xs ih => exact ih h.fresh.withAtoms

protected theorem Keeps.runReduce {core j src dst len op} (h : Keeps P s) : Keeps P (runReduce s core j src dst len op) := by
  unfold Machine.runReduce
  extract_lets f ws scr mem c1 oldBad marks s1 ls s2 s3
  have h1 : Keeps P s1 := h.setCore.withFree.withPoison
  exact .modJob (.raiseCstat (.sendReduce h1))

protected theorem Keeps.sendCasts {core j dst obj xs} (h : Keeps P s) : Keeps P (sendCasts s core j dst obj xs) := by
  induction xs generalizing s with
  | nil => exact h
  | cons x xs ih => exact ih h.fresh.withCasts

protected theorem Keeps.runMulticast {core j src dst len peers obj} (h : Keeps P s) :
    Keeps P (runMulticast s core j src dst len peers obj) :=
  h.sendCasts.raiseCstat.modJob

protected theorem Keeps.runToken {core j obj off val size} (h : Keeps P s) : Keeps P (runToken s core j obj off val size) :=
  h.applyMoves.modJob

protected theorem Keeps.runJob {core j} (h : Keeps P s) : Keeps P (runJob s core j) := by
  unfold Machine.runJob
  split
  · exact h.runMulticast
  · exact h.runReduce
  · exact h.runToken
  · exact h.runMoves

protected theorem Keeps.refuseJobPages {core j pages} (h : Keeps P s) : Keeps P (refuseJobPages s core j pages) :=
  h.modJob.raiseCstat.foldl fun _ _ h => h.postEvent

protected theorem Keeps.execJobStart {core job} (h : Keeps P s) : OutKeeps P (execJobStart core job s) := by
  unfold Machine.execJobStart
  split
  · trivial
  · refine .ite trivial ?_
    split
    · exact h.runJob
    · refine .ite h.refuseJobPages ?_
      split
      · trivial
      · exact (h.sendJobPages ‹_›).modJob

protected theorem Keeps.drainUntil {launch gwct} (h : Keeps P s) : Keeps P (drainUntil s launch gwct) := h.modLaunch

protected theorem Keeps.tellGroup {gid id gwct} (h : Keeps P s) : Keeps P (tellGroup s gid id gwct) := by
  unfold Machine.tellGroup
  split
  · exact h.setGroup.tryCwait
  · exact h

protected theorem Keeps.tellTokens {core id gwct} (h : Keeps P s) : Keeps P (tellTokens s core id gwct) := h.setCore

protected theorem Keeps.jobFinish {core j} (h : Keeps P s) : Keeps P (jobFinish s core j) :=
  h.setCore.tellTokens.drainUntil.tellGroup

protected theorem Keeps.execJobComplete {core job} (h : Keeps P s) : OutKeeps P (execJobComplete core job s) := by
  unfold Machine.execJobComplete
  split
  · exact .ite h.jobFinish trivial
  · trivial

protected theorem Keeps.castDone {m} (h : Keeps P s) : Keeps P (castDone s m) := h.withCasts.modJob

protected theorem Keeps.execMulticastDelivery {msg} (h : Keeps P s) : OutKeeps P (execMulticastDelivery msg s) := by
  unfold Machine.execMulticastDelivery
  dsimp only
  split
  · trivial
  · split
    · split
      · exact h.raiseCstat.castDone
      · exact h.castDone
    · refine .ite ?_ ?_
      · split
        · exact h.raiseCstat.castDone
        · exact h.castDone
      · split
        · split
          · split
            · exact h.raiseCstat.castDone
            · exact h.castDone
          · exact h.putScratch.setCrew.castDone
        · split
          · exact h.modLaunch.castDone
          · trivial

protected theorem Keeps.execGlobalWriteCompletionTimeReached {core slot grp} (h : Keeps P s) :
    OutKeeps P (execGlobalWriteCompletionTimeReached core slot grp s) := by
  unfold Machine.execGlobalWriteCompletionTimeReached
  dsimp only
  split
  · trivial
  · split
    · exact .ite h.tryCwait trivial
    · exact .ite h.setGroup trivial

/-! ### Matrix jobs -/

protected theorem Keeps.execMlay {st n a} (h : Keeps P s) : OutKeeps P (execMlay st n a s) :=
  h.issue fun _ _ => .ite h.takeTrap (.ite h.takeTrap (.ite h.takeTrap h.finish))

protected theorem Keeps.execMgang {st a} (h : Keeps P s) : OutKeeps P (execMgang st a s) := by
  unfold Machine.execMgang
  dsimp only
  refine h.issue fun g x => ?_
  split
  · exact h
  · exact .ite h.takeTrap h.finish

protected theorem Keeps.trapFailure {cause tval} (h : Keeps P s) : Keeps P (trapFailure s cause tval) :=
  .ite h.takeTrap.setCore h.takeTrap

protected theorem Keeps.addMat {core slot k owners pc kind reads writes} (h : Keeps P s) :
    Keeps P (addMat s core slot k owners pc kind reads writes) :=
  h.fresh.setCore.foldl fun _ _ h => h.modGroup

protected theorem Keeps.soloMma {q g k x t} (h : Keeps P s) : OutKeeps P (soloMma s q g k x t) :=
  .ite h.holdIssue h.finish.addMat

protected theorem Keeps.gangRetire {core slot x ts p} (h : Keeps P s) : Keeps P (gangRetire s core slot x ts p) := h.modGroup

protected theorem Keeps.handOver {core slot k y} (h : Keeps P s) : Keeps P (handOver s core slot k y) := by
  unfold Machine.handOver
  dsimp only
  refine .addMat ?_
  split
  · exact (h.foldl fun _ _ h => h.gangRetire).setCrew
  · exact h.foldl fun _ _ h => h.gangRetire

protected theorem Keeps.gangMma {q g k x t} (h : Keeps P s) : OutKeeps P (gangMma s q g k x t) := by
  unfold Machine.gangMma
  dsimp only
  refine .ite h.holdIssue ?_
  split
  · exact h.trapFailure
  · refine .ite h.setGroup.withPfx.handOver ?_
    split
    · exact h.setGroup.withPfx.setCrew
    · exact h.setGroup.withPfx

protected theorem Keeps.matrixOp {word op st tile va lay pattern reuse} (h : Keeps P s) :
    OutKeeps P (matrixOp word op st tile va lay pattern reuse s) := by
  unfold Machine.matrixOp
  dsimp only
  refine h.issue fun g m => ?_
  split
  · exact h
  · refine .ite h.finish ?_
    refine .ite h.takeTrap (.ite h.waitIssue ?_)
    refine .ite (.ite h.holdIssue h.gangMma) (.ite h.takeTrap ?_)
    refine .ite h.holdIssue (.ite h.holdIssue ?_)
    split
    · exact h.trapFailure
    · exact .ite h.soloMma h.gangMma

protected theorem Keeps.matInstr {q tiles f} (h : Keeps P s) : OutKeeps P (matInstr q tiles s f) := by
  unfold Machine.matInstr
  dsimp only
  refine h.issue fun g x => ?_
  split
  · exact h
  · refine .ite h.holdIssue ?_
    split
    · exact h.trapFailure
    · exact .ite h.holdIssue ((h.foldl fun _ _ h => h.cacheEntry).finish.addMat)

protected theorem Keeps.execAccz {st t n} (h : Keeps P s) : OutKeeps P (execAccz st t n s) := .ite h.takeTrap h.matInstr

protected theorem Keeps.execAccld {st a c l f} (h : Keeps P s) : OutKeeps P (execAccld st a c l f s) := by
  unfold Machine.execAccld
  dsimp only
  exact h.matInstr

protected theorem Keeps.execAccst {st a c l r x f} (h : Keeps P s) : OutKeeps P (execAccst st a c l r x f s) := by
  unfold Machine.execAccst
  dsimp only
  exact h.matInstr

protected theorem Keeps.execAccalloc {st d n p} (h : Keeps P s) : OutKeeps P (execAccalloc st d n p s) := by
  unfold Machine.execAccalloc
  dsimp only
  refine h.issue fun g x => ?_
  split
  · exact h
  · split <;> exact h.fresh.setCore.finish

protected theorem Keeps.execAccfree {st a n} (h : Keeps P s) : OutKeeps P (execAccfree st a n s) := by
  unfold Machine.execAccfree
  dsimp only
  refine h.issue fun g x => ?_
  split
  · exact h
  · refine .ite h.holdIssue ?_
    split
    · exact h.trapFailure
    · exact .ite h.holdIssue h.setCore.finish

protected theorem Keeps.modMat {core id f} (h : Keeps P s) : Keeps P (s.modMat core id f) := h.setCore

protected theorem Keeps.addConflicts {core j n} (h : Keeps P s) : Keeps P (addConflicts s core j n) := by
  unfold Machine.addConflicts
  dsimp only
  split
  · exact h
  · split
    · exact h.setGroup
    · exact h

protected theorem Keeps.runMat {core j} (h : Keeps P s) : Keeps P (runMat s core j) := by
  unfold Machine.runMat
  dsimp only
  split
  · exact .modMat (.addConflicts (.ite h.setCore h.setCore.withFree))
  · exact h.setCore.modMat
  · exact h.setCore.modMat
  · exact h.applyMoves.modMat

protected theorem Keeps.refuseMatPages {core j pages} (h : Keeps P s) : Keeps P (refuseMatPages s core j pages) :=
  (h.modMat.foldl fun _ _ h => h.raiseCstat).foldl fun _ _ h => h.postEvent

protected theorem Keeps.lateCheck {core j lane line} (h : Keeps P s) : Keeps P (lateCheck s core j lane line) :=
  h.fence.postEvent.packageEvent

protected theorem Keeps.poisonedMat {core j line} (h : Keeps P s) : Keeps P (poisonedMat s core j line) := by
  unfold Machine.poisonedMat
  dsimp only
  split
  · exact h.modMat.machineCheck
  · exact h.modMat.lateCheck

protected theorem Keeps.execMatrixJobStart {core job} (h : Keeps P s) : OutKeeps P (execMatrixJobStart core job s) := by
  unfold Machine.execMatrixJobStart
  dsimp only
  split
  · trivial
  · refine .ite trivial ?_
    split
    · split
      · exact h.poisonedMat
      · exact h.runMat
    · refine .ite h.refuseMatPages ?_
      split
      · trivial
      · exact (h.sendJobPages ‹_›).modMat

protected theorem Keeps.execMatrixJobComplete {core job} (h : Keeps P s) : OutKeeps P (execMatrixJobComplete core job s) := by
  unfold Machine.execMatrixJobComplete
  dsimp only
  split
  · trivial
  · exact .ite trivial (h.setCore.tellTokens.drainUntil.foldl fun _ _ h => h.tellGroup)

protected theorem Keeps.execAccownTakeEffect {core region}
    (h : Keeps P s) : OutKeeps P (execAccownTakeEffect core region s) := by
  unfold Machine.execAccownTakeEffect
  dsimp only
  split
  · trivial
  · refine .ite trivial ?_
    split
    · exact h.setCore
    · exact h.setCore.modGroup

/-! ### Floats -/

protected theorem Keeps.chainOp {q d rs op} (h : Keeps P s) : OutKeeps P (chainOp q d rs op s) :=
  h.issue fun _ _ => .ite (.ite h.finishMember (h.withFlags fun _ => h.finishMember)) (.ite h.finish (h.withFlags fun _ =>
    h.finish))

protected theorem Keeps.minMaxOp {w op st d a b less} (h : Keeps P s) : OutKeeps P (minMaxOp w op st d a b less s) := h.flagOp

protected theorem Keeps.floatCompare {w op st p c a b} (h : Keeps P s) : OutKeeps P (floatCompare w op st p c a b s) :=
  h.issue fun _ _ => .ite h.finish (h.withFlags fun _ => h.finish)

protected theorem Keeps.flagOut {q ds} {f : State → Group → Nat → List Word × FlagBits} (h : Keeps P s) :
    OutKeeps P (flagOut q ds f s) :=
  h.issue fun _ _ => .ite h.finish (h.withFlags fun _ => h.fresh.finish)

protected theorem Keeps.floatOut {q d} {f : State → Group → Nat → Word × FlagBits} (h : Keeps P s) :
    OutKeeps P (floatOut q d f s) :=
  h.flagOut

protected theorem Keeps.execTblev {st d a t} (h : Keeps P s) : OutKeeps P (execTblev st d a t s) :=
  h.issue fun _ _ => .ite h.finish (.ite h.holdIssue (h.withFlags fun _ => h.finish))

protected theorem Keeps.execTblld {st a b t} (h : Keeps P s) : OutKeeps P (execTblld st a b t s) := by
  unfold Machine.execTblld
  dsimp only
  refine h.issue fun g m => ?_
  refine .ite h.finish (.ite h.takeTrap ?_)
  refine .ite h.takeTrap (.ite h.holdIssue ?_)
  split
  · exact h.machineCheck
  · exact .ite (.ite h.takeTrap h.finish) (.ite h.holdIssue h.setCore.finish)

protected theorem Keeps.execTblsw {st t} (h : Keeps P s) : OutKeeps P (execTblsw st t s) :=
  h.issue fun _ _ => .ite h.finish h.setCore.finish

protected theorem Keeps.execTableSwap {core table} (h : Keeps P s) : OutKeeps P (execTableSwap core table s) :=
  .ite trivial h.setCore

protected theorem Keeps.execCvt {st d a t r} (h : Keeps P s) : OutKeeps P (execCvt st d a t r s) := by
  unfold Machine.execCvt
  dsimp only
  exact h.flagMulti

protected theorem Keeps.dotOp {w op st types d a b} (h : Keeps P s) : OutKeeps P (dotOp w op st types d a b s) := h.flagOp

/-! ### Modular arithmetic -/

protected theorem Keeps.modOp {w op st min d rs f} (h : Keeps P s) : OutKeeps P (modOp w op st min d rs f s) := by
  unfold Machine.modOp
  dsimp only
  exact h.flagMulti

protected theorem Keeps.pairOp {w op st min ds rs f} (h : Keeps P s) : OutKeeps P (pairOp w op st min ds rs f s) := h.vecMulti

protected theorem Keeps.execGetq {st w} (h : Keeps P s) : OutKeeps P (execGetq st w s) := by
  unfold Machine.execGetq
  dsimp only
  exact h.vecMulti

protected theorem Keeps.execMshoup {st d a} (h : Keeps P s) : OutKeeps P (execMshoup st d a s) := by
  unfold Machine.execMshoup
  dsimp only
  exact h.flagOut

/-! ### Windows, posts and slates -/

protected theorem Keeps.endSlates {g kind how e} (h : Keeps P s) : Keeps P (endSlates s g kind how e).1 := by
  unfold Machine.endSlates
  split
  · exact .wakeSlots (.modDormer (h.foldl fun _ _ h => h.modDormer))
  · exact h

protected theorem Keeps.leaveLanes {q g e} {k : State → Group → State × Group} (h : Keeps P s)
    (hk : ∀ t g, Keeps P t → Keeps P (k t g).1) :
    OutKeeps P (leaveLanes s q g e k) :=
  .ite h.waitIssue (.ite ((hk _ _ h).resumeOrRetire) ((hk _ _ h).finish))

protected theorem Keeps.endWake {q how node} (h : Keeps P s) : OutKeeps P (endWake q how node s) := by
  unfold Machine.endWake
  dsimp only
  refine h.issue fun g m => ?_
  refine .ite h.finish ?_
  split
  · exact .ite h.takeTrap (.ite h.holdIssue (h.leaveLanes fun _ _ hs => hs))
  · refine .ite h.holdIssue ?_
    split
    · exact .ite (h.modDormer.modGroup.leaveLanes fun _ _ hs => hs.endSlates) h.modDormer.modGroup.waitIssue
    · exact h.leaveLanes fun _ _ hs => hs

protected theorem Keeps.execExit {st} (h : Keeps P s) : OutKeeps P (execExit st s) := by
  refine h.issue fun g0 _ => ?_
  split
  · exact h.waitIssue
  · have hl : OutKeeps P (leaveLanes s { word := encode (.exit st), op := 0x0C, st := st.toNat } g0.drain g0.drain.regs.act
        fun s g => match g.windowWake with
          | some kind => endSlates s g kind .exits g0.drain.regs.act
          | none => (s, g)) := by
      refine h.leaveLanes fun s g hs => ?_
      split
      · exact hs.endSlates
      · exact hs
    dsimp only
    split
    · rename_i heq
      exact (hl.keeps heq).modGroup
    · exact hl

protected theorem Keeps.execWinfo {st d p} (h : Keeps P s) : OutKeeps P (execWinfo st d p s) :=
  h.issue fun _ _ => .ite h.finish (.ite h.takeTrap h.fresh.finish)

protected theorem Keeps.execWmark {st d} (h : Keeps P s) : OutKeeps P (execWmark st d s) := by
  unfold Machine.execWmark
  dsimp only
  refine h.issue fun g x => ?_
  split
  · exact h.takeTrap
  · exact h.fresh.finish

protected theorem Keeps.execWext {st a} (h : Keeps P s) : OutKeeps P (execWext st a s) := by
  unfold Machine.execWext
  dsimp only
  refine h.issue fun g m => ?_
  refine .ite h.finish (.ite h.takeTrap ?_)
  split
  · refine Keeps.finish ?_
    refine h.foldl fun s l hs => ?_
    split
    · exact hs
    · exact hs.modDormer
  · exact h.finish

protected theorem Keeps.sendRecord {gid part waits r} (h : Keeps P s) : Keeps P (sendRecord s gid part waits r).2 := by
  unfold Machine.sendRecord
  dsimp only
  split
  · exact h.fresh.withRecs.modLaunch
  · exact h.fresh.withRecs

protected theorem Keeps.postPlain {gid part xs} (h : Keeps P s) : Keeps P (postPlain gid part xs s).1 := by
  induction xs generalizing s with
  | nil => exact h
  | cons x xs ih => exact .fst_ite (ih h.sendRecord) h

protected theorem Keeps.postDone {gid p} (h : Keeps P s) : Keeps P (postDone s gid p) := by
  unfold Machine.postDone
  dsimp only
  split
  · exact h
  · split
    · exact h.setGroup.takeTrapAt
    · exact h.setGroup

protected theorem Keeps.advancePost {gid part p} (h : Keeps P s) : Keeps P (advancePost s gid part p) := by
  unfold Machine.advancePost
  dsimp only
  refine .ite ?_ (.ite h.postPlain.postDone h.postPlain.modGroup)
  split
  · exact h.modGroup
  · exact h.postDone
  · exact .ite h.sendRecord.modGroup h.modGroup

protected theorem Keeps.servePosts {core} (h : Keeps P s) : Keeps P (servePosts s core) := by
  unfold Machine.servePosts
  refine h.foldl fun s x hs => ?_
  split
  · exact hs
  · refine hs.foldl fun s y hs => ?_
    split
    · exact .ite hs hs.advancePost
    · exact hs

protected theorem Keeps.startPost {q g ord tl va rs} (h : Keeps P s) : OutKeeps P (startPost s q g ord tl va rs) := by
  unfold Machine.startPost
  dsimp only
  split
  · exact h
  · refine .ite h.holdIssue ?_
    split
    · exact h.takeTrap
    · exact .ite h.withFree.finish h.setGroup.withPfx.advancePost

protected theorem Keeps.execWemit {st d t k} (h : Keeps P s) : OutKeeps P (execWemit st d t k s) := by
  unfold Machine.execWemit
  dsimp only
  exact h.issue fun _ _ => .ite h.finish (.ite h.takeTrap h.startPost)

protected theorem Keeps.execRpost {st d a m} (h : Keeps P s) : OutKeeps P (execRpost st d a m s) :=
  h.issue fun _ _ => .ite h.finish h.startPost

protected theorem Keeps.binPosts {gid part xs t} (h : Keeps P s) (e : binPosts gid part xs s = some t) : Keeps P t := by
  induction xs generalizing s with
  | nil => exact Option.some.inj e ▸ h
  | cons x xs ih =>
    unfold Machine.binPosts at e
    split at e
    · exact ih h.groupEvent e
    · split at e
      · cases e
      · exact ih h.setPart.modLaunch e

protected theorem Keeps.execBpost {st d a} (h : Keeps P s) : OutKeeps P (execBpost st d a s) := by
  unfold Machine.execBpost
  dsimp only
  refine h.issue fun g m => ?_
  split
  · exact h
  · refine .ite h.finish ?_
    refine .ite h.holdIssue (.ite h.finish ?_)
    split
    · exact h.holdIssue
    · exact (h.withFree.binPosts ‹_›).finish

end Sys2Proof.Machine
end

section
/-! SUPPORT. What the steps of the device keep: launches, queues, records, hosts, firmware and the network. -/

namespace Sys2Proof.Machine

open Sys2Proof

variable {P : MemInv} {s : State}

/-! ### Launches and counters -/

protected theorem Keeps.wakeCounters {part} (h : Keeps P s) : Keeps P (wakeCounters s part) := by
  unfold Machine.wakeCounters
  refine h.foldl fun s gid hs => ?_
  split
  · split
    · exact .ite hs.setGroup hs
    · exact hs
  · exact hs

protected theorem Keeps.counterSet {part id v status} (h : Keeps P s) : Keeps P (counterSet s part id v status) :=
  .ite h h.writeHdm

protected theorem Keeps.counterRaise {part ctx n bits id} (h : Keeps P s) : Keeps P (counterRaise s part ctx n bits id) :=
  .ite h.counterSet h

protected theorem Keeps.countLaunch {l own member} (h : Keeps P s) : Keeps P (countLaunch s l own member) :=
  .wakeCounters (.foldl (fun _ _ h => h.counterRaise) (.ite h.counterSet h))

protected theorem Keeps.submitLaunch {part ctx saveArea saveBytes addr cap tag x} (h : Keeps P s) :
    Keeps P (submitLaunch s part ctx saveArea saveBytes addr cap tag x).2 := by
  unfold Machine.submitLaunch
  split
  · exact Keeps.congr h.counterSet rfl rfl
  · refine .postEvent (.wakeCounters ?_)
    split
    · exact .ite h.counterSet h
    · exact h

protected theorem Keeps.retireContext {part ctx} (h : Keeps P s) : Keeps P (retireContext s part ctx) := .ite h h.setPart

protected theorem Keeps.endAside {core} (h : Keeps P s) : Keeps P (s.endAside core) := h.setCore

protected theorem Keeps.cancelLaunch {own l} (h : Keeps P s) : Keeps P (cancelLaunch s own l) := by
  unfold Machine.cancelLaunch
  dsimp only
  refine .ite h ?_
  refine .setPart ?_
  refine .foldl (fun s c hs => ?_) ?_
  · exact hs.modDormer
  · refine h.modLaunch.foldl fun s p hs => ?_
    split
    · exact hs
    · exact hs.setCrew.endAside

protected theorem Keeps.cancelLevel {part level id} (h : Keeps P s) : Keeps P (cancelLevel s part level id) :=
  .wakeCounters (.foldl (fun _ _ h => h.cancelLaunch) (.ite h.counterSet h))

protected theorem Keeps.requestPreempt {core slot} (h : Keeps P s) : Keeps P (requestPreempt s core slot) := by
  unfold Machine.requestPreempt
  split
  · exact h
  · exact .ite h h.setCrew

/-! ### Placement and priority -/

protected theorem Keeps.execWdq {st a} (h : Keeps P s) : OutKeeps P (execWdq st a s) := by
  unfold Machine.execWdq
  dsimp only
  exact h.jobInstr

protected theorem Keeps.ringWait {q r at'} (h : Keeps P s) : OutKeeps P (ringWait q s r at') := h.issue fun _ _ => h.crewOp

protected theorem Keeps.ringSignal {q r at'} (h : Keeps P s) : OutKeeps P (ringSignal q s r at') :=
  h.issue fun _ _ => .ite h.holdIssue h.crewOp

protected theorem Keeps.execCntwait {st d a f} (h : Keeps P s) : OutKeeps P (execCntwait st d a f s) := by
  unfold Machine.execCntwait
  dsimp only
  refine h.issue fun g x => ?_
  split
  · exact h
  · exact .ite h.takeTrap (.ite h.fresh.finish h.finish.modGroup)

protected theorem Keeps.execCancel {st a f} (h : Keeps P s) : OutKeeps P (execCancel st a f s) := by
  unfold Machine.execCancel
  dsimp only
  refine h.issue fun g x => ?_
  split
  · exact h
  · exact .ite h.takeTrap h.finish.cancelLevel

protected theorem Keeps.execLaunchq {st d a c} (h : Keeps P s) : OutKeeps P (execLaunchq st d a c s) := by
  unfold Machine.execLaunchq
  dsimp only
  refine h.issue fun g x => ?_
  split
  · exact h.takeTrap
  · exact h.withAccess fun _ _ _ hs1 => .ite hs1.holdIssue hs1.submitLaunch.finish

protected theorem Keeps.execWdQuery {core job} (h : Keeps P s) : OutKeeps P (execWdQuery core job s) := by
  unfold Machine.execWdQuery
  dsimp only
  split
  · trivial
  · split
    · exact .ite trivial h.putScratch.modLaunch.jobFinish
    · trivial

/-! ### Crews saved and restored -/

protected theorem Keeps.execLaunchEligible {launch} (h : Keeps P s) : OutKeeps P (execLaunchEligible launch s) := by
  unfold Machine.execLaunchEligible
  split
  · trivial
  · exact .ite h.modLaunch.placementPass trivial

protected theorem Keeps.execPriorityAging {launch} (h : Keeps P s) : OutKeeps P (execPriorityAging launch s) := by
  unfold Machine.execPriorityAging
  split
  · trivial
  · exact .ite h.modLaunch trivial

protected theorem Keeps.execEviction {core slot} (h : Keeps P s) : OutKeeps P (execEviction core slot s) := by
  unfold Machine.execEviction
  split
  · trivial
  · exact .ite h.requestPreempt trivial

protected theorem Keeps.freeLaunch {l} (h : Keeps P s) : Keeps P (freeLaunch s l) := by
  unfold Machine.freeLaunch
  dsimp only
  refine .modLaunch ?_
  refine .ite ?_ ?_
  · refine .foldl (fun s c hs => ?_) ?_
    · exact hs.setCore
    · refine h.foldl fun s p hs => ?_
      split
      · exact hs
      · exact (hs.foldl fun _ _ h => h.leaveGhost).freeCrewSlot
  · refine h.foldl fun s p hs => ?_
    split
    · exact hs
    · exact (hs.foldl fun _ _ h => h.leaveGhost).freeCrewSlot

protected theorem Keeps.execLaunchComplete {launch} (h : Keeps P s) : OutKeeps P (execLaunchComplete launch s) := by
  unfold Machine.execLaunchComplete
  dsimp only
  split
  · trivial
  · exact .ite h.modLaunch.freeLaunch.withGhosts.countLaunch.retireContext.placementPass trivial

protected theorem Keeps.execCancelComplete {launch} (h : Keeps P s) : OutKeeps P (execCancelComplete launch s) := by
  unfold Machine.execCancelComplete
  dsimp only
  split
  · trivial
  · exact .ite h.modLaunch.freeLaunch.countLaunch.retireContext.placementPass trivial

protected theorem Keeps.execForcedSave {core slot} (h : Keeps P s) : OutKeeps P (execForcedSave core slot s) := by
  unfold Machine.execForcedSave
  dsimp only
  split
  · trivial
  · split
    · exact .ite h.setCrew trivial
    · trivial

protected theorem Keeps.freeFill {a n} (h : Keeps P s) : Keeps P (freeFill s a n) :=
  Keeps.newVer (P.cellsWrite _ a h)

protected theorem Keeps.imageBody {stack part va n} (h : Keeps P s) : Keeps P (imageBody s stack part va n) := by
  unfold Machine.imageBody
  dsimp only
  refine h.foldl fun s i hs => ?_
  split
  · exact hs.freeFill
  · exact hs

protected theorem Keeps.execCrewSave {core slot} (h : Keeps P s) : OutKeeps P (execCrewSave core slot s) := by
  unfold Machine.execCrewSave
  dsimp only
  split
  · trivial
  · split
    · trivial
    · exact .ite trivial (.ite (.ite trivial h.setCrew) ((h.foldl fun _ _ h =>
        h.losePages).vaWrite.imageBody.emptySlot.modLaunch.placementPass.modLaunch))

protected theorem Keeps.restorePoison {core granules bad} (h : Keeps P s) : Keeps P (s.restorePoison core granules bad) :=
  h.withPoison

protected theorem Keeps.resend {gid} (h : Keeps P s) : Keeps P (resend s gid) := by
  unfold Machine.resend
  split
  · exact h.foldl fun _ _ h => h.sendNext
  · exact h

protected theorem Keeps.restoreCrew {l index v core slot c}
    (h : Keeps P s) : Keeps P (restoreCrew s l index v core slot c) := by
  unfold Machine.restoreCrew
  dsimp only
  refine .wakeCounters ?_
  refine .foldl (fun s x hs => ?_) ?_
  · exact hs.resend
  · split
    · exact h.bankPoison.setCore.modLaunch.setCrew.restorePoison
    · exact h.bankPoison.setCore.modLaunch

protected theorem Keeps.execCrewRestore {launch crew core}
    (h : Keeps P s) : OutKeeps P (execCrewRestore launch crew core s) := by
  unfold Machine.execCrewRestore
  dsimp only
  split
  · trivial
  · split
    · trivial
    · split
      · trivial
      · split
        · trivial
        · exact .ite h.passRun.restoreCrew.placementPass trivial

/-! ### Entries of the queues -/

protected theorem Keeps.setQueue {part q x} (h : Keeps P s) : Keeps P (s.setQueue part q x) := h.setPart

protected theorem Keeps.stopQueue {part q x tag} (h : Keeps P s) : Keeps P (stopQueue s part q x tag) := h.setQueue.postEvent

protected theorem Keeps.execKick {part queue off size val}
    (h : Keeps P s) : OutKeeps P (execKick part queue off size val s) := by
  unfold Machine.execKick
  dsimp only
  split
  · exact h
  · exact .ite h (.ite h.stopQueue h.setQueue)

protected theorem Keeps.takeEntry {part q} (h : Keeps P s) : Keeps P (takeEntry s part q) := by
  unfold Machine.takeEntry
  dsimp only
  split
  · exact h
  · exact h.setQueue.setPart.vaWrite

protected theorem Keeps.entryStep {name kind part q} {f : Queue → Nat → Option (Option State)} (h : Keeps P s)
    (hf : ∀ x e, EntryKeeps P (f x e)) : OutKeeps P (entryStep name kind part q s f) := by
  unfold Machine.entryStep
  split
  · trivial
  · refine .ite trivial ?_
    split
    · trivial
    · refine .ite trivial (.ite h.stopQueue ?_)
      split
      · exact h.stopQueue
      · trivial
      · exact Keeps.takeEntry ((hf _ _).keeps ‹_›)

protected theorem Keeps.execLaunchEntry {part queue} (h : Keeps P s) : OutKeeps P (execLaunchEntry part queue s) :=
  h.entryStep fun _ _ => h.submitLaunch

protected theorem Keeps.execWaitCounterEntry {part queue} (h : Keeps P s) :
    OutKeeps P (execWaitCounterEntry part queue s) :=
  h.entryStep fun _ _ => .ite trivial (.ite h trivial)

protected theorem Keeps.execSignalCounterEntry {part queue} (h : Keeps P s) :
    OutKeeps P (execSignalCounterEntry part queue s) :=
  h.entryStep fun _ _ => .ite trivial h.counterRaise.wakeCounters

protected theorem Keeps.startStream {l stream} (h : Keeps P s) : Keeps P (startStream s l stream) :=
  h.foldl fun _ _ h => h.modDormer

protected theorem Keeps.execStreamAttach {part queue} (h : Keeps P s) : OutKeeps P (execStreamAttach part queue s) := by
  refine h.entryStep fun x e => ?_
  dsimp only
  split
  · trivial
  · exact .ite (.ite trivial h.setPart) (.ite trivial h.setPart.startStream)

protected theorem Keeps.detachBin {part b} (h : Keeps P s) : Keeps P (detachBin s part b) := h.setPart.modLaunch

protected theorem Keeps.detachStream {part b} (h : Keeps P s) : Keeps P (detachStream s part b) := h.setPart.modLaunch

protected theorem Keeps.execStreamDetach {part queue} (h : Keeps P s) : OutKeeps P (execStreamDetach part queue s) := by
  refine h.entryStep fun x e => .ite ?_ ?_
  · split
    · exact .ite h.detachBin trivial
    · trivial
  · split
    · exact .ite h.detachStream trivial
    · trivial

protected theorem Keeps.reviveContext {part ctx} (h : Keeps P s) : Keeps P (reviveContext s part ctx) := h.setPart

protected theorem Keeps.execQueueCreate {part queue} (h : Keeps P s) : OutKeeps P (execQueueCreate part queue s) :=
  h.entryStep fun _ _ => .ite trivial h.reviveContext.setQueue

protected theorem Keeps.execQueueDestroy {part queue} (h : Keeps P s) : OutKeeps P (execQueueDestroy part queue s) := by
  refine h.entryStep fun x e => ?_
  dsimp only
  split
  · exact h
  · exact h.setPart.retireContext

protected theorem Keeps.execCancelEntry {part queue} (h : Keeps P s) : OutKeeps P (execCancelEntry part queue s) :=
  h.entryStep fun _ _ => h.cancelLevel

protected theorem Keeps.execPreEmptEntry {part queue} (h : Keeps P s) : OutKeeps P (execPreEmptEntry part queue s) :=
  h.entryStep fun _ _ => .ite trivial h.requestPreempt

/-! ### Records, wakes and nodes -/

protected theorem Keeps.modRec {id f} (h : Keeps P s) : Keeps P (s.modRec id f) := h.withRecs

protected theorem Keeps.dropRec {id} (h : Keeps P s) : Keeps P (s.dropRec id) := h.withRecs

protected theorem Keeps.refusedEvent {m} (h : Keeps P s) : Keeps P (refusedEvent s m) := h.postEvent

protected theorem Keeps.recordOver {m status} (h : Keeps P s) : Keeps P (recordOver s m status) := by
  unfold Machine.recordOver
  dsimp only
  refine .ite ?_ ?_
  · refine .modRec ?_
    split
    · exact .modLaunch (.ite h.refusedEvent h)
    · exact .ite h.refusedEvent h
  · refine .dropRec ?_
    split
    · exact .modLaunch (.ite h.refusedEvent h)
    · exact .ite h.refusedEvent h

protected theorem Keeps.recordDone {m status} (h : Keeps P s) : Keeps P (recordDone s m status) := by
  unfold Machine.recordDone
  dsimp only
  split
  · exact h.recordOver
  · split
    · exact h.dropRec
    · split
      · exact .ite h.dropRec.recordOver h.dropRec.modRec
      · exact h.dropRec

protected theorem Keeps.execRpostOrdAcceptance {msg} (h : Keeps P s) : OutKeeps P (execRpostOrdAcceptance msg s) := by
  unfold Machine.execRpostOrdAcceptance
  dsimp only
  split
  · trivial
  · split
    · split
      · exact .ite h.dropRec.advancePost h.dropRec
      · exact h.dropRec
    · exact h.dropRec

protected theorem Keeps.sendCopies {m xs} (h : Keeps P s) : Keeps P (sendCopies m xs s) := by
  induction xs generalizing s with
  | nil => exact h
  | cons x xs ih => exact ih (.congr h rfl rfl)

protected theorem Keeps.faultRecord {core part b l w d reason r} (h : Keeps P s) :
    Keeps P (faultRecord s core part b l w d reason r) :=
  .ite h.vaWrite.vaWrite.vaWrite.modDormer h.vaWrite.vaWrite.vaWrite.postEvent

protected theorem Keeps.unplacedIngress {m l} (h : Keeps P s) : OutKeeps P (unplacedIngress s m l) := by
  unfold Machine.unplacedIngress
  dsimp only
  split
  · exact .ite trivial (Keeps.servePosts (.recordDone (.ite h.modRec h.modRec.faultRecord)))
  · trivial

protected theorem Keeps.execRecordIngress {msg} (h : Keeps P s) : OutKeeps P (execRecordIngress msg s) := by
  unfold Machine.execRecordIngress
  dsimp only
  split
  · trivial
  · refine .ite h.modRec.servePosts ?_
    split
    · exact h.modRec.recordDone.servePosts
    · split
      · exact .ite h.unplacedIngress trivial
      · exact .ite trivial (.ite h.modRec.sendCopies.servePosts h.modRec.servePosts)

protected theorem Keeps.execBridgeFilter {msg} (h : Keeps P s) : OutKeeps P (execBridgeFilter msg s) := by
  unfold Machine.execBridgeFilter
  dsimp only
  split
  · trivial
  · split
    · exact h.recordDone
    · refine .ite h.recordDone ?_
      refine Keeps.modRec ?_
      split
      · refine .modLaunch ?_
        split
        · exact h.setPart.modLaunch
        · exact h.setPart
      · split
        · exact h.setPart.modLaunch
        · exact h.setPart

protected theorem Keeps.waitRec {m phase} (h : Keeps P s) : OutKeeps P (waitRec s m phase) := .ite trivial h.modRec

protected theorem Keeps.holdRec {m core all} (h : Keeps P s) : OutKeeps P (holdRec s m core all) := h.waitRec

protected theorem Keeps.fetchRec {m core l d} (h : Keeps P s) : OutKeeps P (fetchRec s m core l d) :=
  .ite (.ite trivial h.modDormer) (.ite h.waitRec h.modDormer.withRecs)

protected theorem Keeps.execRecordAccept {msg} (h : Keeps P s) : OutKeeps P (execRecordAccept msg s) := by
  unfold Machine.execRecordAccept
  dsimp only
  split
  · trivial
  · refine .ite trivial ?_
    split
    · exact h.recordDone
    · split
      · exact .ite h.holdRec (.ite (.ite h.holdRec h.modDormer.recordDone) (.ite h.faultRecord.recordDone (.ite h.fetchRec (.ite
          h.holdRec (.ite h.modDormer.settleSpills.faultRecord.recordDone h.modDormer.settleSpills.recordDone)))))
      · exact h.recordDone

protected theorem Keeps.execSlateFetchComplete {core launch slate} (h : Keeps P s) :
    OutKeeps P (execSlateFetchComplete core launch slate s) := by
  unfold Machine.execSlateFetchComplete
  split
  · split
    · trivial
    · refine .ite trivial ?_
      split
      · exact h.modDormer.settleSpills
      · trivial
  · trivial

protected theorem Keeps.startWake {l core kind entry xs n t} (h : Keeps P s)
    (e : startWake s l core kind entry xs = some (n, t)) : Keeps P t := by
  unfold Machine.startWake at e
  dsimp only at e
  split at e
  · cases e
  · split at e
    · split at e
      · cases e
        split
        · exact h.setGroup
        · exact h.setGroup.takeTrapAt
      · cases e
    · cases e

protected theorem Keeps.startWindow {l core entry count t} (h : Keeps P s)
    (e : startWindow s l core entry count = some t) : Keeps P t := by
  unfold Machine.startWindow at e
  dsimp only at e
  split at e
  · split at e
    · cases e
    · obtain ⟨⟨n, u⟩, hu, rfl⟩ := Option.map_eq_some_iff.mp e
      have hk : Keeps P u := h.modDormer.startWake hu
      split
      · exact hk.modDormer
      · exact hk
  · cases e

protected theorem Keeps.startNode {l core t} (h : Keeps P s) (e : startNode s l core = some t) : Keeps P t := by
  unfold Machine.startNode at e
  dsimp only at e
  split at e
  · cases e
  · split at e
    · obtain ⟨⟨n, u⟩, hu, rfl⟩ := Option.map_eq_some_iff.mp e
      exact h.setPart.startWake hu
    · cases e

protected theorem Keeps.execWakeStart {core launch entry count} (h : Keeps P s) :
    OutKeeps P (execWakeStart core launch entry count s) := by
  unfold Machine.execWakeStart
  split
  · trivial
  · refine .ite trivial ?_
    split
    · rename_i e
      split at e
      · exact h.startNode e
      · exact h.startWindow e
    · trivial

protected theorem Keeps.execNodeBinTimer {part bin} (h : Keeps P s) : OutKeeps P (execNodeBinTimer part bin s) := by
  unfold Machine.execNodeBinTimer
  dsimp only
  split
  · trivial
  · split
    · trivial
    · exact .ite h.setPart trivial

protected theorem Keeps.detachLaunch {l} (h : Keeps P s) : Keeps P (detachLaunch s l) :=
  ((h.foldl fun _ _ h => h.detachBin).foldl fun _ _ h => h.detachStream).modLaunch

protected theorem Keeps.execQuiescenceSample {part counter} (h : Keeps P s) :
    OutKeeps P (execQuiescenceSample part counter s) := by
  unfold Machine.execQuiescenceSample
  dsimp only
  refine .ite trivial ?_
  split
  · exact h.setPart
  · exact .ite trivial (.ite (h.setPart.foldl fun _ _ h => h.detachLaunch) h.setPart)

/-! ### Hosts: windows, registers, debugging -/

protected theorem Keeps.supRead {core d} (h : Keeps P s) : Keeps P (s.supRead core d) := h.setCore

protected theorem Keeps.supOutside {core write} (h : Keeps P s) : Keeps P (supOutside s core write) := by
  unfold Machine.supOutside
  dsimp only
  split
  · exact h.setCore.supRead
  · exact h.setCore

protected theorem Keeps.writeFw {off w} (h : Keeps P s) : Keeps P (s.writeFw off w) := h.withPkg

protected theorem Keeps.supFw {core off write} (h : Keeps P s) : Keeps P (supFw s core off write) := by
  unfold Machine.supFw
  refine .ite h (.ite h.supOutside ?_)
  split
  · exact h.writeFw
  · exact h.supRead

protected theorem Keeps.pkgFw {off write} (h : Keeps P s) : Keeps P (pkgFw s off write) := by
  unfold Machine.pkgFw
  dsimp only
  refine .ite h (.ite h.withPkg ?_)
  split
  · exact h.writeFw
  · exact h.withPkg

protected theorem Keeps.execEscQueuePop {core} (h : Keeps P s) : OutKeeps P (execEscQueuePop core s) := by
  unfold Machine.execEscQueuePop
  dsimp only
  refine .ite trivial ?_
  split
  · exact h.supRead
  · exact h.setCore

protected theorem Keeps.execEscCompletion {core val} (h : Keeps P s) : OutKeeps P (execEscCompletion core val s) := by
  unfold Machine.execEscCompletion
  dsimp only
  refine .ite trivial ?_
  split
  · exact h
  · refine .ite h ?_
    split
    · exact h.setCore.setGroup.takeTrapAt
    · exact h.setCore.setGroup.takeTrapAt
    · exact h.setCore.setGroup

protected theorem Keeps.execSupervisorEventPost {core data} (h : Keeps P s) :
    OutKeeps P (execSupervisorEventPost core data s) := by
  unfold Machine.execSupervisorEventPost
  dsimp only
  refine .ite trivial ?_
  split
  · exact h
  · exact h.postEvent

protected theorem Keeps.execGroupWindowAccess {core off write} (h : Keeps P s) :
    OutKeeps P (execGroupWindowAccess core off write s) := by
  unfold Machine.execGroupWindowAccess
  dsimp only
  refine .ite trivial (.ite h.supOutside ?_)
  split
  · refine .ite ?_ ?_
    · split
      · exact h.supRead
      · exact h
    · refine .ite trivial ?_
      split
      · exact h.setGroup.supRead
      · exact .ite (.ite trivial h.setGroup.setCore) h.setGroup
  · split
    · exact h.supRead
    · exact h

protected theorem Keeps.supervisorError {core line} (h : Keeps P s) : Keeps P (supervisorError s core line) := by
  unfold Machine.supervisorError
  dsimp only
  refine .packageEvent ?_
  split
  · exact h.setCore.fence.postEvent
  · exact h.setCore.fence

protected theorem Keeps.execSupervisorCoreError {core line} (h : Keeps P s) :
    OutKeeps P (execSupervisorCoreError core line s) :=
  .ite h.supervisorError trivial

protected theorem Keeps.execScratchpadWindowAccess {core off write} (h : Keeps P s) :
    OutKeeps P (execScratchpadWindowAccess core off write s) := by
  unfold Machine.execScratchpadWindowAccess
  dsimp only
  refine .ite trivial (.ite h.supOutside ?_)
  split
  · split
    · exact h.supRead
    · exact h
  · refine .ite ?_ ?_
    · split
      · exact h.supRead
      · exact h
    · split
      · split
        · exact h.supervisorError
        · exact h.supRead
      · exact h.setCore

protected theorem Keeps.execHostHdmAccess {part off write} (h : Keeps P s) :
    OutKeeps P (execHostHdmAccess part off write s) := by
  unfold Machine.execHostHdmAccess
  dsimp only
  refine .ite ?_ ?_
  · split
    · exact Keeps.congr h rfl rfl
    · exact h.withPkg
  · split
    · exact .ite (Keeps.congr h rfl rfl) (Keeps.congr h rfl rfl)
    · exact Keeps.wakeCounters (.newVer (P.set _ _ h))

protected theorem Keeps.writeOtinv {part val} (h : Keeps P s) : Keeps P (writeOtinv s part val) := .ite h h.setPart

protected theorem Keeps.execOtinvDone {part} (h : Keeps P s) : OutKeeps P (execOtinvDone part s) := .ite h.setPart trivial

protected theorem Keeps.writeScrub {part val} (h : Keeps P s) : Keeps P (writeScrub s part val) :=
  .ite h (.ite h.setPart h.setPart)

protected theorem Keeps.zeroRange {slice loc n} (h : Keeps P s) : Keeps P (zeroRange s slice loc n) :=
  Keeps.newVer (P.drop _ h)

protected theorem Keeps.pkgScrub {slice loc n} (h : Keeps P s) : Keeps P (pkgScrub s slice loc n) :=
  .ite h (.ite h.withPkg h.zeroRange)

protected theorem Keeps.execScrubDone {part} (h : Keeps P s) : OutKeeps P (execScrubDone part s) :=
  .ite (Keeps.ite h.setPart.zeroRange h.setPart) trivial

protected theorem Keeps.writePsreq {part val} (h : Keeps P s) : Keeps P (writePsreq s part val) := h.setPart

protected theorem Keeps.writeFwload {part val} (h : Keeps P s) : Keeps P (writeFwload s part val) := .ite h h.setPart

protected theorem Keeps.restartSup {core image} (h : Keeps P s) : Keeps P (s.restartSup core image) := h.setCore

protected theorem Keeps.clearGranules {core} (h : Keeps P s) : Keeps P (s.clearGranules core) := h.withPoison

protected theorem Keeps.resetCore {core image} (h : Keeps P s) : Keeps P (resetCore s core image) :=
  h.withLoads.clearGranules.setCore

protected theorem Keeps.writeCorerst {part val} (h : Keeps P s) : Keeps P (writeCorerst s part val) :=
  .ite h (.ite h.setPart (.ite h.setPart h.resetCore.setPart))

protected theorem Keeps.dbgEnd {part status} (h : Keeps P s) : Keeps P (dbgEnd s part status) := h.setPart

protected theorem Keeps.dbgStop {part core slot k grp} (h : Keeps P s) : Keeps P (dbgStop s part core slot k grp) := by
  unfold Machine.dbgStop
  dsimp only
  refine .setPart ?_
  refine .setCrew ?_
  split
  · exact h.loseCrewPages
  · exact h.losePages

protected theorem Keeps.writeDbgcmd {part val} (h : Keeps P s) : Keeps P (writeDbgcmd s part val) := by
  unfold Machine.writeDbgcmd
  dsimp only
  refine .ite h (.ite h.setPart.dbgEnd ?_)
  split
  · exact h.setPart.dbgEnd
  · split
    · exact h.setPart.setCrew.dbgEnd
    · exact h.setPart.setCrew.dbgEnd
    · exact h.setPart.dbgStop
    · exact h.setPart.dbgStop
    · exact h.setPart.setCrew.dbgEnd
    · split
      · exact .ite h.setPart.setGroup.dbgEnd h.setPart.dbgEnd
      · exact h.setPart.dbgEnd

protected theorem Keeps.execDebugStopComplete {part} (h : Keeps P s) : OutKeeps P (execDebugStopComplete part s) := by
  unfold Machine.execDebugStopComplete
  split
  · trivial
  · exact .ite trivial ((h.foldl fun _ _ h => h.modGroup).dbgEnd)

protected theorem Keeps.writePctl {part val} (h : Keeps P s) : Keeps P (writePctl s part val) :=
  h.setPart.servePages.placementPass

protected theorem Keeps.writeReg {part off val} (h : Keeps P s) : Keeps P (writeReg s part off val) := by
  unfold Machine.writeReg
  dsimp only
  split
  · exact h.writePctl
  · exact .ite h h.setPart
  · exact h.setPart
  · exact h.setPart
  · exact h.writeOtinv
  · exact h.setPart
  · exact h.setPart
  · exact h.setPart
  · exact h.setPart
  · exact h.setPart
  · exact h.writeScrub
  · exact h.writePsreq
  · exact h.writeDbgcmd
  · exact h.writeFwload
  · exact h.writeCorerst
  · exact .ite h.withPkg h

protected theorem Keeps.execPerfStateChange {stack} (h : Keeps P s) : OutKeeps P (execPerfStateChange stack s) :=
  .ite h.setDie trivial

protected theorem Keeps.clampEvent {stack} (h : Keeps P s) : Keeps P (clampEvent s stack) :=
  (h.foldl fun _ _ h => h.postEvent).packageEvent

protected theorem Keeps.execClampRaise {stack die value} (h : Keeps P s) : OutKeeps P (execClampRaise stack die value s) :=
  .ite h.setDie.clampEvent trivial

protected theorem Keeps.execClampReturn {stack die value} (h : Keeps P s) : OutKeeps P (execClampReturn stack die value s) :=
  .ite h.setDie.setDie.clampEvent trivial

/-! ### Package firmware -/

protected theorem Keeps.answer {ok} (h : Keeps P s) : Keeps P (s.answer ok) := h.withPkg

protected theorem Keeps.command {ok} {f : State → State} (h : Keeps P s) (hf : ∀ t, Keeps P t → Keeps P (f t)) :
    OutKeeps P (command s ok f) :=
  .ite ((hf _ h).answer) h.answer

protected theorem Keeps.setSlot {n x} (h : Keeps P s) : Keeps P (s.setSlot n x) := h.withPkg

protected theorem Keeps.execEnroll {slot ecDigest lmsDigest role signer} (h : Keeps P s) :
    OutKeeps P (execEnroll slot ecDigest lmsDigest role signer s) :=
  .ite h.setSlot.answer h.answer

protected theorem Keeps.execRevoke {slot signer} (h : Keeps P s) : OutKeeps P (execRevoke slot signer s) :=
  h.command fun _ hs => hs.setSlot

protected theorem Keeps.execSvn {image version} (h : Keeps P s) : OutKeeps P (execSvn image version s) :=
  h.command fun _ hs => hs.withPkg

protected theorem Keeps.execNett {ticks} (h : Keeps P s) : OutKeeps P (execNett ticks s) := h.command fun _ hs => hs.withNet

protected theorem Keeps.setWays {gateway part mask} (h : Keeps P s) : Keeps P (s.setWays gateway part mask) := h.withGateways

protected theorem Keeps.execWays {gateway part mask} (h : Keeps P s) : OutKeeps P (execWays gateway part mask s) :=
  h.command fun _ hs => hs.setWays

protected theorem Keeps.execBind {part port function cores slices ways hypervisor} (h : Keeps P s) :
    OutKeeps P (execBind part port function cores slices ways hypervisor s) := by
  unfold Machine.execBind
  dsimp only
  exact h.command fun _ hs => hs.setPart.foldl fun _ _ h => h.setWays

protected theorem Keeps.execRebind {giver taker cores slices} (h : Keeps P s) :
    OutKeeps P (execRebind giver taker cores slices s) :=
  .ite trivial (h.command fun _ hs => Keeps.congr hs rfl rfl)

protected theorem Keeps.clearSlices {giver slices} (h : Keeps P s) : Keeps P (clearSlices s giver slices) :=
  P.drop _ h

protected theorem Keeps.execRebindComplete (h : Keeps P s) : OutKeeps P (execRebindComplete s) := by
  unfold Machine.execRebindComplete
  dsimp only
  split
  · trivial
  · exact .ite trivial ((h.clearSlices.foldl fun _ _ h => h.resetCore).setPart.withPkg.postEvent)

protected theorem Keeps.runImage {part} (h : Keeps P s) : Keeps P (runImage s part) :=
  .ite h.withPkg (h.withPkg.setPart.foldl fun _ _ h => h.restartSup)

protected theorem Keeps.execFwloadResult {part} (h : Keeps P s) : OutKeeps P (execFwloadResult part s) :=
  .ite trivial (Keeps.postEvent (.setPart (.ite h.runImage h)))

protected theorem Keeps.execEccError {owner line uncorrectable} (h : Keeps P s) :
    OutKeeps P (execEccError owner line uncorrectable s) :=
  .ite h.withPoison (.ite h.setPart h.withPkg)

/-! ### The network -/

protected theorem Keeps.execPacketForward {router inp out}
    (h : Keeps P s) : OutKeeps P (execPacketForward router inp out s) := by
  unfold Machine.execPacketForward
  dsimp only
  refine .ite ?_ ?_
  · split
    · split
      · exact h.withNet
      · trivial
    · trivial
  · split
    · trivial
    · refine .ite trivial (.ite (.ite trivial h.withNet) ?_)
      split
      · trivial
      · exact .ite h.withNet trivial

protected theorem Keeps.execSuspectMark {router inp} (h : Keeps P s) : OutKeeps P (execSuspectMark router inp s) :=
  .ite h.withNet trivial

protected theorem Keeps.execGarnetTokenArrival (h : Keeps P s) : OutKeeps P (execGarnetTokenArrival s) := by
  unfold Machine.execGarnetTokenArrival
  dsimp only
  refine .ite trivial ?_
  split <;> exact h.withNet

protected theorem Keeps.gutterHop (h : Keeps P s) : Keeps P (gutterHop s) := by
  unfold Machine.gutterHop
  split
  · exact h.withNet
  · exact h

protected theorem Keeps.execGutterSinkAck (h : Keeps P s) : OutKeeps P (execGutterSinkAck s) := by
  unfold Machine.execGutterSinkAck
  dsimp only
  split
  · trivial
  · exact .ite h.withNet trivial

protected theorem Keeps.execLinkRetry {router out} (h : Keeps P s) : OutKeeps P (execLinkRetry router out s) := by
  unfold Machine.execLinkRetry
  dsimp only
  split
  · trivial
  · exact h.withNet

protected theorem Keeps.linkArrive {router out} (h : Keeps P s) : Keeps P (linkArrive s router out) := by
  unfold Machine.linkArrive
  dsimp only
  split
  · split
    · exact h.withNet
    · exact h
  · exact h

protected theorem Keeps.execLinkFailureReport {router out} (h : Keeps P s) : OutKeeps P (execLinkFailureReport router out s) :=
  .ite (Keeps.packageEvent (.congr h rfl rfl)) trivial

protected theorem Keeps.inject {router inp ps} (h : Keeps P s) : Keeps P (inject s router inp ps) := .ite h.withNet h

/-! ### Prefixed instructions -/

protected theorem Keeps.execPfx {p n z r t c} (h : Keeps P s) : OutKeeps P (execPfx p n z r t c s) := by
  unfold Machine.execPfx
  dsimp only
  split
  · trivial
  · split
    · exact h.takeTrap
    · exact .ite h.takeTrap (.ite h.takeTrap h.withPfx)

/-! ### Vector integers -/

protected theorem Keeps.intElems {w op st min d a b f} (h : Keeps P s) : OutKeeps P (intElems w op st min d a b f s) := h.vecOp

protected theorem Keeps.wordOp {w op st d a b f} (h : Keeps P s) : OutKeeps P (wordOp w op st d a b f s) := h.vecOp

protected theorem Keeps.carryOp {w op st d a b f} (h : Keeps P s) : OutKeeps P (carryOp w op st d a b f s) :=
  h.issue fun _ _ => .ite h.finish h.finish

protected theorem Keeps.predOp {q p f} (h : Keeps P s) : OutKeeps P (predOp q p f s) :=
  h.issue fun _ _ => .ite h.finish h.finish

protected theorem Keeps.compareOp {w op st p a b f} (h : Keeps P s) : OutKeeps P (compareOp w op st p a b f s) := h.predOp

protected theorem Keeps.execPfrom {st p c a b} (h : Keeps P s) : OutKeeps P (execPfrom st p c a b s) :=
  .ite h.predOp (h.issue fun _ _ => .ite h.finish h.finish)

protected theorem Keeps.execVred {st d a o} (h : Keeps P s) : OutKeeps P (execVred st d a o s) := by
  unfold Machine.execVred
  dsimp only
  refine h.issue fun g m => ?_
  split
  · exact h.takeTrap
  · exact h.finish

protected theorem Keeps.execRng {st d} (h : Keeps P s) : OutKeeps P (execRng st d s) :=
  h.issue fun _ _ => .ite h.finish h.finish

/-! ### The dispatch -/

/-- Every instruction and every step of the device but power-on reset keeps each property of GT and memory that writes and
drops of bytes keep. -/
protected theorem Keeps.exec {i} (h : Keeps P s) (hi : i ≠ .powerOnReset) : OutKeeps P (exec i s) := by
  cases i with dsimp only [Machine.exec]
  | nop | getmw | gtime | ssel | smovi | v2s | capinfo | mlayGet | mgangGet | mrel => exact h.uniform
  | bra | call => exact h.issue fun _ _ => h.finishTo
  | ret | jmpi => exact h.issue fun _ _ => h.jumpTo
  | brnz | brz | loop => exact h.issue fun _ _ => Keeps.ite h.finishTo h.finish
  | ssy | setmw => exact h.issue fun _ _ => .ite h.takeTrap h.finish
  | brp | brpn => exact h.issue fun _ _ => h.branchLanes
  | sync => exact h.execSync
  | exit => exact h.execExit
  | bar | barArv => exact h.issue fun _ _ => .ite h.holdIssue h.crewOp
  | barWait | boinit | bowait => exact h.issue fun _ _ => h.crewOp
  | barinit => exact h.execBarinit
  | phint => exact h.execPhint
  | chain => exact h.execChain
  | trap | brkpt => exact h.issue fun _ _ => h.takeTrap
  | rft | rftNext => exact h.issue fun _ _ => h.finish.unlock.returnFromTrap
  | esc => exact h.execEsc
  | sysrd => exact h.execSysrd
  | syswr | syswrSet | syswrClr => exact h.sysUpdate
  | waitgt | cwait => exact h.issue fun _ _ => .ite h.finish h.finish.modGroup
  | ipref => exact h.execIpref
  | sadd | ssub | smul | smulh | sand | sor | sxor | sshl | sshr | ssra | smin | smax | scmp => exact h.scalarOp
  | saddi | smovh | sbits => exact h.scalarOp1
  | sdiv => exact h.execSdiv
  | s2v | ballot | bmodeQ => exact h.issue fun _ _ => h.finish
  | vadd | vsub | vmul | vmulh | vshl | vshr | vsra | vmin | vmax | vabsd => exact h.intElems
  | vmad | vaddi | vmovi | vbits | vsel | vmov | pget | shfl | shflx | bcast | laneid | fabs | fneg
  | fclass | pack | unpk => exact h.vecOp
  | vand | vor | vxor => exact h.wordOp
  | vaddc | vsubb => exact h.carryOp
  | vcmp | vcmpx => exact h.compareOp
  | plog | pset => exact h.predOp
  | pfrom => exact h.execPfrom
  | vred => exact h.execVred
  | vscan | setq => exact h.issue fun _ _ => .ite h.finish (h.withFlags fun _ => h.finish)
  | rng => exact h.execRng
  | fadd | fsub | fmul | ffma => exact h.chainOp
  | fmin | fmax => exact h.minMaxOp
  | fcmp | fcmpx => exact h.floatCompare
  | frnd | fspec | rqnt => exact h.flagOp
  | fdiv | fsqrt => exact h.floatOut
  | tblev => exact h.execTblev
  | tblld => exact h.execTblld
  | tblsw => exact h.execTblsw
  | cvt => exact h.execCvt
  | dot4 | dot8 | dot2 => exact h.dotOp
  | getq => exact h.execGetq
  | maddq | msubq | mnegq | mmulq | mmuls | mfmaq | mredq | mctrq | bfly => exact h.modOp
  | pbf | pbrev | prot | mulw => exact h.pairOp
  | mshoup => exact h.execMshoup
  | ld => exact h.execLd
  | st => exact h.execSt
  | lds => exact h.execLds
  | sts => exact h.execSts
  | ldu => exact h.execLdu
  | stu => exact h.execStu
  | atom | atomx => exact h.memAtomic
  | atoms => exact h.execAtoms
  | fence | cbatch => exact h.issue fun _ _ => .ite h.holdIssue h.finish
  | waitm => exact h.execWaitm
  | capld => exact h.execCapld
  | capst => exact h.execCapst
  | capsub => exact h.execCapsub
  | bmode => exact h.execBmode
  | cpy | cred => exact h.linearJob
  | cpyt => exact h.execCpyt
  | cpym => exact h.execCpym
  | cpyg => exact h.execCpyg
  | cpys => exact h.execCpys
  | ctest | accallocQ => exact h.issue fun _ _ => h.fresh.finish
  | ctoken => exact h.execCtoken
  | botest => exact h.execBotest
  | mlay => exact h.execMlay
  | mgang => exact h.execMgang
  | mma | mmas => exact h.matrixOp
  | accz => exact h.execAccz
  | accld => exact h.execAccld
  | accst => exact h.execAccst
  | accalloc => exact h.execAccalloc
  | accfree => exact h.execAccfree
  | wyield | wclose | wmerge => exact h.endWake
  | wemit => exact h.execWemit
  | winfo => exact h.execWinfo
  | wmark => exact h.execWmark
  | rpost => exact h.execRpost
  | bpost => exact h.execBpost
  | wext => exact h.execWext
  | wdq => exact h.execWdq
  | srwait | srwaitR => exact h.ringWait
  | srsig | srsigR => exact h.ringSignal
  | cntwait => exact h.execCntwait
  | cancel => exact h.execCancel
  | launchq => exact h.execLaunchq
  | pfx => exact h.execPfx
  | undefinedOpcode => exact h.execUndefinedOpcode
  | instructionFetchFault => exact h.execInstructionFetchFault
  | watchdog => exact h.execWatchdog
  | priorityAging => exact h.execPriorityAging
  | eviction => exact h.execEviction
  | launchEntry => exact h.execLaunchEntry
  | waitCounterEntry => exact h.execWaitCounterEntry
  | signalCounterEntry => exact h.execSignalCounterEntry
  | streamAttach => exact h.execStreamAttach
  | streamDetach => exact h.execStreamDetach
  | queueCreate => exact h.execQueueCreate
  | queueDestroy => exact h.execQueueDestroy
  | cancelEntry => exact h.execCancelEntry
  | cancelComplete => exact h.execCancelComplete
  | preEmptEntry => exact h.execPreEmptEntry
  | forcedSave => exact h.execForcedSave
  | crewSave => exact h.execCrewSave
  | crewRestore => exact h.execCrewRestore
  | launchEligible => exact h.execLaunchEligible
  | launchComplete => exact h.execLaunchComplete
  | waitgtDeadline => exact h.execWaitgtDeadline
  | waitmPoll => exact h.execWaitmPoll
  | homeLoad => exact h.execHomeLoad
  | gatewayLoad => exact h.execGatewayLoad
  | homeWrite => exact h.execHomeWrite
  | homeAtomic => exact h.execHomeAtomic
  | storeAck => exact h.execStoreAck
  | loadResponse => exact h.execLoadResponse
  | jobStart => exact h.execJobStart
  | jobComplete => exact h.execJobComplete
  | multicastDelivery => exact h.execMulticastDelivery
  | wdQuery => exact h.execWdQuery
  | matrixJobStart => exact h.execMatrixJobStart
  | matrixJobComplete => exact h.execMatrixJobComplete
  | accownTakeEffect => exact h.execAccownTakeEffect
  | tableSwap => exact h.execTableSwap
  | recordIngress => exact h.execRecordIngress
  | recordAccept => exact h.execRecordAccept
  | wakeStart => exact h.execWakeStart
  | rpostOrdAcceptance => exact h.execRpostOrdAcceptance
  | nodeBinTimer => exact h.execNodeBinTimer
  | backInvalidationResponse => exact h.execBackInvalidationResponse
  | bridgeFilter => exact h.execBridgeFilter
  | otinvDone => exact h.execOtinvDone
  | scrubDone => exact h.execScrubDone
  | perfStateChange => exact h.execPerfStateChange
  | debugStopComplete => exact h.execDebugStopComplete
  | fwloadResult => exact h.execFwloadResult
  | variableLatencyResult => exact h.execVariableLatencyResult
  | globalWriteCompletionTimeReached => exact h.execGlobalWriteCompletionTimeReached
  | gatewayFillResponse => exact h.execGatewayFillResponse
  | slateFetchComplete => exact h.execSlateFetchComplete
  | cxlCacheGloballyObserved => exact h.execCxlCacheGloballyObserved
  | kick => exact h.execKick
  | pageResponse => exact h.execPageResponse
  | atsInvalidation => exact h.execAtsInvalidation
  | escQueuePop => exact h.execEscQueuePop
  | escCompletion => exact h.execEscCompletion
  | supervisorEventPost => exact h.execSupervisorEventPost
  | groupWindowAccess => exact h.execGroupWindowAccess
  | scratchpadWindowAccess => exact h.execScratchpadWindowAccess
  | hostHdmAccess => exact h.execHostHdmAccess
  | registerWrite => exact h.writeReg
  | otinv => exact h.writeOtinv
  | scrub => exact h.writeScrub
  | psreqWrite => exact h.writePsreq
  | clampRaise => exact h.execClampRaise
  | clampReturn => exact h.execClampReturn
  | dbgAttach | dbgDetach | dbgStop | dbgStopGroup | dbgResume | dbgStep => exact h.writeDbgcmd
  | corerst => exact h.writeCorerst
  | fwload => exact h.writeFwload
  | bind => exact h.execBind
  | rebind => exact h.execRebind
  | rebindComplete => exact h.execRebindComplete
  | ways => exact h.execWays
  | nett => exact h.execNett
  | pscap | clamp => exact h.command fun _ hs => hs.setDie
  | enroll => exact h.execEnroll
  | revoke => exact h.execRevoke
  | svn => exact h.execSvn
  | powerOnReset => exact absurd rfl hi
  | eccError => exact h.execEccError
  | spdmSession => exact h.withPkg
  | coreCacheLineDrop => exact h.execCoreCacheLineDrop
  | linkRetry => exact h.execLinkRetry
  | linkFailureReport => exact h.execLinkFailureReport
  | packetForward => exact h.execPacketForward
  | suspectMark => exact h.execSuspectMark
  | garnetTokenArrival => exact h.execGarnetTokenArrival
  | gutterSinkAck => exact h.execGutterSinkAck
  | quiescenceSample => exact h.execQuiescenceSample
  | supervisorCoreError => exact h.execSupervisorCoreError
  | issueStarvation => exact h.execIssueStarvation

end Sys2Proof.Machine
end

section
/-! SUPPORT. What a step of the machine keeps, whatever its move: an event, an issue turn with its run-ahead, a tick of time, or what the outside world does. -/

namespace Sys2Proof.Machine

open Sys2Proof

variable {P : MemInv} {s : State}

/-! ### Fetch and issue -/

protected theorem Keeps.fetched {x off} (h : Keeps P s) : Keeps P (s.fetched x off) := by
  unfold State.fetched
  split
  · exact h.fetchLine
  · exact h

protected theorem Keeps.reservedTrap {x w} (h : Keeps P s) : Keeps P (reservedTrap s x w) := by
  unfold Machine.reservedTrap
  refine .ite ?_ h.takeTrap
  split
  · exact h.takeTrap
  · exact .ite h.takeTrap h.takeTrap

protected theorem Keeps.issueBase {x} {run : Instr → State → Out} (h : Keeps P s)
    (hrun : ∀ i t, Keeps P t → OutKeeps P (run i t)) :
    OutKeeps P (issueBase run s x) := by
  unfold Machine.issueBase
  dsimp only
  split
  · exact h.takeTrap
  · split
    · exact h.fetched.takeTrap
    · exact hrun _ _ h.fetched

protected theorem Keeps.issueTurn {g x} {run : Instr → State → Out} (h : Keeps P s)
    (hrun : ∀ i t, Keeps P t → OutKeeps P (run i t)) : OutKeeps P (issueTurn run s g x) := by
  unfold Machine.issueTurn
  dsimp only
  split
  · exact Keeps.takeTrapAt (.congr h rfl rfl)
  · refine .ite (Keeps.takeTrap (.congr h rfl rfl)) ?_
    split
    · exact hrun _ _ (.congr h rfl rfl)
    · split
      · exact Keeps.reservedTrap (.fetched (.congr h rfl rfl))
      · have hi := hrun ‹_› _ (Keeps.fetched (x := x) (off := x.pc) (h.congr (t := { s with cur := g, pfx := none }) rfl rfl))
        split
        · exact .ite ((hi.keeps ‹_›).issueBase hrun) (hi.keeps ‹_›)
        · exact hi

protected theorem Keeps.tryIssue {g} {run : Instr → State → Out} (h : Keeps P s)
    (hrun : ∀ i t, Keeps P t → OutKeeps P (run i t)) : OutKeeps P (tryIssue run s g) := by
  unfold Machine.tryIssue
  split
  · exact .ite (Keeps.issueTurn (.ite h.setGroup h) hrun) h
  · exact h

/-! ### The run-ahead -/

protected theorem Keeps.runAhead {gid} {run : Instr → State → Out} (h : Keeps P s) : Keeps P (runAhead run gid s) := by
  unfold Machine.runAhead
  dsimp only
  split
  · split
    · exact h.setGroup.requestPages
    · exact h
  · exact h

protected theorem Keeps.issueAhead {g} {run : Instr → State → Out} (h : Keeps P s)
    (hrun : ∀ i t, Keeps P t → OutKeeps P (run i t)) : OutKeeps P (issueAhead run s g) := by
  have ht := h.tryIssue (g := g) hrun
  unfold Machine.issueAhead
  split
  · exact (ht.keeps ‹_›).runAhead
  · exact ht

/-! ### Moves of the agenda -/

protected theorem Keeps.eventStep {i} {run : Instr → State → Out} (h : Keeps P s)
    (hrun : ∀ i t, Keeps P t → OutKeeps P (run i t)) : OutKeeps P (eventStep run i s) := by
  unfold Machine.eventStep
  split
  · exact h
  · exact h
  · exact hrun i s h

protected theorem Keeps.hostCopy {line take} (h : Keeps P s) : Keeps P (hostCopy s line take) := h.withHostCopies

protected theorem Keeps.bridgeMark {part stream mark} (h : Keeps P s) : Keeps P (bridgeMark s part stream mark) := h.setPart

protected theorem Keeps.preemptQueued {core slot} (h : Keeps P s) : Keeps P (preemptQueued s core slot) := by
  unfold Machine.preemptQueued
  split
  · exact .ite h.requestPreempt h
  · exact h

protected theorem Keeps.gatewayEcc {gateway line} (h : Keeps P s) : Keeps P (gatewayEcc s gateway line) := h.withGateways

protected theorem Keeps.sampleQuiet {part counter} (h : Keeps P s) : Keeps P (sampleQuiet s part counter) := by
  unfold Machine.sampleQuiet
  split
  · exact h.execQuiescenceSample.keeps ‹_›
  · exact h

protected theorem OutKeeps.firstStep {run : Instr → State → Out} (hrun : ∀ i, OutKeeps P (run i s)) {is : List Instr} {r : Out}
    (e : firstStep run s is = some r) : OutKeeps P r := by
  induction is with
  | nil => cases e
  | cons i is ih =>
    unfold Machine.firstStep at e
    split at e
    · exact ih e
    · exact ih e
    · exact Option.some.inj e ▸ hrun i

protected theorem Keeps.moveStep {run : Instr → State → Out} {m} (h : Keeps P s)
    (hrun : ∀ i t, Keeps P t → OutKeeps P (run i t)) (htick : ∀ n t, Keeps P t → Keeps P (tickStep run n t)) :
    OutKeeps P (moveStep run m s) := by
  cases m with
  | event => exact h.eventStep hrun
  | issue => exact h.issueAhead hrun
  | tick n => exact htick n s h
  | hostByte a b => exact P.set _ b h
  | hostMap => exact h.withHostPages
  | hostCopy => exact h.hostCopy
  | inject | injectLine => exact h.inject
  | bridge => exact h.bridgeMark
  | filter => exact h.withPkg
  | pageLimit => exact h.setPart.servePages
  | regRead | kickRead => exact h.withHostReg
  | evictLine => exact h.evict
  | gatewayDrop => exact h.gatewayDrop
  | preempt => exact h.preemptQueued
  | linkArrive => exact h.linkArrive
  | gutterHop => exact h.gutterHop
  | sample => exact h.sampleQuiet
  | sensor => exact h.setDie
  | supFw => exact h.supFw
  | pkgFw => exact h.pkgFw
  | pkgScrub => exact h.pkgScrub
  | coreEcc => exact h.setCore
  | gatewayEcc => exact h.gatewayEcc

protected theorem Keeps.autoStep {run : Instr → State → Out} (h : Keeps P s)
    (hrun : ∀ i t, Keeps P t → OutKeeps P (run i t)) (htick : ∀ n t, Keeps P t → Keeps P (tickStep run n t)) :
    OutKeeps P (autoStep run s) := by
  unfold Machine.autoStep
  split
  · exact OutKeeps.firstStep (fun i => hrun i s h) ‹_›
  · exact h.moveStep hrun htick
  · split
    · exact h.issueAhead hrun
    · exact htick 1 s h

protected theorem Keeps.step (h : Keeps P s) (hrun : ∀ i t, Keeps P t → OutKeeps P (exec i t))
    (htick : ∀ n t, Keeps P t → Keeps P (tickStep exec n t)) : OutKeeps P (step s) := by
  unfold Machine.step
  split
  · exact h.autoStep hrun htick
  · exact Keeps.moveStep (.withAgenda h) hrun htick

end Sys2Proof.Machine
end

section
/-! SUPPORT. The two invariants that settle the statements about memory and GT: the canonical form, and GT at a given time; and what power-on reset does to both. -/

namespace Sys2Proof.Machine

open Sys2Proof

variable {s t : State}

/-- Memory is in canonical form. -/
def MemInv.canonical : MemInv where
  holds _ m := Memory.wf m = true
  set a b h := wf_cellSet a b _ h
  drop f h := wf_filter f _ h

/-- GT is n. -/
def MemInv.gtIs (n : Nat) : MemInv where
  holds k _ := k = n
  set _ _ h := h
  drop _ h := h

theorem keeps_canonical_iff : Keeps .canonical s ↔ s.memOk = true := Iff.rfl

theorem keeps_gtIs_iff {n : Nat} : Keeps (.gtIs n) s ↔ s.gt = n := Iff.rfl

theorem gt_of_powerOnReset (e : exec .powerOnReset s = .next t) : t.gt = 0 := by
  cases e
  rfl

/-- Power-on reset drops cells, so that it keeps the canonical form as well. -/
theorem exec_keeps_canonical (i : Instr) (h : Keeps .canonical s) : OutKeeps .canonical (exec i s) := by
  by_cases hi : i = .powerOnReset
  · subst hi
    exact MemInv.canonical.drop _ h
  · exact h.exec hi

theorem tickStep_keeps_canonical (run : Instr → State → Out) (n : Nat) (h : Keeps .canonical s) :
    Keeps .canonical (tickStep run n s) := by
  obtain ⟨-, hmem, -⟩ := tickStep_gives run n s
  rw [keeps_canonical_iff, State.memOk, hmem]
  exact h

/-! ### One list for equal data -/

theorem wf_cons_iff {k : Nat} {b : BitVec 8} {r : List Host.Cell} :
    Memory.wf ((k, b) :: r) = true ↔ b ≠ 0 ∧ cellsAbove k r = true := by
  simp [Memory.wf]

theorem wf_of_cellsAbove {n : Nat} : ∀ {m : List Host.Cell}, cellsAbove n m = true → Memory.wf m = true
  | [], _ => rfl
  | (k, b) :: r, h => by
    simp only [cellsAbove, Bool.and_eq_true] at h
    exact Bool.and_eq_true _ _ ▸ ⟨h.1.2, h.2⟩

@[simp] theorem cellGet_cons_same (k : Nat) (b : BitVec 8) (r : List Host.Cell) : cellGet ((k, b) :: r) k = b := by
  simp [cellGet]

theorem cellGet_cons_below {k a : Nat} (b : BitVec 8) (r : List Host.Cell) (h : a < k) : cellGet ((k, b) :: r) a = 0 := by
  simp [cellGet, h, h.ne]

theorem cellGet_cons_above {k a : Nat} (b : BitVec 8) (r : List Host.Cell) (h : k < a) :
    cellGet ((k, b) :: r) a = cellGet r a := by
  simp [cellGet, h.ne', h.asymm]

/-- A memory that lists a byte below all those of another reads differently there. -/
theorem head_not_below {k k' : Nat} {b b' : BitVec 8} {r r' : List Host.Cell} (hb : b ≠ 0)
    (h : cellGet ((k, b) :: r) k = cellGet ((k', b') :: r') k) : ¬ k < k' := by
  intro hk
  rw [cellGet_cons_same, cellGet_cons_below b' r' hk] at h
  exact hb h

theorem eq_of_cellGet_eq : ∀ {m n : List Host.Cell}, Memory.wf m = true → Memory.wf n = true →
    (∀ a, cellGet m a = cellGet n a) → m = n
  | [], [], _, _, _ => rfl
  | [], (k, b) :: r, _, hn, h => by
    have hk := h k
    rw [cellGet_cons_same] at hk
    exact absurd hk.symm (wf_cons_iff.mp hn).1
  | (k, b) :: r, [], hm, _, h => by
    have hk := h k
    rw [cellGet_cons_same] at hk
    exact absurd hk (wf_cons_iff.mp hm).1
  | (k, b) :: r, (k', b') :: r', hm, hn, h => by
    obtain ⟨hb, hr⟩ := wf_cons_iff.mp hm
    obtain ⟨hb', hr'⟩ := wf_cons_iff.mp hn
    have hkk : k = k' := by
      have h1 := head_not_below hb (h k)
      have h2 := head_not_below hb' (h k').symm
      omega
    subst hkk
    have hbb : b = b' := by simpa using h k
    have htail : r = r' := by
      refine eq_of_cellGet_eq (wf_of_cellsAbove hr) (wf_of_cellsAbove hr') fun a => ?_
      by_cases ha : a ≤ k
      · rw [cellGet_above ha r hr, cellGet_above ha r' hr']
      · have hk : k < a := by omega
        rw [← cellGet_cons_above b r hk, ← cellGet_cons_above b' r' hk]
        exact h a
    rw [hbb, htail]

/-! ### The head of the agenda -/

theorem step_of_agenda {m : Move} {rest : List Move} (h : s.agenda = m :: rest) :
    step s = moveStep exec m { s with agenda := rest } := by
  simp only [step, h]

theorem eventStep_of_next {run : Instr → State → Out} {i : Instr} (h : run i s = .next t) : eventStep run i s = .next t := by
  simp only [eventStep, h]

theorem eventStep_of_notEnabled {run : Instr → State → Out} {i : Instr} {n : String}
    (h : run i s = .refused (.notEnabled n)) : eventStep run i s = .next s := by
  simp only [eventStep, h]

theorem waitmSlack_le (s : State) (n : Nat) : waitmSlack s n ≤ n := by
  unfold waitmSlack
  refine List.foldlRecOn (motive := (· ≤ n)) _ _ (le_refl n) fun m hm gid _ => ?_
  split
  · refine List.foldlRecOn (motive := (· ≤ n)) _ _ hm fun m hm x _ => ?_
    split
    · split
      · exact hm
      · exact (min_le_left _ _).trans hm
    · exact hm
  · exact hm

theorem waitmSlack_of_no_waitm (n : Nat) (h : ∀ g x, s.group? g = some x → x.waitms = []) : waitmSlack s n = n := by
  unfold waitmSlack
  refine List.foldlRecOn (motive := (· = n)) _ _ rfl fun m hm gid _ => ?_
  split
  · rw [h _ _ ‹_›]
    exact hm
  · exact hm

end Sys2Proof.Machine
end

section
/-! CERTIFICATES. The statements about memory, GT, reset and the model's schedule. -/

namespace Sys2Proof.Machine

open Sys2Proof

/-- Settles O56: the canonical form is one of the properties that every instruction keeps, power-on reset drops cells, and
time leaves memory alone. -/
theorem memoryCanonical : Obligations.MemoryCanonical := by
  intro s t hs e
  have h : Keeps .canonical s := keeps_canonical_iff.mpr hs
  have ht : OutKeeps .canonical (step s) := h.step (fun i _ => exec_keeps_canonical i) fun n _ => tickStep_keeps_canonical exec n
  exact keeps_canonical_iff.mp (ht.keeps e)

/-- Settles O57: that GT is what it was is one of the properties that every instruction keeps. -/
theorem globalTime : Obligations.GlobalTime := by
  intro i s t e
  refine ⟨fun hi => ?_, fun hi => ?_⟩
  · have h : Keeps (.gtIs s.gt) s := keeps_gtIs_iff.mpr rfl
    exact keeps_gtIs_iff.mp ((h.exec hi).keeps e)
  · subst hi
    exact gt_of_powerOnReset e

/-- Settles O58. -/
theorem memoryCells : Obligations.MemoryCells :=
  ⟨fun _ _ => eq_of_cellGet_eq, fun m a b hm =>
    ⟨wf_cellSet a b m hm, cellGet_cellSet_same a b m hm, fun _ hc => cellGet_cellSet_other b hc m hm⟩⟩

/-- Settles O44: the reset state lists no core, partition or cell, and each reads as its reset value. -/
theorem resetState : Obligations.ResetState :=
  ⟨rfl, rfl, fun _ => rfl, rfl, rfl, fun _ _ => ⟨rfl, rfl⟩, fun _ => rfl, fun _ => by
    simp [State.part, State.reset, getAt, Partition.reset]⟩

/-- Settles O50: a tick advances GT by what the waits for memory leave of it, and an event is its instruction's step. -/
theorem schedule : Obligations.Schedule := by
  intro s rest
  refine ⟨fun n h => ?_, fun i t h e => ?_, fun i n h e => ?_, fun a b h hmem => ?_⟩
  · obtain ⟨hgt, hm, hag⟩ := tickStep_gives exec n { s with agenda := rest }
    exact ⟨_, waitmSlack { s with agenda := rest } n, step_of_agenda h, waitmSlack_le _ n, hgt, hm, hag,
      fun hw => waitmSlack_of_no_waitm n hw⟩
  · exact (step_of_agenda h).trans (eventStep_of_next e)
  · exact (step_of_agenda h).trans (eventStep_of_notEnabled e)
  · exact ⟨_, step_of_agenda h, cellGet_cellSet_same _ b s.mem hmem, fun c hc => cellGet_cellSet_other b hc s.mem hmem⟩

/-- Settles O55: memory lists nothing at reset. -/
theorem resetMemory : Obligations.ResetMemory := rfl

end Sys2Proof.Machine
end

section
/-! SUPPORT. Fields of a word, and what the decoder's rows answer: the word of an instruction decodes to it, and an instruction that a word decodes to has that word. -/

namespace Sys2Proof.Machine

open Sys2Proof

/-! ### Fields (R79) -/

/-- The field of all bits is the word. -/
theorem fld_whole (w : Word) : fld w 0 32 = w := BitVec.extractLsb'_eq_self

/-- Two parts side by side are a field where each is its part of the field. -/
theorem append_eq_fld {a b lo : Nat} {x : BitVec a} {y : BitVec b} {w : Word} (hx : x = fld w (lo + b) a)
    (hy : y = fld w lo b) : x ++ y = fld w lo (a + b) := by
  subst hx hy
  exact BitVec.extractLsb'_append_extractLsb'_eq_extractLsb' (by omega)

/-- The bits of OP, as a field. -/
theorem fld_op_of_opOf {w : Word} {n : Nat} (h : opOf w = n) : fld w 21 8 = BitVec.ofNat 8 n := by
  subst h
  exact BitVec.eq_of_toNat_eq (by simp [opOf])

/-- A field with a bit that is 1 is not zero. -/
theorem fld_ne_zero {w : Word} {lo len n : Nat} (hlo : lo ≤ n) (hn : n < lo + len) (hb : fld w n 1 = 1) :
    fld w lo len ≠ 0 := by
  intro h
  have hbit : w.getLsbD n = true := by simpa [fld] using congrArg (BitVec.getLsbD · 0) hb
  have hzero : (fld w lo len).getLsbD (n - lo) = false := by rw [h]; exact BitVec.getLsbD_zero
  rw [fld, BitVec.getLsbD_extractLsb', Nat.add_sub_cancel' hlo, hbit, Bool.and_true, decide_eq_false_iff_not] at hzero
  omega

/-! ### Chains of tests -/

theorem ite_of_beq_false {α : Type} {a b : Nat} {t e x : α} (h : Nat.beq a b = false) (he : e = x) :
    (if a = b then t else e) = x :=
  (if_neg (Nat.ne_of_beq_eq_false h)).trans he

theorem ite_of_beq_true {α : Type} {a b : Nat} {t e x : α} (h : Nat.beq a b = true) (ht : t = x) :
    (if a = b then t else e) = x :=
  (if_pos (Nat.eq_of_beq_eq_true h)).trans ht

/-- Whatever instruction a row of the decoder answers has a property. -/
def Answers (P : Instr → Prop) (r : Option Instr) : Prop := ∀ i, r = some i → P i

protected theorem Answers.none {P : Instr → Prop} : Answers P none := by
  intro i h
  cases h

protected theorem Answers.some {P : Instr → Prop} {i : Instr} (h : P i) : Answers P (some i) := by
  rintro _ ⟨⟩
  exact h

protected theorem Answers.ite {P : Instr → Prop} {c : Prop} {_ : Decidable c} {t e : Option Instr} (ht : c → Answers P t)
    (he : Answers P e) : Answers P (if c then t else e) := by
  split
  · exact ht ‹_›
  · exact he

/-! ### From words to instructions and back (R98, R102) -/

/-- An instruction that a word's fields give has the word, and the grid has a mnemonic at the word's opcode: along the rows, the opcode and the
fixed bits that a row tests are the literals of the instruction's encoding, and every other field of it is the word's. -/
theorem rawDecode_answers (w : Word) :
    Answers (fun i => encode i = w ∧ (opMnemonic (opOf w)).isSome = true) (rawDecode w) := by
  unfold rawDecode
  repeat' refine .ite (fun h => ?_) ?_
  all_goals try exact .none
  all_goals
    refine .some ⟨Eq.trans (b := fld w 0 32) ?_ (fld_whole w), by simp only [‹opOf w = _›]; rfl⟩
    have hop := fld_op_of_opOf ‹opOf w = _›
    repeat' refine append_eq_fld ?_ ?_
  all_goals try exact rfl
  all_goals
    symm
    try casesm* _ ∧ _
    assumption

/-- The fields of the word of an instruction that stands in code are the instruction's operands: its opcode picks its row, and
the row's fixed bits are those of its encoding. -/
theorem rawDecode_encode (i : Instr) (h : i.encoded = true) : rawDecode (encode i) = some i := by
  generalize hw : encode i = w
  have hop := congrArg opOf hw
  unfold rawDecode
  generalize opOf w = op at hop ⊢
  cases i
  all_goals try exact absurd h Bool.false_ne_true
  all_goals clear h
  all_goals
    simp (disch := decide) only [encode, opOf, fld, BitVec.extractLsb'_append_eq_of_add_le,
      BitVec.extractLsb'_append_eq_of_le, Nat.reduceSub, BitVec.extractLsb'_eq_self, BitVec.reduceToNat] at hop
    subst hop
    repeat refine ite_of_beq_false rfl ?_
    refine ite_of_beq_true rfl ?_
    repeat refine ite_of_beq_false rfl ?_
    refine ite_of_beq_true rfl ?_
    subst hw
  case srwaitR | srsigR =>
    refine (if_neg (fld_ne_zero (n := 6) (by decide) (by decide) ?_)).trans ?_
    all_goals simp (disch := decide) only [encode, fld, BitVec.extractLsb'_append_eq_of_add_le, BitVec.extractLsb'_append_eq_of_le,
      BitVec.extractLsb'_eq_self, Nat.reduceSub, BitVec.ofNat_eq_ofNat, reduceIte, BitVec.reduceExtractLsb', and_self]
  all_goals
    simp (disch := decide) only [encode, fld, BitVec.extractLsb'_append_eq_of_add_le, BitVec.extractLsb'_append_eq_of_le,
      BitVec.extractLsb'_eq_self, Nat.reduceSub, BitVec.ofNat_eq_ofNat, reduceIte, BitVec.reduceEq, BitVec.reduceExtractLsb',
      and_self, and_true, false_and]

/-- A word whose fields give a well-formed instruction decodes to it. -/
theorem decode_of_rawDecode {w : Word} {i : Instr} (h : rawDecode w = some i) (hwf : i.wf = true) : decode w = .ok i := by
  obtain ⟨name, hname⟩ := Option.isSome_iff_exists.mp (rawDecode_answers w i h).2
  simp only [decode, hname, h, hwf, if_true]

/-- An instruction that a word decodes to is the word itself, where the grid has no mnemonic, or what its fields give. -/
theorem decode_cases {w : Word} {i : Instr} (h : decode w = .ok i) : i = .undefinedOpcode w ∨ rawDecode w = some i := by
  unfold decode at h
  split at h
  · exact .inl (Except.ok.inj h).symm
  · split at h
    · cases h
    · split at h
      · cases h
        exact .inr ‹_›
      · cases h

end Sys2Proof.Machine
end

section
/-! SUPPORT. What the gate traps, what a prefix word does, what a result does to the registers, and what waits, escalations and fetched lines change of the state. -/

namespace Sys2Proof.Machine

open Sys2Proof

/-! ### The traps of the gate (R104) -/

theorem mwEtype_lt (mw : Word) : mwEtype mw < 16 := Nat.mod_lt _ (by decide)

theorem effType_lt (s : State) (g : Group) : effType s g < 16 := by
  unfold effType
  split
  · split
    · exact mwEtype_lt _
    · have := (‹Prefix›).ptype.isLt
      omega
  · exact mwEtype_lt _

/-- Every effective element type is one that an instruction of the set A accepts. -/
theorem effType_mem_setA (s : State) (g : Group) : effType s g ∈ setA :=
  List.mem_range.mpr (effType_lt s g)

theorem issue_of_trap {q : Desc} {s : State} {g : Group} {c : Nat} {v : Word} (hg : s.group? s.cur = some g)
    (h : gate q s g = .trap c v) (k : Group → Mask → Out) : issue q s k = .next (takeTrap s c v) := by
  simp only [issue, hg, h]

/-- A register beyond the budget, or a type that the instruction does not accept. -/
def Desc.illegal (q : Desc) (s : State) (x : Group) : Prop := x.budget < q.vtop ∨ effType s x ∉ q.types

theorem gate_of_illegal {q : Desc} {s : State} {g : Group} (h : q.illegal s g.settle) : gate q s g = .trap 0x01 q.word := by
  have hc : (decide (g.settle.budget < q.vtop) || !q.types.contains (effType s g.settle)) = true := by
    simpa [Desc.illegal] using h
  exact if_pos hc

theorem gate_of_role {q : Desc} {s : State} {g : Group} (h : ¬ q.illegal s g.settle)
    (hr : roleAllows g.settle.role q.op = false) : gate q s g = .trap 0x03 q.word := by
  have hc : ¬ (decide (g.settle.budget < q.vtop) || !q.types.contains (effType s g.settle)) = true := by
    simpa [Desc.illegal] using h
  exact (if_neg hc).trans (if_pos (by rw [hr]; rfl))

theorem gate_of_priv {q : Desc} {s : State} {g : Group} (h : ¬ q.illegal s g.settle)
    (hr : roleAllows g.settle.role q.op = true) (hp : q.priv.ok g.settle.state = false) : gate q s g = .trap 0x04 q.word := by
  have hc : ¬ (decide (g.settle.budget < q.vtop) || !q.types.contains (effType s g.settle)) = true := by
    simpa [Desc.illegal] using h
  exact (if_neg hc).trans ((if_neg (by rw [hr]; decide)).trans (if_pos (by rw [hp]; rfl)))

/-- Every role may issue the control instructions. -/
theorem roleAllows_of_lt {r : Role} {op : Nat} (h : op < 0x40) : roleAllows r op = true := by
  cases r <;> simp [roleAllows, h]
  omega

/-- An instruction reserved to handler state that names no vector register and takes any type traps in normal state. -/
theorem issue_handler_of_normal {q : Desc} {s : State} {g : Group} (hg : s.group? s.cur = some g) (hv : q.vtop = 0)
    (ht : q.types = setA) (hop : q.op < 0x40) (hp : q.priv = .handler) (hn : g.settle.state = .normal)
    (k : Group → Mask → Out) : issue q s k = .next (takeTrap s 0x04 q.word) := by
  have legal : ¬ q.illegal s g.settle := by
    rintro (h | h)
    · omega
    · exact h (ht ▸ effType_mem_setA s _)
  exact issue_of_trap hg (gate_of_priv legal (roleAllows_of_lt hop) (by rw [hp, hn]; rfl)) k

/-! ### A trap and the prefix latch (R97) -/

@[simp] theorem enterTrap_pfx (s : State) (g : Gid) (c : Nat) (pc v : Word) : (enterTrap s g c pc v).pfx = s.pfx := by
  unfold enterTrap
  dsimp only
  split
  · split <;> simp [State.escalate]
  · rfl

/-- A trap uses up the prefix of its instruction. -/
@[simp] theorem takeTrapAt_pfx (s : State) (g : Gid) (c : Nat) (pc v : Word) : (takeTrapAt s g c pc v).pfx = none := by
  unfold takeTrapAt
  dsimp only
  split
  · split
    · simp
    · simp
    · split <;> split <;> simp
  · rfl

theorem takeTrap_pfx {s : State} {x : Group} (h : s.group? s.cur = some x) (c : Nat) (v : Word) : (takeTrap s c v).pfx = none := by
  simp [takeTrap, h]

/-! ### The prefix word (R93 to R96) -/

/-- The prefix that the fields of a prefix word stand for. -/
def prefixOf (p : BitVec 5) (n z : BitVec 1) (r : BitVec 3) (t : BitVec 4) (c : BitVec 7) : Prefix :=
  ⟨p.toNat, n = 1, z = 1, r.toNat, t, c.toNat, encode (.pfx p n z r t c)⟩

variable {p : BitVec 5} {n z : BitVec 1} {r : BitVec 3} {t : BitVec 4} {c : BitVec 7}

theorem exec_pfx_of_base {s : State} {g : Group} {b : Word} (hg : s.group? s.cur = some g)
    (hb : fetchWord s s.cur g (g.pc + 4) = some b) :
    exec (.pfx p n z r t c) s =
      if prefixable (opOf b) = false then .next (takeTrap s 0x01 b)
      else if prefixReserved (prefixOf p n z r t c) (opOf b) = true then .next (takeTrap s 0x02 (encode (.pfx p n z r t c)))
      else .next { s with pfx := some (prefixOf p n z r t c) } := by
  show execPfx p n z r t c s = _
  simp only [execPfx, hg, hb, Bool.not_eq_true']
  rfl

theorem usesVc_iff {op : Nat} : usesVc op = true ↔ op ∈ [0x44, 0x83, 0x94, 0x95, 0x96, 0xA7] := by
  simp [usesVc, or_assoc]

theorem prefixReserved_iff {op : Nat} : prefixReserved (prefixOf p n z r t c) op = true ↔
    (c ≠ 0 ∧ op ∉ [0x44, 0x83, 0x94, 0x95, 0x96, 0xA7]) ∨ (r ≠ 0 ∧ op = 0x92) ∨ (z = 1 ∧ op = 0x5F) := by
  have zero {w : Nat} (x : BitVec w) : x.toNat = 0 ↔ x = 0 := by simp [BitVec.toNat_eq]
  simp only [prefixReserved, prefixOf, Bool.or_eq_true, Bool.and_eq_true, decide_eq_true_eq, Bool.not_eq_true', ne_eq, zero,
    ← usesVc_iff, Bool.not_eq_true, or_assoc]

theorem prefixable_iff {op : Nat} : prefixable op = true ↔
    (0x40 ≤ op ∧ op ≤ 0x62) ∨ (0x80 ≤ op ∧ op ≤ 0x98) ∨ (0xA0 ≤ op ∧ op ≤ 0xAF) ∨ (0xB0 ≤ op ∧ op ≤ 0xB3) := by
  simp [prefixable, or_assoc]

/-! ### Registers read after writes, and results (R83, R84) -/

theorem Regs.readS_writeS_same (x : Regs) {a : Nat} (w : Word) (h : a < 60) : (x.writeS a w).readS a = w := by
  simp [Regs.readS, Regs.writeS, h]

theorem Regs.readS_writeS_other (x : Regs) {a k : Nat} (w : Word) (ha : a < 60) (hk : k < 60) (hne : k ≠ a) :
    (x.writeS a w).readS k = x.readS k := by
  simp [Regs.readS, Regs.writeS, ha, hk, getAt_setAt_other _ _ _ _ _ hne]

/-- A scalar result is a write of its register. -/
theorem Regs.apply_scal (x : Regs) (a : Nat) (w : Word) : x.apply (codeS a) (.scal w) = x.writeS a w := by
  simp [Regs.apply, codeS]

theorem Regs.apply_vec (x : Regs) (a : Nat) (m : Mask) (vs : List Word) :
    x.apply a (.vec m vs) = if m = 0 then x else x.writeV a m (laneGet vs) := rfl

/-- A vector result changes the lanes of its mask. -/
theorem Regs.readV_apply_same (x : Regs) (a : Nat) (m : Mask) (vs : List Word) {l : Nat} (hl : l < 128) :
    (x.apply a (.vec m vs)).readV a l = if m.getLsbD l then laneGet vs l else x.readV a l := by
  rw [Regs.apply_vec]
  split
  · simp [‹m = 0›]
  · simp [Regs.readV, Regs.vreg, Regs.writeV, laneMerge, laneGet_lanes _ hl]

/-- A vector result changes no other register. -/
theorem Regs.readV_apply_other (x : Regs) {a k : Nat} (m : Mask) (vs : List Word) (l : Nat) (hne : k ≠ a) :
    (x.apply a (.vec m vs)).readV k l = x.readV k l := by
  rw [Regs.apply_vec]
  split
  · rfl
  · simp [Regs.readV, Regs.vreg, Regs.writeV, getAt_setAt_other _ _ _ _ _ hne]

/-- A result of minimum 0 is in place at once. -/
theorem Group.result_zero_regs (x : Group) (code : Nat) (v : RegVal) : (x.result 0 code v).regs = x.regs.apply code v := rfl

/-- A result of another minimum leaves the registers as they are. -/
theorem Group.result_regs_of_pos (x : Group) {min : Nat} (code : Nat) (v : RegVal) (h : 0 < min) :
    (x.result min code v).regs = x.regs := by
  simp [Group.result, Nat.ne_of_gt h]

/-- The only result on its way is in place from the issue position on that lies its minimum and 1 after its own. -/
theorem Group.settle_result_regs (x : Group) {min : Nat} (code : Nat) (v : RegVal) (pos : Nat) (h : 0 < min) (hp : x.pend = []) :
    ({ x.result min code v with pos := pos }.settle).regs
      = if x.pos + 1 + min ≤ pos then x.regs.apply code v else x.regs := by
  simp only [Group.result, Nat.ne_of_gt h, if_false, hp, List.nil_append, Group.settle, settleLoop]
  split <;> rfl

/-! ### Groups that go on and groups that wait -/

/-- The group x after its instruction q has retired in s and it goes on at the next one. -/
def retired (s : State) (q : Desc) (x : Group) : Group := { x.endChain.retire q.st (nextPc s x) with since := s.gt }

theorem group_finish {s : State} {g0 : Group} (q : Desc) (x : Group) (h : s.group? s.cur = some g0) :
    (finish s q x).group? s.cur = some (retired s q x) :=
  group_finishAt s q x.endChain g0 (nextPc s x) h

theorem State.group_of_crew {s : State} {g : Gid} {k : Crew} (h : s.crew? g.core g.slot = some k) :
    s.group? g = getAt none k.groups g.grp := by
  simp only [State.group?, h]

/-- An instruction that changes its crew does so after it has retired. -/
theorem crewOp_of_crew {s : State} {g0 : Group} {k : Crew} (q : Desc) (x : Group) (f : Crew → Group → Crew)
    (hk : s.crew? s.cur.core s.cur.slot = some k) (hg : s.group? s.cur = some g0) :
    crewOp s q x f = .next ((finish s q x).setCrew s.cur.core s.cur.slot
      (some (f (k.setGroup s.cur.grp (some (retired s q x))) (retired s q x)))) := by
  have hcrew : (finish s q x).crew? s.cur.core s.cur.slot = some (k.setGroup s.cur.grp (some (retired s q x))) :=
    crew_finishAt s q x.endChain (nextPc s x) k hk
  simp only [crewOp, hcrew, group_finish q x hg]

/-- A resident group that is changed. -/
theorem State.group_modGroup {s : State} {g : Gid} {x : Group} (f : Group → Group) (h : s.group? g = some x) :
    (s.modGroup g f).group? g = some (f x) := by
  obtain ⟨k, hk, -⟩ := State.crew_of_group s g x h
  simp only [State.modGroup, h]
  exact State.group_setGroup s g _ k hk

/-- A core that is written with its crews as they were leaves every group as it was. -/
theorem State.group_setCore {s : State} {c : Nat} {x : Core} (h : x.crews = (s.core c).crews) (g : Gid) :
    (s.setCore c x).group? g = s.group? g := by
  have hcrew : (s.setCore c x).crew? g.core g.slot = s.crew? g.core g.slot := by
    by_cases hc : g.core = c
    · simp [State.crew?, hc, h]
    · simp [State.crew?, State.core_setCore_other _ _ _ _ hc]
  simp only [State.group?, hcrew]

@[simp] theorem State.group_escalate (s : State) (c : Nat) (e : EscEntry) (g : Gid) : (s.escalate c e).group? g = s.group? g :=
  State.group_setCore (x := { s.core c with escQueue := (s.core c).escQueue ++ [e] }) rfl g

/-- Writing a group leaves the escalation queue of every core. -/
@[simp] theorem State.escQueue_setGroup (s : State) (g : Gid) (x : Option Group) (c : Nat) :
    ((s.setGroup g x).core c).escQueue = (s.core c).escQueue := by
  unfold State.setGroup
  split
  · rfl
  · by_cases hc : c = g.core
    · simp [State.setCrew, hc]
    · simp [State.setCrew, State.core_setCore_other _ _ _ _ hc]

@[simp] theorem State.escQueue_modGroup (s : State) (g : Gid) (f : Group → Group) (c : Nat) :
    ((s.modGroup g f).core c).escQueue = (s.core c).escQueue := by
  unfold State.modGroup
  split <;> simp

@[simp] theorem escQueue_finish (s : State) (q : Desc) (x : Group) (c : Nat) :
    ((finish s q x).core c).escQueue = (s.core c).escQueue :=
  State.escQueue_setGroup s s.cur _ c

@[simp] theorem State.escQueue_escalate (s : State) (c : Nat) (e : EscEntry) :
    ((s.escalate c e).core c).escQueue = (s.core c).escQueue ++ [e] := by
  simp [State.escalate]

/-! ### Code lines that are fetched ahead (R16, R138) -/

/-- The last of two writes of one place stands. -/
theorem setAt_setAt_same {α : Type} (d : α) (xs : List α) (n : Nat) (v w : α) : setAt d (setAt d xs n v) n w = setAt d xs n w := by
  induction xs generalizing n with
  | nil =>
    induction n with
    | zero => rfl
    | succ n ih => simpa [setAt] using ih
  | cons x xs ih => cases n <;> simp [setAt, ih]

@[simp] theorem State.setCore_setCore (s : State) (c : Nat) (x y : Core) : (s.setCore c x).setCore c y = s.setCore c y := by
  simp [State.setCore, setAt_setAt_same]

/-- A core that has fetched some lines, in order. -/
def Core.holdLines (c : Core) (ls : List Nat) : Core := ls.foldl Core.holdCode c

/-- Fetching a list of code lines fills the core's instruction cache and changes nothing else. -/
theorem foldl_fetchLine (s : State) (part base i : Nat) (is : List Nat) :
    (i :: is).foldl (fun s i => s.fetchLine s.cur.core part base (i * 128)) s
      = s.setCore s.cur.core ((s.core s.cur.core).holdLines ((i :: is).map fun i => lineOf (hdmAddr (s.part part) (base + i * 128)))) := by
  induction is generalizing s i with
  | nil => rfl
  | cons j is ih =>
    rw [List.foldl_cons, ih]
    simp [State.fetchLine, Core.holdLines]

/-- Writing a group writes the crews of its core, so that to write this core as it is before changes nothing. -/
theorem State.setGroup_setCore_self {s : State} {g : Gid} {k : Crew} (x : Option Group) (h : s.crew? g.core g.slot = some k) :
    (s.setCore g.core (s.core g.core)).setGroup g x = s.setGroup g x := by
  have hcrew : (s.setCore g.core (s.core g.core)).crew? g.core g.slot = some k := by
    simpa [State.crew?] using h
  simp only [State.setGroup, h, hcrew, State.setCrew, State.core_setCore, State.setCore_setCore]

theorem finish_setCore_self {s : State} {k : Crew} (q : Desc) (x : Group) (h : s.crew? s.cur.core s.cur.slot = some k) :
    finish (s.setCore s.cur.core (s.core s.cur.core)) q x = finish s q x :=
  congrArg (fun t : State => { t with pfx := none }) (State.setGroup_setCore_self (g := s.cur) _ h)

/-- The cache of a core after fetches holds nothing but what it held and what was fetched. -/
theorem Core.mem_holdLines {c : Core} {ls : List Nat} {l : Nat} (h : l ∈ (c.holdLines ls).icache) : l ∈ c.icache ∨ l ∈ ls := by
  induction ls generalizing c with
  | nil => exact .inl h
  | cons a ls ih =>
    obtain hc | hl := ih (c := c.holdCode a) h
    · have hmem := List.mem_of_mem_take hc
      simp only [List.mem_cons, List.mem_filter] at hmem ⊢
      tauto
    · exact .inr (List.mem_cons_of_mem _ hl)

/-- What stands among the first n of a list stands among the first n of those that a test keeps, where it is kept. -/
theorem mem_take_filter {α : Type} {f : α → Bool} {x : α} (hf : f x = true) :
    ∀ {n : Nat} {xs : List α}, x ∈ xs.take n → x ∈ (xs.filter f).take n
  | 0, _, h => by simp at h
  | _ + 1, [], h => by simp at h
  | n + 1, y :: ys, h => by
    rw [List.take_succ_cons, List.mem_cons] at h
    by_cases hy : f y = true
    · rw [List.filter_cons_of_pos hy, List.take_succ_cons, List.mem_cons]
      exact h.imp_right (mem_take_filter hf)
    · obtain rfl | h := h
      · exact absurd hf hy
      · rw [List.filter_cons_of_neg hy]
        exact (List.take_prefix_take_left (Nat.le_succ n)).subset (mem_take_filter hf h)

/-- A line that is among the n latest used is among the n + 1 latest when one more has been fetched. -/
theorem Core.mem_take_holdCode {c : Core} {n l a : Nat} (hn : n < icacheLines) (h : l = a ∨ l ∈ c.icache.take n) :
    l ∈ (c.holdCode a).icache.take (n + 1) := by
  simp only [Core.holdCode, List.take_take, Nat.min_eq_left (Nat.succ_le_of_lt hn), List.take_succ_cons, List.mem_cons]
  by_cases hla : l = a
  · exact .inl hla
  · exact .inr (mem_take_filter (by simpa using hla) (h.resolve_left hla))

/-- While no line has had to make room, each line that is fetched stays in the cache. -/
theorem Core.mem_take_holdLines {c : Core} {ls : List Nat} {n l : Nat} (hlen : n + ls.length ≤ icacheLines)
    (h : l ∈ ls ∨ l ∈ c.icache.take n) : l ∈ (c.holdLines ls).icache.take (n + ls.length) := by
  induction ls generalizing c n with
  | nil => exact h.resolve_left (by simp)
  | cons a ls ih =>
    rw [List.length_cons, Nat.add_comm ls.length, ← Nat.add_assoc] at hlen ⊢
    refine ih (c := c.holdCode a) hlen ?_
    rw [List.mem_cons, or_assoc] at h
    obtain h | h | h := h
    · exact .inr (Core.mem_take_holdCode (by omega) (.inl h))
    · exact .inl h
    · exact .inr (Core.mem_take_holdCode (by omega) (.inr h))

/-- Lines that the cache can hold are all there once they have been fetched. -/
theorem Core.mem_holdLines_of_mem {c : Core} {ls : List Nat} {l : Nat} (hlen : ls.length ≤ icacheLines) (h : l ∈ ls) :
    l ∈ (c.holdLines ls).icache :=
  List.mem_of_mem_take (Core.mem_take_holdLines (n := 0) (by omega) (.inl h))

@[simp] theorem Core.holdLines_rest (c : Core) (ls : List Nat) : { c.holdLines ls with icache := [] } = { c with icache := [] } := by
  induction ls generalizing c with
  | nil => rfl
  | cons a ls ih => exact ih (c.holdCode a)

/-- The target of a branch of 21 bits. -/
theorem target_eq (s : State) (x : Group) (d : BitVec 21) : target s x 21 d.toNat = basePc s x + 4 * d.signExtend 32 := by
  have hd : signedOf 21 d.toNat = d.toInt := by
    rw [signedOf, BitVec.toInt_eq_toNat_cond, Nat.mod_eq_of_lt d.isLt]
    split <;> split <;> omega
  rw [target, hd, BitVec.ofInt_mul]
  rfl

/-- Code lines that are fetched before an instruction retires change the state that it leaves in the core's instruction cache alone. -/
theorem finish_foldl_fetchLine {s : State} {k : Crew} (hk : s.crew? s.cur.core s.cur.slot = some k) (part base : Nat) (is : List Nat)
    (q : Desc) (x : Group) :
    finish (is.foldl (fun s i => s.fetchLine s.cur.core part base (i * 128)) s) q x
      = finish (s.setCore s.cur.core ((s.core s.cur.core).holdLines (is.map fun i => lineOf (hdmAddr (s.part part) (base + i * 128))))) q x := by
  cases is with
  | nil => exact (finish_setCore_self q x hk).symm
  | cons i is => rw [foldl_fetchLine]

/-- The four code lines from `first` on, those within the code. -/
def linesAhead (first size : Nat) : List Nat := ((List.range 4).map fun i => first + i).filter fun i => i * 128 < size

theorem mem_linesAhead {first size n : Nat} : n ∈ linesAhead first size ↔ ∃ i, i < 4 ∧ n * 128 < size ∧ n = first + i := by
  simp only [linesAhead, List.mem_filter, List.mem_map, List.mem_range, decide_eq_true_eq]
  constructor
  · rintro ⟨⟨i, hi, rfl⟩, hn⟩
    exact ⟨i, hi, hn, rfl⟩
  · rintro ⟨i, hi, hn, rfl⟩
    exact ⟨⟨i, hi, rfl⟩, hn⟩

theorem length_linesAhead_le (first size : Nat) : (linesAhead first size).length ≤ 4 :=
  (List.length_filter_le _ _).trans (by simp)

/-- R138: IPREF fetches the lines and goes on. -/
theorem exec_ipref {st : BitVec 3} {d : BitVec 21} {s : State} {x : Group} {k : Crew}
    (hk : s.crew? s.cur.core s.cur.slot = some k) (h : Ready { word := encode (.ipref st d), op := 0x1B, st := st.toNat } s x) :
    exec (.ipref st d) s = .next (finish (s.setCore s.cur.core ((s.core s.cur.core).holdLines
      ((linesAhead ((basePc s x + 4 * d.signExtend 32).toNat / 128) x.codeSize).map fun i =>
        lineOf (hdmAddr (s.part k.part) (x.codeBase + i * 128)))))
      { word := encode (.ipref st d), op := 0x1B, st := st.toNat } x) := by
  refine (issue_of_ready h _).trans (congrArg Host.Outcome.next ?_)
  rw [← target_eq, ← finish_foldl_fetchLine hk]
  simp only [hk]
  rfl

/-! ### The global time (R138) -/

/-- R138: WAITGT's deadline, as a number of 64 bits. -/
theorem pairOf_toNat (lo hi : Word) : (pairOf lo hi).toNat = hi.toNat * 4294967296 + lo.toNat := by
  rw [pairOf, BitVec.toNat_append, ← Nat.shiftLeft_add_eq_or_of_lt lo.isLt, Nat.shiftLeft_eq]

end Sys2Proof.Machine
end

section
/-! CERTIFICATES. The statements about encoding, prefixes, results, modes and the order of traps. -/

namespace Sys2Proof.Machine

open Sys2Proof

/-! ### Encoding -/

/-- Settles O54: an instruction's word gives its fields back, and the rows of the decoder answer only instructions that have the word. -/
theorem encodingRoundTrip : Obligations.EncodingRoundTrip := by
  refine ⟨fun i hi hwf => decode_of_rawDecode (rawDecode_encode i hi) hwf, fun w i h => ?_⟩
  obtain rfl | hraw := decode_cases h
  · rfl
  · exact (rawDecode_answers w i hraw).1

/-- Settles O53: the words of well-formed instructions decode to them; of the other words the fixed bits or the field values are reserved, or the grid
has no mnemonic. -/
theorem decodingExamples : Obligations.DecodingExamples := by
  have reads : ∀ i : Instr, i.encoded = true → i.wf = true → decode (encode i) = .ok i := encodingRoundTrip.1
  exact ⟨reads (.nop 0) rfl rfl, reads (.ldu 0 5 0 16) rfl rfl, reads (.sadd 3 5 3 4 0) rfl rfl, reads (.vadd 0 7 1 2) rfl rfl,
    reads (.ffma 7 8 1 2) rfl rfl, reads (.bra 0 0x1FFFFF) rfl rfl, reads (.exit 0) rfl rfl, ⟨"EXIT", rfl⟩, ⟨"LD", rfl⟩, rfl⟩

/-! ### Prefixes -/

/-- Settles O19: with a base word at hand the prefix word's three answers are those of the pair's checks. -/
theorem prefixPair : Obligations.PrefixPair := by
  intro p n z r t c s g b i w op usesC bad hg hb
  have answer := exec_pfx_of_base (p := p) (n := n) (z := z) (r := r) (t := t) (c := c) hg hb
  refine ⟨fun hop => answer.trans (if_pos hop), fun hop hbad => ?_, fun hop hbad => ?_⟩
  · exact answer.trans ((if_neg (by rw [hop]; decide)).trans (if_pos (prefixReserved_iff.mpr hbad)))
  · exact answer.trans ((if_neg (by rw [hop]; decide)).trans (if_neg fun h => hbad (prefixReserved_iff.mp h)))

/-- Settles O51: a prefix without rounding and fourth operand joins its base word or is reserved by its zeroing before VRED alone,
and the trap of a base word that takes no prefix leaves no prefix behind. -/
theorem prefixAccepted : Obligations.PrefixAccepted := by
  intro n z t s g b hg hb op accepted
  obtain ⟨traps, -, joins⟩ := prefixPair 31 n z 0 t 0 s g b hg hb
  refine ⟨fun hop hz => ⟨_, _, joins (prefixable_iff.mpr hop) ?_, rfl⟩, fun hop => ⟨_, traps ?_, takeTrap_pfx hg 0x01 b, rfl⟩⟩
  · rintro (⟨hc, -⟩ | ⟨hr, -⟩ | ⟨hz1, hop1⟩)
    · exact hc rfl
    · exact hr rfl
    · exact hz hz1 hop1
  · exact Bool.eq_false_iff.mpr fun h => hop (prefixable_iff.mp h)

/-! ### The order of traps -/

/-- R104, R103: the gate's first three tests, in its order. -/
theorem trapOrder : Claims.TrapOrder := fun _ _ _ k hg =>
  ⟨fun h => issue_of_trap hg (gate_of_illegal h) k, fun h hr => issue_of_trap hg (gate_of_role h hr) k,
    fun h hr hp => issue_of_trap hg (gate_of_priv h hr hp) k⟩

/-- R123: the instructions reserved to handler state need no vector register and take any type, so that their privilege is the first test that they fail. -/
theorem handlerOnly : Claims.HandlerOnly := fun _ _ _ _ hg hn =>
  have hrft : 0x14 < 0x40 := by decide
  have hesc : 0x15 < 0x40 := by decide
  ⟨issue_handler_of_normal hg rfl rfl hrft rfl hn _, issue_handler_of_normal hg rfl rfl hrft rfl hn _,
    issue_handler_of_normal hg rfl rfl hesc rfl hn _⟩

/-- R48: an opcode outside its role's classes fails the gate's second test. -/
theorem roleTraps : Claims.RoleTraps := by
  intro q s g k hg hv ht op common allowed hnot
  have legal : ¬ q.illegal s g.settle := by
    rintro (h | h)
    · omega
    · exact h ht
  refine issue_of_trap hg (gate_of_role legal (Bool.eq_false_iff.mpr fun h => hnot ?_)) k
  show allowed
  unfold allowed
  revert h
  cases g.settle.role <;> simp only [roleAllows, Bool.or_eq_true, Bool.and_eq_true, decide_eq_true_eq, common, op]
  case general => exact fun _ => trivial
  all_goals omega

/-- Settles O17. -/
theorem orderOfTrapConditions : Obligations.OrderOfTrapConditions := ⟨trapOrder, handlerOnly, roleTraps⟩

/-! ### Results -/

/-- Settles O46: a result of minimum 0 is applied to the registers, and any other is the only one on its way. -/
theorem resultTiming : Obligations.ResultTiming := by
  intro x min n w m vs r l hp
  refine ⟨fun hn => ⟨?_, fun hmin => ⟨Group.result_regs_of_pos x _ _ hmin, fun pos => ?_⟩⟩,
    fun _ hl => ⟨?_, fun hmin => ⟨Group.result_regs_of_pos x _ _ hmin, fun pos => ?_⟩⟩⟩
  · rintro rfl
    rw [Group.result_zero_regs, Regs.apply_scal]
    exact ⟨Regs.readS_writeS_same _ w hn, fun k hk hne => Regs.readS_writeS_other _ w hn hk hne⟩
  · rw [Group.settle_result_regs x _ _ pos hmin hp, Regs.apply_scal]
    split
    · exact Regs.readS_writeS_same _ w hn
    · rfl
  · rintro rfl
    rw [Group.result_zero_regs]
    exact ⟨Regs.readV_apply_same _ r m vs hl, fun k hne => Regs.readV_apply_other _ m vs l hne⟩
  · rw [Group.settle_result_regs x _ _ pos hmin hp, ite_and]
    split
    · exact Regs.readV_apply_same _ r m vs hl
    · rfl

/-! ### Modes, time, hints and the instructions that trap -/

/-- R92, R132, R138, R16, R56, R131: each instruction is ready, so that it makes its own effect alone. -/
theorem modesAndTime : Claims.ModesAndTime := by
  intro st s x
  refine ⟨?setmw, ?chain, ?reads, ?waitgt, ?ipref, ?phint⟩
  case setmw =>
    intro i q h
    exact ⟨fun hr => (issue_of_ready h _).trans (if_pos hr), fun hr => (issue_of_ready h _).trans (if_neg (by rw [hr]; decide))⟩
  case chain =>
    intro n q h
    exact issue_of_ready h _
  case reads =>
    intro d q q2
    exact ⟨fun h => uniform_of_ready h _, fun h => uniform_of_ready h _⟩
  case waitgt =>
    intro a f q t h
    obtain ⟨g, hg, -⟩ := h.group
    have answer : exec (.waitgt st a f) s
        = if t ≤ s.gt then .next (finish s q x) else .next ((finish s q x).modGroup s.cur fun y => { y with wait := .gt t }) := by
      refine (issue_of_ready h _).trans ?_
      simp only [pairOf_toNat]
      rfl
    exact ⟨fun hle => answer.trans (if_pos hle), fun hlt => ⟨_, _, answer.trans (if_neg (Nat.not_le.mpr hlt)),
      State.group_modGroup _ (group_finish q x hg), rfl, rfl⟩⟩
  case ipref =>
    intro d q line k hk h
    refine ⟨_, exec_ipref hk h, Core.holdLines_rest _ _, fun i hi hsize => ?_, fun n hn => ?_⟩
    · refine Core.mem_holdLines_of_mem ?_ (List.mem_map_of_mem (mem_linesAhead.mpr ⟨i, hi, hsize, rfl⟩))
      rw [List.length_map]
      exact (length_linesAhead_le _ _).trans (by decide)
    · refine (Core.mem_holdLines hn).imp_right fun hl => ?_
      obtain ⟨_, hmem, rfl⟩ := List.mem_map.mp hl
      obtain ⟨i, hi, hsize, rfl⟩ := mem_linesAhead.mp hmem
      exact ⟨i, hi, hsize, rfl⟩
  case phint =>
    intro a b k q hk h
    obtain ⟨g, hg, -⟩ := h.group
    have answer : exec (.phint st a b) s
        = if !k.preemptAt.isSome || x.state ≠ .normal then .next (finish s q x)
          else crewOp s q x fun k y => { k.setGroup s.cur.grp (some { y with halt := .saving }) with
            hints := k.hints ++ [(s.cur.grp, hintMask x a.toNat, hintRanges x b.toNat (scratchBytes k.granules))] } := by
      refine (issue_of_ready h _).trans ?_
      simp only [hk]
      rfl
    refine ⟨fun hgo => answer.trans (if_pos (by simpa using hgo)), fun hpend hnormal => ?_⟩
    have stops := (answer.trans (if_neg (by simpa using ⟨hpend, hnormal⟩))).trans (crewOp_of_crew q x _ hk hg)
    exact ⟨_, _, _, stops, (State.group_of_crew (State.crew_setCrew _ _ _ _)).trans (getAt_setAt_same _ _ _ _), rfl, rfl,
      State.crew_setCrew _ _ _ _, rfl⟩

/-- R133, R134, R103, R124, R252: the two trap instructions and the two faults are their traps, and ESC waits and escalates once it has retired. -/
theorem trapInstructions : Claims.TrapInstructions := by
  intro st i s x q
  refine ⟨fun h => issue_of_ready h _, fun h => issue_of_ready h _, fun w off hg => ⟨?_, ?_⟩, fun h => ?_⟩
  · show execUndefinedOpcode w s = _
    simp only [execUndefinedOpcode, hg]
  · show execInstructionFetchFault off s = _
    simp only [execInstructionFetchFault, hg]
  · obtain ⟨g, hg, -⟩ := h.group
    refine ⟨_, _, issue_of_ready h _, (State.group_escalate _ _ _ _).trans (State.group_modGroup _ (group_finish _ x hg)), rfl, rfl, ?_⟩
    rw [State.escQueue_escalate, State.escQueue_modGroup, escQueue_finish]

/-- Settles O14. -/
theorem modesTimeAndTraps : Obligations.ModesTimeAndTraps := ⟨modesAndTime, trapInstructions⟩

end Sys2Proof.Machine
end

section
/-! SUPPORT. Flags and the traps that they take, the results and flags of the active lanes, and the members of a chain. -/

namespace Sys2Proof.Machine

open Sys2Proof

/-! ### Flags (R118, R120) -/

/-- A flag of one bit is among some flags where its bit is set. -/
theorem decide_and_twoPow_ne_zero {f c : FlagBits} {j : Nat} (hc : c = BitVec.twoPow 7 j) (hj : j < 7) :
    decide (f &&& c ≠ 0) = f.getLsbD j := by
  have hpos : BitVec.twoPow 7 j ≠ 0#7 := fun h => by
    have hbit := congrArg (BitVec.getLsbD · j) h
    simp [hj] at hbit
  rw [hc, BitVec.and_twoPow]
  cases f.getLsbD j
  · simp
  · simpa using hpos

theorem enabledCause_eq (mw : Word) (f : FlagBits) : enabledCause mw f =
    if mw.getLsbD 17 && f.getLsbD 0 then some 0x20 else if mw.getLsbD 18 && f.getLsbD 1 then some 0x21
    else if mw.getLsbD 19 && f.getLsbD 2 then some 0x22 else if mw.getLsbD 20 && f.getLsbD 5 then some 0x28
    else if mw.getLsbD 20 && f.getLsbD 6 then some 0x29 else none := by
  rw [enabledCause, decide_and_twoPow_ne_zero (c := flagIV) (j := 0) rfl (by decide),
    decide_and_twoPow_ne_zero (c := flagDZ) (j := 1) rfl (by decide), decide_and_twoPow_ne_zero (c := flagOF) (j := 2) rfl (by decide),
    decide_and_twoPow_ne_zero (c := flagMQC) (j := 5) rfl (by decide), decide_and_twoPow_ne_zero (c := flagMQR) (j := 6) rfl (by decide)]
  rfl

/-! ### Results and flags of the active lanes (R119, R143) -/

theorem getAt_lanes {α : Type} (d : α) (f : Nat → α) {l : Nat} (h : l < 128) : getAt d (lanes.map f) l = f l := by
  simp only [lanes, laneCount, getAt_map_range, h, if_true]

/-- A part of the result of an active lane. -/
theorem getAt_laneResults {α β : Type} (d : β) (z : α) {m : Mask} (f : Nat → α) (p : α → β) {l : Nat} (h : l < 128)
    (hm : m.getLsbD l = true) : getAt d ((laneResults z m f).map p) l = p (f l) := by
  rw [laneResults, List.map_map, getAt_lanes d _ h, Function.comp_apply, if_pos hm]

theorem laneGet64_laneMerge64 (m : Mask) (old : List DWord) (f : Nat → DWord) {l : Nat} (h : l < 128) :
    laneGet64 (laneMerge64 m old f) l = if m.getLsbD l then f l else laneGet64 old l :=
  getAt_lanes 0 _ h

theorem getLsbD_unionFlags (fs : List (Nat × FlagBits)) (j : Nat) :
    (unionFlags fs).getLsbD j = fs.any fun p => p.2.getLsbD j := by
  have fold (a : FlagBits) : (fs.foldl (fun a p => a ||| p.2) a).getLsbD j = (a.getLsbD j || fs.any fun p => p.2.getLsbD j) := by
    induction fs generalizing a with
    | nil => simp
    | cons p fs ih => rw [List.foldl_cons, ih, BitVec.getLsbD_or, List.any_cons, Bool.or_assoc]
  exact (fold 0).trans (by rw [BitVec.ofNat_eq_ofNat, BitVec.getLsbD_zero, Bool.false_or])

theorem laneFlags_map_lanes (f : Nat → FlagBits) : laneFlags (lanes.map f) = lanes.map fun l => (l, f l) :=
  List.map_prod_left_eq_zip.symm

/-- A flag is joined where an active lane raises it; the other lanes raise none. -/
theorem getLsbD_unionFlags_laneResults {α : Type} {z : α} {p : α → FlagBits} (hz : p z = 0) (m : Mask) (f : Nat → α) (j : Nat) :
    (unionFlags (laneFlags ((laneResults z m f).map p))).getLsbD j = true
      ↔ ∃ l, l < 128 ∧ m.getLsbD l = true ∧ (p (f l)).getLsbD j = true := by
  rw [laneResults, List.map_map, laneFlags_map_lanes, getLsbD_unionFlags, List.any_map, List.any_eq_true]
  simp only [lanes, laneCount, List.mem_range, Function.comp_apply]
  refine exists_congr fun l => and_congr_right fun _ => ?_
  by_cases hl : m.getLsbD l = true
  · simp only [hl, if_true, true_and]
  · simp only [hl, if_false, hz, BitVec.ofNat_eq_ofNat, BitVec.getLsbD_zero, false_and, Bool.false_eq_true]

/-- The joined flags are those whose bits the active lanes raise. -/
theorem eq_unionFlags_laneResults {α : Type} {z : α} {p : α → FlagBits} (hz : p z = 0) {m : Mask} {f : Nat → α} {F : FlagBits}
    (h : ∀ j, j < 7 → (F.getLsbD j = true ↔ ∃ l, l < 128 ∧ m.getLsbD l = true ∧ (p (f l)).getLsbD j = true)) :
    unionFlags (laneFlags ((laneResults z m f).map p)) = F :=
  BitVec.eq_of_getLsbD_eq fun j hj =>
    Bool.eq_iff_iff.mpr ((getLsbD_unionFlags_laneResults hz m f j).trans (h j hj).symm)

/-- Flags none of which is enabled as a trap reach FLAGS, and the instruction goes on. -/
theorem withFlags_of_none {s : State} {g : Group} {fs : List (Nat × FlagBits)}
    (h : enabledCause g.regs.mw (unionFlags fs) = none) (k : Group → Out) : withFlags s g fs k = k (g.raise (unionFlags fs)) := by
  simp only [withFlags, h]

/-! ### Members of a chain (R117) -/

variable {q : Desc} {d : Nat} {rs : List Nat} {op : FloatOp} {s : State} {x : Group}

theorem chainOp_of_empty (hr : Ready { q with masked := true, writes := [d] } s x) (hcc : x.regs.cc ≠ 0) (ht : effType s x = 2)
    (hm : effMask s x = 0) :
    chainOp q d rs op s = .next (finishMember s { q with masked := true, writes := [d] } (x.member 0 d [])) := by
  refine (issue_of_ready hr _).trans ((if_pos ?_).trans (if_pos hm))
  simp [hcc, ht]

/-- The lanes' words and flags under an effective mask, 0 in the lanes that are not active. -/
def memberLanes (op : FloatOp) (rs : List Nat) (s : State) (x : Group) : List (DWord × Word × FlagBits) :=
  laneResults (0, 0, 0) (effMask s x) (memberLane op rs s x)

theorem chainOp_of_member (hr : Ready { q with masked := true, writes := [d] } s x) (hcc : x.regs.cc ≠ 0) (ht : effType s x = 2)
    (hm : effMask s x ≠ 0) {F : FlagBits} (hF : unionFlags (laneFlags ((memberLanes op rs s x).map fun r => r.2.2)) = F)
    (hn : enabledCause x.regs.mw F = none) :
    chainOp q d rs op s = .next (finishMember s { q with masked := true, writes := [d] }
      (((x.raise F).member (effMask s x) d ((memberLanes op rs s x).map fun r => r.1)).result 1 d
        (.vec (effMask s x ||| zeroLanes s x (effMask s x)) ((memberLanes op rs s x).map fun r => r.2.1)))) := by
  subst hF
  refine (issue_of_ready hr _).trans ((if_pos ?_).trans ((if_neg hm).trans (withFlags_of_none hn _)))
  simp [hcc, ht]

/-- The flags that a member raises are those whose bits its active lanes raise. -/
theorem unionFlags_memberLanes {F : FlagBits} (h : ∀ j, j < 7 → (F.getLsbD j = true ↔
    ∃ l, l < 128 ∧ (effMask s x).getLsbD l = true ∧ (memberLane op rs s x l).2.2.getLsbD j = true)) :
    unionFlags (laneFlags ((memberLanes op rs s x).map fun r => r.2.2)) = F :=
  eq_unionFlags_laneResults (z := (0, 0, 0)) (p := fun r => r.2.2) rfl h

theorem laneGet64_memberLanes {l : Nat} (h : l < 128) (hm : (effMask s x).getLsbD l = true) :
    laneGet64 ((memberLanes op rs s x).map fun r => r.1) l = (memberLane op rs s x l).1 :=
  getAt_laneResults 0 (0, 0, 0) (memberLane op rs s x) (fun r => r.1) h hm

theorem laneGet_memberLanes {l : Nat} (h : l < 128) (hm : (effMask s x).getLsbD l = true) :
    laneGet ((memberLanes op rs s x).map fun r => r.2.1) l = (memberLane op rs s x l).2.1 :=
  getAt_laneResults 0 (0, 0, 0) (memberLane op rs s x) (fun r => r.2.1) h hm

/-- W where the previous member wrote it, else the register. -/
theorem memberRead_of_psr (hp : mwPsr x.regs.mw = false) (r l : Nat) : memberRead x r l =
    if x.regs.wv.getLsbD l && r == x.regs.prevDest && !(x.pend.any fun p => p.reg == r && p.val.covers l) then
      decodeFloat .b64 (laneGet64 x.regs.w l).toNat
    else readFloat .f32 (mwFtz x.regs.mw) (x.regs.readV r l).toNat := by
  simp only [memberRead, hp, Bool.not_false, Bool.and_true, beq_eq_decide]

/-- Without MW.PSR a member's lane is its exact value rounded to binary64, and that rounded to F32. -/
theorem memberLane_eq {f : Nat → FRes} (hp : mwPsr x.regs.mw = false)
    (hf : ∀ l, op .b64 0 false (rs.map fun r => memberRead x r l) = f l) (l : Nat) :
    let short := convFloat .f32 (effRnd s x) (mwFtz x.regs.mw) (decodeFloat .b64 (f l).1)
    memberLane op rs s x l = (BitVec.ofNat 64 (f l).1, BitVec.ofNat 32 short.1, (f l).2 ||| short.2) := by
  simp only [memberLane, hf, hp, Bool.false_eq_true, if_false]

end Sys2Proof.Machine
end

section
/-! SUPPORT. What an access raises, the least cause of some lanes with its lane, and the trap that an access takes. -/

namespace Sys2Proof.Machine

open Sys2Proof

/-! ### The least cause and its lane (R171, R198) -/

theorem leastCause_eq_min? (cs : List Nat) : leastCause cs = cs.min? := by
  have fold (cs : List Nat) (b : Nat) :
      cs.foldl (fun a c => match a with | none => some c | some b => some (min b c)) (some b) = some (cs.foldl min b) := by
    induction cs generalizing b with
    | nil => rfl
    | cons c cs ih => exact ih (min b c)
  cases cs with
  | nil => rfl
  | cons c cs => exact (fold cs c).trans List.min?_cons'.symm

theorem leastCause_eq_none_iff {cs : List Nat} : leastCause cs = none ↔ cs = [] := by
  rw [leastCause_eq_min?, List.min?_eq_none_iff]

theorem leastCause_eq_some_iff {cs : List Nat} {c : Nat} : leastCause cs = some c ↔ c ∈ cs ∧ ∀ c' ∈ cs, c ≤ c' := by
  rw [leastCause_eq_min?, List.min?_eq_some_iff]

theorem laneCauses_eq_none_iff {xs : List (Nat × List Nat)} : laneCauses xs = none ↔ ∀ e ∈ xs, e.2 = [] := by
  rw [← List.flatMap_eq_nil_iff, ← leastCause_eq_none_iff, laneCauses]
  cases leastCause (xs.flatMap Prod.snd) <;> simp

/-- The cause is the least of all lanes', and its lane the first in the list's order that raises it. -/
theorem laneCauses_eq_some {xs : List (Nat × List Nat)} {c l : Nat} (h : laneCauses xs = some (c, l)) :
    (∀ e ∈ xs, ∀ c' ∈ e.2, c ≤ c')
      ∧ ∃ above e below, xs = above ++ e :: below ∧ e.1 = l ∧ c ∈ e.2 ∧ ∀ e' ∈ above, c ∉ e'.2 := by
  unfold laneCauses at h
  split at h
  · cases h
  · obtain ⟨rfl, hlane⟩ := Prod.mk.inj (Option.some.inj h)
    obtain ⟨hmem, hle⟩ := leastCause_eq_some_iff.mp ‹_›
    refine ⟨fun e he c' hc => hle c' (List.mem_flatMap.mpr ⟨e, he, hc⟩), ?_⟩
    obtain ⟨e0, he0, hc0⟩ := List.mem_flatMap.mp hmem
    obtain ⟨e, he⟩ := Option.isSome_iff_exists.mp
      (List.find?_isSome (p := fun x : Nat × List Nat => x.2.contains _) |>.mpr ⟨e0, he0, List.contains_iff_mem.mpr hc0⟩)
    obtain ⟨hc, above, below, hxs, habove⟩ := List.find?_eq_some_iff_append.mp he
    refine ⟨above, e, below, hxs, ?_, List.contains_iff_mem.mp hc, fun e' he' => ?_⟩
    · rw [he] at hlane
      exact hlane
    · simpa using habove e' he'

/-! ### What an access raises (R170, R171, R174, R364) -/

/-- A list that holds one element under a condition. -/
theorem mem_ite_singleton {a b : Nat} {p : Prop} [Decidable p] : a ∈ (if p then [b] else []) ↔ a = b ∧ p := by
  rw [List.mem_ite_nil_right, List.mem_singleton, and_comm]

variable {s : State} {core part : Nat} {gs : GState} {cap : BitVec 128} {o z : Nat} {r : Right}

/-- R171, R174: what an access of a capability of an object that is no accumulator window raises. -/
theorem mem_accessCauses {c : Nat} (hw : accWindow? (capObj cap) = none) (hz : z ≠ 0) :
    c ∈ accessCauses s part gs cap o z r ↔
      (c = 0x09 ∧ (r.of cap = false
          ∨ (r ≠ .read ∧ entryMalformed (s.part part) (objEntry s part (capObj cap)) = false
            ∧ (entryCapb (objEntry s part (capObj cap)) = true ∨ entryRo (objEntry s part (capObj cap)) = true))
          ∨ capObj cap = 0))
      ∨ (c = 0x08 ∧ capLen cap < o + z) ∨ (c = 0x0A ∧ ¬ z ∣ capBase cap + o)
      ∨ (c = 0x11 ∧ capObj cap ≠ 0 ∧ (entryMalformed (s.part part) (objEntry s part (capObj cap)) = true
          ∨ entrySize (objEntry s part (capObj cap)) < capBase cap + o + z)) := by
  have halign : (decide (z ≠ 0) && decide ((capBase cap + o) % z ≠ 0)) = true ↔ ¬ z ∣ capBase cap + o := by
    simp [hz, Nat.dvd_iff_mod_eq_zero]
  by_cases hid : capObj cap = 0
  · simp only [accessCauses, hid, if_true, List.mem_cons, List.mem_append, mem_ite_singleton, halign, or_true, and_true, ne_eq,
      not_true_eq_false, false_and, and_false, or_false]
  · simp only [accessCauses, hid, hw, if_false, List.mem_append, mem_ite_singleton, halign, Bool.or_eq_true, Bool.and_eq_true,
      Bool.not_eq_true', decide_eq_true_eq, or_false, or_assoc, and_assoc, ne_eq, not_false_eq_true, true_and]

theorem mem_laneAccessCauses {c : Nat} : c ∈ laneAccessCauses s core part gs cap o z r ↔
    c ∈ accessCauses s part gs cap o z r ∨ (c = 0x11 ∧ accessRefused s core part cap o z r = true) := by
  simp only [laneAccessCauses, List.mem_append, mem_ite_singleton]

theorem accessRefused_of_bad (h : objPlace s core part (capObj cap) (capBase cap + o) (decide (r ≠ .read)) = .bad) :
    accessRefused s core part cap o z r = true := by
  simp only [accessRefused, objRange, h]
  decide

/-- R174, R364: a byte of a kind-1 object that translates where the partition may not reach has no place. -/
theorem objPlace_of_unreachable {id y a : Nat} {write : Bool} (hw : accWindow? id = none)
    (hbad : entryMalformed (s.part part) (objEntry s part id) = false) (hkind : entryKind (objEntry s part id) = 1)
    (hy : y < entrySize (objEntry s part id))
    (ht : translate s (stackOf core) (s.part part).pasid (entryVbase (objEntry s part id) + y) write = some a)
    (ha : (s.part part).reaches a = false) : objPlace s core part id y write = .bad := by
  simp [objPlace, hw, hbad, hkind, Nat.not_le.mpr hy, ht, ha]

/-- R171: an access traps for the lowest cause of its lanes before any of them has an effect. -/
theorem withAccess_of_causes {x : Group} {k : Crew} {a : Access} {cause lane : Nat}
    (hk : s.crew? s.cur.core s.cur.slot = some k) (hacq : acquirePending x = false ∨ a.right = .write)
    (h : laneCauses (a.causes s s.cur.core k.part x.state) = some (cause, lane)) (f : State → Crew → List (Nat × List ByteAt) → Out) :
    withAccess s x a f = .next (takeTrap s cause (a.tval lane)) := by
  have hgo : ¬ (acquirePending x && decide (a.right ≠ .write)) = true := by
    obtain h | h := hacq <;> simp [h]
  simp only [withAccess, hk, h, if_neg hgo]

end Sys2Proof.Machine
end

section
/-! SUPPORT. The finite values that a float format holds, as its bits give them, and their rounding. -/

namespace Sys2Proof.Machine

open Sys2Proof

theorem Fmt.width_sub_one (f : Fmt) : f.width - 1 = f.fracBits + f.expBits := by
  rw [Fmt.width, Nat.add_assoc, Nat.add_sub_cancel_left, Nat.add_comm]

theorem Fmt.expBits_pos (f : Fmt) : 0 < f.expBits := by cases f <;> decide

theorem Fmt.emin_lt_emax (f : Fmt) : f.emin < f.emax := by cases f <;> decide

/-- In a format with infinities the largest value stands below the top of the exponent field (R105). -/
theorem Fmt.emax_of_inf {f : Fmt} (h : f.hasInf = true) : f.emax = (2 ^ f.expBits : Nat) - 2 - (f.bias : Int) := by
  revert h
  cases f <;> decide

/-- In a format without infinities it stands at the top (R105). -/
theorem Fmt.emax_of_no_inf {f : Fmt} (h : f.hasInf = false) : f.emax = (2 ^ f.expBits : Nat) - 1 - (f.bias : Int) :=
  if_neg (by rw [h]; decide)

/-- A significand m and a number k of steps above the least exponent: what R105 and R110 make of a finite value that the format holds.
Below the least normal value k is 0 and m has fewer bits; no value lies above the largest. -/
structure Fmt.Holds (f : Fmt) (k m : Nat) : Prop where
  lt : m < 2 ^ f.prec
  normal : k = 0 ∨ 2 ^ f.fracBits ≤ m
  exp_le : f.emin + k ≤ f.emax
  mant_le : f.emin + k = f.emax → m ≤ f.maxMant

/-- The sign, the exponent field and the fraction field of a number of the format's width. -/
theorem bits_eq_fields {f : Fmt} {bits : Nat} (h : bits < 2 ^ f.width) :
    bits = signBits f (bits.testBit (f.width - 1))
      + (bitsOf bits (f.width - 2) f.fracBits * 2 ^ f.fracBits + bits % 2 ^ f.fracBits) := by
  have hw := f.width_sub_one
  have hp := f.expBits_pos
  have hexp : f.width - 2 + 1 - f.fracBits = f.expBits := by omega
  have htop : bits / 2 ^ f.fracBits / 2 ^ f.expBits = (bits.testBit (f.width - 1)).toNat := by
    rw [Nat.div_div_eq_div_mul, ← pow_add, ← hw, Nat.toNat_testBit, Nat.mod_eq_of_lt]
    rw [Nat.div_lt_iff_lt_mul (by positivity), ← pow_succ']
    rwa [show f.width - 1 + 1 = f.width from by omega]
  have hsign : signBits f (bits.testBit (f.width - 1)) = 2 ^ f.fracBits * (2 ^ f.expBits * (bits / 2 ^ f.fracBits / 2 ^ f.expBits)) := by
    rw [htop, ← Nat.mul_assoc, ← pow_add, ← hw, signBits]
    cases bits.testBit (f.width - 1) <;> simp
  rw [hsign, bitsOf, hexp, ← Nat.add_assoc, Nat.mul_comm (_ % _), ← Nat.mul_add, Nat.add_comm (2 ^ f.expBits * _), Nat.mod_add_div,
    Nat.add_comm, Nat.mod_add_div]

/-- A normal value is one that the format holds, when its exponent field is not that of the infinities and the NaNs and its bits are
not the NaN of F8A. -/
theorem Fmt.holds_of_fields {f : Fmt} {ex fr : Nat} (hex : 0 < ex) (htop : ex ≤ 2 ^ f.expBits - 1)
    (hinf : ¬ (ex = 2 ^ f.expBits - 1 ∧ f.hasInf = true)) (hnan : ¬ (f = .f8a ∧ ex = 2 ^ f.expBits - 1 ∧ fr = 7))
    (hfr : fr < 2 ^ f.fracBits) : f.Holds (ex - 1) (fr + 2 ^ f.fracBits) where
  lt := by rw [Fmt.prec, pow_succ]; omega
  normal := .inr (Nat.le_add_left _ _)
  exp_le := by
    cases hi : f.hasInf
    · rw [Fmt.emax_of_no_inf hi, Fmt.emin]
      omega
    · have hne : ex ≠ 2 ^ f.expBits - 1 := fun he => hinf ⟨he, hi⟩
      rw [Fmt.emax_of_inf hi, Fmt.emin]
      omega
  mant_le h := by
    by_cases hf : f = .f8a
    · subst hf
      have hmax : ex = 15 := by
        simp only [Fmt.emin, Fmt.emax, Fmt.bias, Fmt.hasInf, Fmt.expBits, Bool.false_eq_true, if_false] at h
        omega
      have hne : fr ≠ 7 := fun h7 => hnan ⟨rfl, hmax, h7⟩
      simp only [Fmt.fracBits, Fmt.maxMant, if_true] at hfr ⊢
      omega
    · rw [Fmt.maxMant, if_neg hf, Fmt.prec, pow_succ]
      omega

/-- A fraction below the least normal value is a significand that the format holds. -/
theorem Fmt.holds_zero {f : Fmt} {m : Nat} (h : m < 2 ^ f.fracBits) : f.Holds 0 m where
  lt := by rw [Fmt.prec, pow_succ]; omega
  normal := .inl rfl
  exp_le := by simpa using f.emin_lt_emax.le
  mant_le h := absurd h (by simpa using f.emin_lt_emax.ne)

/-- R105: the bits of a finite value are its sign, its steps above the least exponent and its significand. -/
theorem decodeFloat_fin {f : Fmt} {bits : Nat} {neg : Bool} {m : Nat} {e : Int} (hb : bits < 2 ^ f.width)
    (h : decodeFloat f bits = .fin neg m e) :
    ∃ k, f.Holds k m ∧ e = f.emin + k - f.fracBits ∧ bits = signBits f neg + (k * 2 ^ f.fracBits + m) := by
  have hfields := bits_eq_fields hb
  have hfr : bits % 2 ^ f.fracBits < 2 ^ f.fracBits := Nat.mod_lt _ (by positivity)
  have htop : bitsOf bits (f.width - 2) f.fracBits ≤ 2 ^ f.expBits - 1 := by
    have hw := f.width_sub_one
    have hp := f.expBits_pos
    rw [bitsOf, show f.width - 2 + 1 - f.fracBits = f.expBits from by omega]
    exact Nat.le_sub_one_of_lt (Nat.mod_lt _ (by positivity))
  unfold decodeFloat at h
  dsimp only at h
  generalize bitsOf bits (f.width - 2) f.fracBits = ex at *
  generalize bits % 2 ^ f.fracBits = fr at *
  generalize bits.testBit (f.width - 1) = sign at *
  split at h
  case isTrue => split at h <;> cases h
  case isFalse hinf =>
    split at h
    case isTrue => cases h
    case isFalse hnan =>
      simp only [Bool.and_eq_true, decide_eq_true_eq] at hinf hnan
      split at h
      case isTrue hzero =>
        cases h
        subst hzero
        exact ⟨0, Fmt.holds_zero hfr, by simp, by simpa using hfields⟩
      case isFalse hex =>
        cases h
        have hpos : 0 < ex := Nat.pos_of_ne_zero hex
        refine ⟨ex - 1, Fmt.holds_of_fields hpos htop hinf (by rwa [← and_assoc]) hfr, by simp only [Fmt.emin]; omega, ?_⟩
        have hstep : ex * 2 ^ f.fracBits = (ex - 1) * 2 ^ f.fracBits + 2 ^ f.fracBits := by
          rw [← Nat.succ_mul, Nat.succ_eq_add_one, Nat.sub_add_cancel hpos]
        omega

/-- The bits that a nonzero significand has above those of a fraction are none or one. -/
theorem Fmt.Holds.log2 {f : Fmt} {k m : Nat} (h : f.Holds k m) (hm : m ≠ 0) :
    m.log2 ≤ f.fracBits ∧ (k = 0 ∨ m.log2 = f.fracBits) := by
  have hle : m.log2 ≤ f.fracBits := Nat.le_of_lt_succ ((Nat.log2_lt hm).mpr h.lt)
  exact ⟨hle, h.normal.imp_right fun hn => Nat.le_antisymm hle ((Nat.le_log2 hm).mpr hn)⟩

/-- R110: the quantum of a value that the format holds is the unit of its significand, so that nothing is left to round. -/
theorem roundFin_of_holds {f : Fmt} {k m : Nat} (h : f.Holds k m) (hm : m ≠ 0) (mode : RndMode) (neg : Bool) :
    roundFin f mode false neg m (f.emin + k - f.fracBits) = (signBits f neg + (k * 2 ^ f.fracBits + m), 0) := by
  obtain ⟨hle, hlog⟩ := h.log2 hm
  have hq : max ((m.log2 : Int) + (f.emin + k - f.fracBits)) f.emin - f.prec + 1 = f.emin + k - f.fracBits := by
    rw [Fmt.prec]
    omega
  have hfits : ¬ (f.emax < (m.log2 : Int) + (f.emin + k - f.fracBits)
      ∨ (m.log2 : Int) + (f.emin + k - f.fracBits) = f.emax ∧ f.maxMant * 2 ^ (m.log2 + 1 - f.prec) < m) := by
    have hexp := h.exp_le
    rintro (hgt | ⟨heq, hlt⟩)
    · omega
    · have hmant := h.mant_le (by omega)
      rw [show m.log2 + 1 - f.prec = 0 from by rw [Fmt.prec]; omega] at hlt
      omega
  have hsteps : (f.emin + k - f.fracBits - (f.emin - f.prec + 1)).toNat = k := by
    rw [Fmt.prec]
    omega
  simp [roundFin, hq, hsteps, flagIf, hm, hfits]

end Sys2Proof.Machine
end

section
/-! CERTIFICATES. The statements about chains, rounding and the causes of traps. -/

namespace Sys2Proof.Machine

open Sys2Proof

/-- Settles O10: a member is its lanes' values in binary64, each rounded to F32, and reads W where the previous member wrote it. -/
theorem chainMember : Obligations.ChainMember := by
  intro st d a b s x m c read member
  have gives {i : Instr} {op : Nat} {rs : List Nat} {fop : FloatOp} {f : Nat → FRes}
      (hi : exec i s = chainOp (vDesc (encode i) op st.toNat 1 setF d.toNat rs) d.toNat rs fop s)
      (hf : ∀ l, fop .b64 0 false (rs.map fun r => read r l) = f l) : member i op rs f := by
    intro hcc ht hp hr
    have hread (l : Nat) : (rs.map fun r => memberRead x r l) = rs.map fun r => read r l :=
      List.map_congr_left fun r _ => memberRead_of_psr hp r l
    have hlane := memberLane_eq (op := fop) (rs := rs) (s := s) (f := f) hp fun l => by rw [hread, hf]
    refine ⟨fun hm => ⟨_, hi.trans (chainOp_of_empty hr hcc ht hm), fun l hl => ?_⟩, fun hm F hF hn => ?_⟩
    · rw [laneGet64_laneMerge64 _ _ _ hl, BitVec.ofNat_eq_ofNat, BitVec.getLsbD_zero]
      rfl
    · have hunion := unionFlags_memberLanes (op := fop) (rs := rs) (s := s) (x := x) (F := F)
        fun j hj => by simpa only [hlane] using hF j hj
      have hgives := hi.trans (chainOp_of_member hr hcc ht hm hunion hn)
      refine ⟨laneMerge64 m x.regs.w _, _, hgives, fun l hl => ⟨?_, fun hl1 => ?_⟩⟩
      · rw [laneGet64_laneMerge64 _ _ _ hl]
        split
        case isTrue hl1 => rw [laneGet64_memberLanes hl hl1, hlane]
        case isFalse => rfl
      · rw [laneGet_memberLanes hl hl1, hlane]
  exact ⟨gives rfl fun _ => rfl, gives rfl fun _ => rfl, gives rfl fun _ => rfl, gives rfl fun _ => rfl⟩

/-- Settles O11: the bits of a finite value give its significand and its exponent, and the quantum of such a value is the unit of
its significand. -/
theorem roundingIsExact : Obligations.RoundingIsExact := by
  intro f mode bits neg m e hb hd hm
  obtain ⟨k, hk, rfl, rfl⟩ := decodeFloat_fin hb hd
  exact roundFin_of_holds hk hm mode neg

/-- R120: each enable bit of MW and the bit of its flag, in the order of the causes. -/
theorem arithmeticTrapCauses : Claims.ArithmeticTrapCauses := enabledCause_eq

/-- R171, R170, R196, R174, R364: the causes of one access, those of a refused translation, and the instruction's trap. -/
theorem causesOfAccess : Claims.AccessCauses := by
  refine ⟨?causes, ?refused, fun xs => ⟨laneCauses_eq_none_iff, fun _ _ => laneCauses_eq_some⟩, ?traps⟩
  case causes =>
    intro s part gs cap o z r hw hz e bad cs
    have hmem {c : Nat} := mem_accessCauses (s := s) (part := part) (gs := gs) (o := o) (r := r) (c := c) hw hz
    refine ⟨hmem.trans ?_, hmem.trans ?_, hmem.trans ?_, hmem.trans ?_, fun c hc => ?_⟩
    · simp
    · simp
    · simp [e, bad]
    · simp [e, bad]
    · obtain ⟨rfl, -⟩ | ⟨rfl, -⟩ | ⟨rfl, -⟩ | ⟨rfl, -⟩ := hmem.mp hc <;> decide
  case refused =>
    intro s core part gs cap o z r cs e
    refine ⟨fun c => mem_laneAccessCauses, fun a hw _ _ hbad hkind hy ht ha => mem_laneAccessCauses.mpr (.inr ⟨rfl, ?_⟩)⟩
    rw [Nat.add_assoc] at ht
    exact accessRefused_of_bad (objPlace_of_unreachable hw hbad hkind hy ht ha)
  case traps =>
    intro st d o c z s x k cause lane ds lanes cap qr qw hk hm
    refine ⟨fun hacq hr h => (issue_of_ready hr _).trans ((if_neg hm).trans ?_),
      fun hr h => (issue_of_ready hr _).trans ((if_neg hm).trans ?_)⟩
    · refine withAccess_of_causes hk (.inl hacq) ?_ _
      exact h
    · refine withAccess_of_causes hk (.inr rfl) ?_ _
      exact h

/-- Settles O25. -/
theorem trapCauses : Obligations.TrapCauses := ⟨arithmeticTrapCauses, causesOfAccess⟩

end Sys2Proof.Machine
end

section
/-! SUPPORT. Scalar values: the model's integer operations on words as the operations of bit vectors, and the instructions that write one scalar. -/

namespace Sys2Proof.Machine

open Sys2Proof

/-! ### Words as integers (R107, R109) -/

theorem signedOf_toNat {w : Nat} (x : BitVec w) : signedOf w x.toNat = x.toInt := by
  rw [signedOf, BitVec.toInt_eq_toNat_cond, Nat.mod_eq_of_lt x.isLt]
  cases w with
  | zero => simp [BitVec.eq_nil x]
  | succ n =>
    have hp : 2 ^ (n + 1) = 2 * 2 ^ n := by rw [pow_succ, Nat.mul_comm]
    rw [hp, Nat.add_sub_cancel]
    simp

@[simp] theorem sWord_eq (x : Word) : sWord x = x.toInt := signedOf_toNat x

@[simp] theorem scalarInt_false (x : Word) : scalarInt false x = x.toInt := sWord_eq x

@[simp] theorem scalarInt_true (x : Word) : scalarInt true x = x.toNat := rfl

theorem ofNat_wrapTo (r : Int) : BitVec.ofNat 32 (wrapTo 32 r) = BitVec.ofInt 32 r := by
  apply BitVec.eq_of_toNat_eq
  simp only [wrapTo, BitVec.toNat_ofNat, BitVec.toNat_ofInt]
  omega

theorem clampTo_eq {lo hi : Int} (h : lo ≤ hi) (r : Int) : clampTo lo hi r = max lo (min r hi) := by
  rw [clampTo]
  split
  · omega
  · split <;> omega

theorem scalarFit_signed (mw : Word) (r : Int) :
    scalarFit mw false r = if mwSat mw then clampSigned r else BitVec.ofInt 32 r := by
  simp only [scalarFit, fit, apply_ite (BitVec.ofNat 32), Bool.false_eq_true, if_false]
  exact if_congr Iff.rfl ((ofNat_wrapTo _).trans (congrArg _ (clampTo_eq (by decide) r))) (ofNat_wrapTo r)

theorem scalarFit_unsigned (mw : Word) (r : Int) :
    scalarFit mw true r = BitVec.ofInt 32 (if mwSat mw then max 0 (min r 4294967295) else r) := by
  simp only [scalarFit, fit, apply_ite (BitVec.ofNat 32), apply_ite (BitVec.ofInt 32), if_true]
  exact if_congr Iff.rfl ((ofNat_wrapTo _).trans (congrArg _ (clampTo_eq (by decide) r))) (ofNat_wrapTo r)

theorem ofInt_sub_word (x y : Int) : BitVec.ofInt 32 (x - y) = BitVec.ofInt 32 x - BitVec.ofInt 32 y := by
  rw [sub_eq_add_neg, BitVec.ofInt_add, BitVec.ofInt_neg, ← BitVec.sub_eq_add_neg]

/-- The integer of a word, signed or unsigned, is the word modulo 2^32. -/
@[simp] theorem ofInt_scalarInt (uns : Bool) (x : Word) : BitVec.ofInt 32 (scalarInt uns x) = x := by
  cases uns
  · rw [scalarInt_false, BitVec.ofInt_toInt]
  · rw [scalarInt_true, BitVec.ofInt_natCast, BitVec.ofNat_toNat, BitVec.setWidth_eq]

/-! ### Arithmetic (R140) -/

/-- A signed sum, difference or product, where the operation g of words is f modulo 2^32. -/
theorem scalarArith_signed {f : Int → Int → Int} {g : Word → Word → Word}
    (h : ∀ x y, BitVec.ofInt 32 (f x y) = g (BitVec.ofInt 32 x) (BitVec.ofInt 32 y)) (mw a b : Word) :
    scalarArith false f mw a b = if mwSat mw then clampSigned (f a.toInt b.toInt) else g a b := by
  rw [scalarArith, scalarFit_signed, h, ofInt_scalarInt, ofInt_scalarInt, scalarInt_false, scalarInt_false]

/-- An unsigned sum, difference or product, where w is its clamped value. -/
theorem scalarArith_unsigned {f : Int → Int → Int} {g : Word → Word → Word} {a b w : Word}
    (h : ∀ x y, BitVec.ofInt 32 (f x y) = g (BitVec.ofInt 32 x) (BitVec.ofInt 32 y))
    (hw : BitVec.ofInt 32 (max 0 (min (f a.toNat b.toNat) 4294967295)) = w) (mw : Word) :
    scalarArith true f mw a b = if mwSat mw then w else g a b := by
  rw [scalarArith, scalarFit_unsigned, apply_ite (BitVec.ofInt 32), h, ofInt_scalarInt, ofInt_scalarInt]
  exact if_congr Iff.rfl hw rfl

/-- A natural number clamped to 32 bits. -/
theorem ofInt_clamp_natCast (n : Nat) : BitVec.ofInt 32 (max 0 (min (n : Int) 4294967295)) = BitVec.ofNat 32 (min n 4294967295) := by
  rw [← BitVec.ofInt_natCast]
  congr 1
  omega

/-- A difference of natural numbers clamped to 32 bits. -/
theorem ofInt_clamp_sub (a b : Word) :
    BitVec.ofInt 32 (max 0 (min ((a.toNat : Int) - b.toNat) 4294967295)) = if a.ult b then 0 else a - b := by
  have ha := a.isLt
  by_cases hlt : a.toNat < b.toNat
  · rw [if_pos (BitVec.ult_iff_lt.mpr hlt), show max 0 (min ((a.toNat : Int) - b.toNat) 4294967295) = 0 by omega]
    rfl
  · rw [if_neg (fun h => hlt (BitVec.ult_iff_lt.mp h)),
      show max 0 (min ((a.toNat : Int) - b.toNat) 4294967295) = (a.toNat : Int) - b.toNat by omega, ofInt_sub_word]
    simp

/-- The upper word of a product of 64 bits. -/
theorem ofInt_div_twoPow (z : Int) : BitVec.ofInt 32 (z / (2 ^ 32 : Nat)) = (BitVec.ofInt 64 z).extractLsb' 32 32 := by
  apply BitVec.eq_of_toNat_eq
  simp only [BitVec.toNat_ofInt, BitVec.extractLsb'_toNat, Nat.shiftRight_eq_div_pow]
  omega

theorem mulh_signed (a b : Word) :
    BitVec.ofInt 32 (scalarInt false a * scalarInt false b / (2 ^ 32 : Nat))
      = (a.signExtend 64 * b.signExtend 64).extractLsb' 32 32 := by
  have ext (x : Word) : BitVec.ofInt 64 (scalarInt false x) = x.signExtend 64 := by rw [scalarInt_false, BitVec.signExtend]
  rw [ofInt_div_twoPow, BitVec.ofInt_mul, ext, ext]

theorem mulh_unsigned (a b : Word) :
    BitVec.ofInt 32 (scalarInt true a * scalarInt true b / (2 ^ 32 : Nat))
      = (a.zeroExtend 64 * b.zeroExtend 64).extractLsb' 32 32 := by
  have ext (x : Word) : BitVec.ofInt 64 (scalarInt true x) = x.zeroExtend 64 := by
    rw [scalarInt_true, BitVec.ofInt_natCast]
    exact BitVec.eq_of_toNat_eq (by simp)
  rw [ofInt_div_twoPow, BitVec.ofInt_mul, ext, ext]

/-! ### Shifts, comparisons and bits (R140, R141) -/

theorem ofNat_mul_twoPow (a : Word) (n : Nat) : BitVec.ofNat 32 (a.toNat * 2 ^ n) = a <<< n :=
  BitVec.eq_of_toNat_eq (by simp [Nat.shiftLeft_eq])

theorem toNat_ofNat_of_le {n : Nat} (h : n ≤ 32) : (BitVec.ofNat 32 n).toNat = n :=
  (BitVec.toNat_ofNat n 32).trans (Nat.mod_eq_of_lt (by omega))

theorem scalarShl_eq (a b : Word) : scalarShl a b = a <<< b.toNat := by
  unfold scalarShl
  split
  · exact (BitVec.shiftLeft_eq_zero ‹_›).symm
  · exact ofNat_mul_twoPow a b.toNat

theorem scalarShr_eq (a b : Word) : scalarShr a b = a >>> b.toNat := by
  unfold scalarShr
  split
  · exact (BitVec.ushiftRight_eq_zero ‹_›).symm
  · refine BitVec.eq_of_toNat_eq ?_
    rw [BitVec.toNat_ofNat, BitVec.toNat_ushiftRight, Nat.shiftRight_eq_div_pow]
    exact Nat.mod_eq_of_lt ((Nat.div_le_self _ _).trans_lt a.isLt)

theorem scalarSra_eq (a b : Word) : scalarSra a b = a.sshiftRight b.toNat := by
  have small (n : Nat) : BitVec.ofInt 32 (a.toInt / (2 ^ n : Nat)) = a.sshiftRight n := by
    rw [BitVec.sshiftRight_eq, Int.shiftRight_eq_div_pow]
  rw [scalarSra, sWord_eq, small]
  by_cases h : b.toNat ≤ 31
  · rw [Nat.min_eq_left h]
  · rw [Nat.min_eq_right (by omega)]
    refine BitVec.eq_of_getLsbD_eq fun i hi => ?_
    rw [BitVec.getLsbD_sshiftRight, BitVec.getLsbD_sshiftRight, if_neg (by omega : ¬ b.toNat + i < 32)]
    by_cases h0 : i = 0
    · subst h0
      simp [BitVec.msb_eq_getLsbD_last]
    · rw [if_neg (by omega)]

theorem scalarInt_lt (uns : Bool) (a b : Word) : scalarInt uns a < scalarInt uns b ↔ (if uns then a.ult b else a.slt b) = true := by
  cases uns
  · simp [BitVec.slt_iff_toInt_lt]
  · simp [BitVec.ult_iff_lt, BitVec.lt_def]

/-- The lesser of two words, the first where they are equal. -/
theorem scalarMin_eq (uns : Bool) (a b : Word) :
    (if scalarInt uns b < scalarInt uns a then b else a) = if (if uns then a.ult b else a.slt b) then a else b := by
  simp only [← scalarInt_lt]
  obtain h | h | h := lt_trichotomy (scalarInt uns a) (scalarInt uns b)
  · rw [if_neg h.asymm, if_pos h]
  · have hab : a = b := by rw [← ofInt_scalarInt uns a, h, ofInt_scalarInt]
    rw [hab, ite_self]
  · rw [if_pos h, if_neg h.asymm]

theorem scalarCmp_signed (a b : Word) : scalarCmp 2 a b = a.slt b ∧ scalarCmp 3 a b = a.sle b := by
  simp only [scalarCmp, sWord_eq]
  exact ⟨rfl, rfl⟩

/-- The first index below w with a property, and w where none has it. -/
theorem find?_range_getD (p : Nat → Bool) (w : Nat) :
    let n := ((List.range w).find? p).getD w
    n ≤ w ∧ (∀ j, j < n → p j = false) ∧ (n < w → p n = true) := by
  cases h : (List.range w).find? p with
  | none =>
    have hall := List.find?_eq_none.mp h
    simp only [List.mem_range, Bool.not_eq_true] at hall
    exact ⟨Nat.le_refl w, hall, fun hlt => absurd hlt (Nat.lt_irrefl w)⟩
  | some n =>
    obtain ⟨hp, hmem, hbelow⟩ := List.find?_range_eq_some.mp h
    exact ⟨(List.mem_range.mp hmem).le, fun j hj => by simpa using hbelow j hj, fun _ => hp⟩

theorem popCount_eq_sum (w x : Nat) : popCount w x = ((List.range w).map fun i => (x.testBit i).toNat).sum := by
  unfold popCount
  induction List.range w with
  | nil => rfl
  | cons i is ih => cases h : x.testBit i <;> simp [h, ih, Nat.add_comm]

theorem popCount_le (w x : Nat) : popCount w x ≤ w :=
  (List.length_filter_le _ _).trans_eq List.length_range

/-- A number whose 1 bits lie below n. -/
theorem toNat_lt_of_getLsbD {x : Word} {n : Nat} (h : ∀ i, n ≤ i → i < 32 → x.getLsbD i = false) : x.toNat < 2 ^ n := by
  refine Nat.lt_pow_two_of_testBit _ fun i hi => ?_
  rw [BitVec.testBit_toNat]
  by_cases h32 : i < 32
  · exact h i hi h32
  · exact BitVec.getLsbD_of_ge x i (by omega)

theorem leadZeros_word (x : Word) :
    let n := leadZeros 32 x.toNat
    n ≤ 32 ∧ x.toNat < 2 ^ (32 - n) ∧ (n < 32 → x.getLsbD (31 - n) = true) := by
  obtain ⟨hle, hzero, hone⟩ := find?_range_getD (fun i => x.toNat.testBit (32 - 1 - i)) 32
  refine ⟨hle, toNat_lt_of_getLsbD fun i hi h32 => ?_, hone⟩
  have hbit := hzero (31 - i) (by unfold leadZeros at hi; omega)
  rwa [BitVec.testBit_toNat, show 32 - 1 - (31 - i) = i by omega] at hbit

theorem trailZeros_word (x : Word) :
    let n := trailZeros 32 x.toNat
    n ≤ 32 ∧ (∀ j, j < n → x.getLsbD j = false) ∧ (n < 32 → x.getLsbD n = true) :=
  find?_range_getD (fun i => x.toNat.testBit i) 32

/-- The first n bits of x, reversed in w bits. -/
def revBits (w x n : Nat) : Nat := (List.range n).foldl (fun a i => if x.testBit i then a + 2 ^ (w - 1 - i) else a) 0

theorem revBits_succ (w x n : Nat) :
    revBits w x (n + 1) = if x.testBit n then revBits w x n + 2 ^ (w - 1 - n) else revBits w x n := by
  simp only [revBits, List.range_succ, List.foldl_append, List.foldl_cons, List.foldl_nil]

/-- Each step adds a bit below those that stand: the sum is their union. -/
theorem testBit_revBits {w n : Nat} (x : Nat) (h : n ≤ w) :
    2 ^ (w - n) ∣ revBits w x n
      ∧ ∀ j, (revBits w x n).testBit j = (decide (w - n ≤ j ∧ j < w) && x.testBit (w - 1 - j)) := by
  induction n with
  | zero =>
    refine ⟨dvd_zero _, fun j => ?_⟩
    rw [decide_eq_false (by omega), Bool.false_and]
    exact Nat.zero_testBit j
  | succ n ih =>
    obtain ⟨⟨b, hb⟩, hbits⟩ := ih (by omega)
    have hn : w - 1 - n = w - (n + 1) := by omega
    have hpow : 2 ^ (w - (n + 1)) ∣ 2 ^ (w - n) := pow_dvd_pow 2 (by omega)
    have hlt : 2 ^ (w - (n + 1)) < 2 ^ (w - n) := Nat.pow_lt_pow_right (by decide) (by omega)
    rw [revBits_succ, hn, hb]
    constructor
    · split
      · exact dvd_add (hpow.mul_right b) (dvd_refl _)
      · exact hpow.mul_right b
    · intro j
      have hor : 2 ^ (w - n) * b + 2 ^ (w - (n + 1)) = 2 ^ (w - n) * b ||| 2 ^ (w - (n + 1)) := Nat.two_pow_add_eq_or_of_lt hlt b
      have hj : (if x.testBit n then 2 ^ (w - n) * b + 2 ^ (w - (n + 1)) else 2 ^ (w - n) * b).testBit j
          = ((2 ^ (w - n) * b).testBit j || (decide (w - (n + 1) = j) && x.testBit n)) := by
        split
        · rw [hor, Nat.testBit_or, Nat.testBit_two_pow, ‹x.testBit n = true›, Bool.and_true]
        · rw [Bool.eq_false_iff.mpr ‹¬ x.testBit n = true›, Bool.and_false, Bool.or_false]
      rw [hj, ← hb, hbits]
      by_cases hjn : w - (n + 1) = j
      · subst hjn
        rw [show w - 1 - (w - (n + 1)) = n by omega, decide_eq_false (by omega), Bool.false_and, Bool.false_or,
          decide_eq_true rfl, decide_eq_true (by omega)]
      · rw [decide_eq_false hjn, Bool.false_and, Bool.or_false]
        congr 2
        simp only [eq_iff_iff]
        omega

theorem bitRev_eq (w x : Nat) : bitRev w x = revBits w x w := rfl

theorem testBit_bitRev (w x j : Nat) : (bitRev w x).testBit j = (decide (j < w) && x.testBit (w - 1 - j)) := by
  rw [bitRev_eq, (testBit_revBits x (Nat.le_refl w)).2 j]
  simp

/-! ### Division (R141) -/

/-- No flag takes a trap where none is set. -/
theorem enabledCause_zero (mw : Word) : enabledCause mw 0 = none := by
  simp [enabledCause]

/-- R120: the flag of a division by zero takes a trap under MW.TEDZ alone. -/
theorem enabledCause_flagDZ (mw : Word) : enabledCause mw flagDZ = if mwTedz mw then some 0x21 else none := by
  have others : flagDZ &&& flagIV = 0 ∧ flagDZ ≠ 0#7 ∧ flagDZ &&& flagOF = 0 ∧ flagDZ &&& flagMQC = 0
      ∧ flagDZ &&& flagMQR = 0 := by decide
  obtain ⟨hiv, hdz, hof, hmqc, hmqr⟩ := others
  simp [enabledCause, hiv, hdz, hof, hmqc, hmqr]

theorem ofInt_tdiv (a b : Word) : BitVec.ofInt 32 (a.toInt.tdiv b.toInt) = a.sdiv b :=
  BitVec.eq_of_toInt_eq (by rw [BitVec.toInt_ofInt, BitVec.toInt_sdiv])

theorem ofInt_tmod (a b : Word) : BitVec.ofInt 32 (a.toInt.tmod b.toInt) = a.srem b := by
  rw [← BitVec.toInt_srem, BitVec.ofInt_toInt]

theorem scalarDiv_zero (f : Nat) (sat : Bool) (a : Word) : scalarDiv f sat a 0 = (if f < 2 then 0xFFFFFFFF else a, flagDZ) := rfl

theorem scalarDiv_signed {b : Word} (sat : Bool) (a : Word) (h : b ≠ 0) : scalarDiv 0 sat a b =
    (if sat && a == 0x80000000 && b == 0xFFFFFFFF then 0x7FFFFFFF else a.sdiv b, 0) := by
  simp only [scalarDiv, if_neg h, sWord_eq, ofInt_tdiv]
  by_cases hover : a = 0x80000000 ∧ b = 0xFFFFFFFF
  · obtain ⟨rfl, rfl⟩ := hover
    cases sat <;> rfl
  · rw [if_neg (by simpa using hover), if_neg (by simpa [and_assoc] using fun _ => not_and.mp hover)]

theorem scalarDiv_unsigned {b : Word} (sat : Bool) (a : Word) (h : b ≠ 0) : scalarDiv 1 sat a b = (a / b, 0) :=
  (if_neg h).trans (congrArg (·, (0 : FlagBits)) BitVec.udiv_def.symm)

theorem scalarDiv_srem {b : Word} (sat : Bool) (a : Word) (h : b ≠ 0) : scalarDiv 2 sat a b = (a.srem b, 0) := by
  simp only [scalarDiv, if_neg h, sWord_eq, ofInt_tmod]

theorem scalarDiv_umod {b : Word} (sat : Bool) (a : Word) (h : b ≠ 0) : scalarDiv 3 sat a b = (a % b, 0) :=
  (if_neg h).trans (congrArg (·, (0 : FlagBits)) BitVec.umod_def.symm)

/-- SDIV's registers. -/
def divDesc (st : BitVec 3) (d a b : BitVec 6) (f : BitVec 3) : Desc :=
  { word := encode (.sdiv st d a b f), op := 0x32, st := st.toNat, reads := [codeS a.toNat, codeS b.toNat], writes := [codeS d.toNat] }

section
variable {st : BitVec 3} {d a b : BitVec 6} {f : BitVec 3} {s : State} {x : Group} {v : Word} {fl : FlagBits}

/-- A quotient or remainder whose flag takes no trap joins the outstanding results. -/
theorem exec_sdiv_of_none (h : Ready (divDesc st d a b f) s x)
    (hv : scalarDiv f.toNat (mwSat x.regs.mw) (x.regs.readS a.toNat) (x.regs.readS b.toNat) = (v, fl))
    (hn : enabledCause x.regs.mw fl = none) :
    exec (.sdiv st d a b f) s = .next (finish { s with nextId := s.nextId + 1 } (divDesc st d a b f)
      ((x.raise fl).outValue s.nextId [(codeS d.toNat, .scal v)] x.pc)) := by
  refine (issue_of_ready h _).trans ?_
  simp only [hv, hn]
  rfl

theorem exec_sdiv_of_cause {c : Nat} (h : Ready (divDesc st d a b f) s x)
    (hv : scalarDiv f.toNat (mwSat x.regs.mw) (x.regs.readS a.toNat) (x.regs.readS b.toNat) = (v, fl))
    (hc : enabledCause x.regs.mw fl = some c) :
    exec (.sdiv st d a b f) s = .next (takeTrap s c 0) := by
  refine (issue_of_ready h _).trans ?_
  simp only [hv, hc]

end

/-! ### The instructions that write one scalar (R139) -/

variable {i : Instr} {op min st d a b : Nat} {s : State} {x : Group} {v : Word}

theorem scalarGives_of_two (f : Word → Word → Word → Word)
    (he : exec i s = scalarOp { word := encode i, op := op, st := st, min := min } d a b f s)
    (hv : f x.regs.mw (x.regs.readS a) (x.regs.readS b) = v) :
    scalarGives i op min st [codeS a, codeS b] d s x v := by
  intro h
  subst hv
  exact he.trans (uniform_of_ready h _)

theorem scalarGives_of_one (f : Word → Word → Word)
    (he : exec i s = scalarOp1 { word := encode i, op := op, st := st, min := min } d a f s)
    (hv : f x.regs.mw (x.regs.readS a) = v) :
    scalarGives i op min st [codeS a] d s x v := by
  intro h
  subst hv
  exact he.trans (uniform_of_ready h _)

end Sys2Proof.Machine
end

section
/-! CERTIFICATES. Scalar instructions. -/

namespace Sys2Proof.Machine

open Sys2Proof

/-- R140. -/
theorem scalarArithmetic : Claims.ScalarArithmetic := by
  intro st d a b s x A B sat gives
  have hadd := BitVec.ofInt_add (n := 32)
  have hmul := BitVec.ofInt_mul (n := 32)
  refine ⟨scalarGives_of_two _ rfl (scalarArith_signed hadd _ A B), scalarGives_of_two _ rfl (scalarArith_unsigned hadd ?_ _),
    scalarGives_of_two _ rfl (scalarArith_signed ofInt_sub_word _ A B), scalarGives_of_two _ rfl ?_,
    scalarGives_of_two _ rfl (scalarArith_signed hmul _ A B), scalarGives_of_two _ rfl (scalarArith_unsigned hmul ?_ _),
    ?_, ?_⟩
  · exact ofInt_clamp_natCast (A.toNat + B.toNat)
  · refine (scalarArith_unsigned ofInt_sub_word (ofInt_clamp_sub A B) _).trans ?_
    show (if sat then if A.ult B then 0 else A - B else A - B) = _
    cases sat <;> rfl
  · exact ofInt_clamp_natCast (A.toNat * B.toNat)
  · exact scalarGives_of_two (fun _ x y => BitVec.ofInt 32 (scalarInt false x * scalarInt false y / (2 ^ 32 : Nat))) rfl
      (mulh_signed A B)
  · exact scalarGives_of_two (fun _ x y => BitVec.ofInt 32 (scalarInt true x * scalarInt true y / (2 ^ 32 : Nat))) rfl
      (mulh_unsigned A B)

/-- R141, R120. -/
theorem scalarDivide : Claims.ScalarDivide := by
  intro st d a b f s x A B q gives h
  have done {v : Word} (hv : scalarDiv f.toNat (mwSat x.regs.mw) A B = (v, 0)) : gives 0 v :=
    exec_sdiv_of_none h hv (enabledCause_zero _)
  have zero (hB : B = 0) : scalarDiv f.toNat (mwSat x.regs.mw) A B = (if f.toNat < 2 then 0xFFFFFFFF else A, flagDZ) :=
    hB ▸ scalarDiv_zero ..
  refine ⟨fun hB hf => done ?_, fun hB hf => done ?_, fun hB hf => done ?_, fun hB hf => done ?_,
    fun hB ht _ => exec_sdiv_of_none h (zero hB) ?_, fun hB ht _ => exec_sdiv_of_cause h (zero hB) ?_⟩
  · subst hf; exact scalarDiv_signed _ A hB
  · subst hf; exact scalarDiv_unsigned _ A hB
  · subst hf; exact scalarDiv_srem _ A hB
  · subst hf; exact scalarDiv_umod _ A hB
  · exact (enabledCause_flagDZ _).trans (if_neg (by simp [ht]))
  · exact (enabledCause_flagDZ _).trans (if_pos ht)

/-- Settles O2: exact integer results, clamped or modulo 2^32, are the words' sums, products and quotients. -/
theorem scalarArithmeticAndDivision : Obligations.ScalarArithmeticAndDivision := ⟨scalarArithmetic, scalarDivide⟩

/-- R140. -/
theorem scalarLogic : Claims.ScalarLogic := by
  intro st d a b s x A B bit gives
  have min (uns : Bool) {i : Instr} (he : exec i s = scalarOp { word := encode i, op := 0x2A, st := st.toNat } d.toNat a.toNat b.toNat
      (fun _ x y => if scalarInt uns y < scalarInt uns x then y else x) s) :
      gives i 0x2A (if (if uns then A.ult B else A.slt B) then A else B) :=
    scalarGives_of_two _ he (scalarMin_eq uns A B)
  have max (uns : Bool) {i : Instr} (he : exec i s = scalarOp { word := encode i, op := 0x2B, st := st.toNat } d.toNat a.toNat b.toNat
      (fun _ x y => if scalarInt uns x < scalarInt uns y then y else x) s) :
      gives i 0x2B (if (if uns then A.ult B else A.slt B) then B else A) :=
    scalarGives_of_two _ he (if_congr (scalarInt_lt uns A B) rfl rfl)
  have cmp (f : BitVec 3) {c : Bool} (hc : scalarCmp f.toNat A B = c) : gives (.scmp st d a b f) 0x2C (bit c) :=
    scalarGives_of_two (fun _ x y => if scalarCmp f.toNat x y then 1 else 0) rfl (by rw [hc])
  exact ⟨scalarGives_of_two (fun _ x y => x &&& y) rfl rfl, scalarGives_of_two (fun _ x y => x ||| y) rfl rfl,
    scalarGives_of_two (fun _ x y => x ^^^ y) rfl rfl, scalarGives_of_two (fun _ => scalarShl) rfl (scalarShl_eq A B),
    scalarGives_of_two (fun _ => scalarShr) rfl (scalarShr_eq A B), scalarGives_of_two (fun _ => scalarSra) rfl (scalarSra_eq A B),
    min false rfl, min true rfl, max false rfl, max true rfl,
    cmp 0 rfl, cmp 1 (decide_not), cmp 2 (scalarCmp_signed A B).1, cmp 3 (scalarCmp_signed A B).2, cmp 4 rfl, cmp 5 rfl,
    fun h => (uniform_of_ready h _).trans (by rw [ite_not])⟩

/-- R141. -/
theorem scalarImmediate : Claims.ScalarImmediate := by
  intro st d a s x A D gives
  have count (f : BitVec 3) : gives (.sbits st d a f) 0x31 [codeS a.toNat] (BitVec.ofNat 32 (bitCount f.toNat 32 A.toNat)) :=
    scalarGives_of_one (fun _ x => BitVec.ofNat 32 (bitCount f.toNat 32 x.toNat)) rfl rfl
  refine ⟨fun i => ?saddi, fun i => ⟨fun h => ?smovi, ?smovh⟩, ⟨.ofNat 32 (popCount 32 A.toNat), count 0, ?pop⟩,
    ⟨.ofNat 32 (leadZeros 32 A.toNat), count 1, ?clz⟩, ⟨.ofNat 32 (trailZeros 32 A.toNat), count 2, ?ctz⟩,
    ⟨.ofNat 32 (bitRev 32 A.toNat), count 3, ?rev⟩, fun v n => ?v2s⟩
  case saddi =>
    refine scalarGives_of_one (fun mw x => scalarFit mw false (sWord x + signedOf 9 i.toNat)) rfl ?_
    rw [sWord_eq, signedOf_toNat, scalarFit_signed, BitVec.ofInt_add, BitVec.ofInt_toInt]
    rfl
  case smovi =>
    refine (uniform_of_ready h _).trans ?_
    rw [sext, signedOf_toNat]
    rfl
  case smovh =>
    refine scalarGives_of_one (fun _ x => BitVec.ofNat 32 (x.toNat * 2 ^ 15) ||| i.zeroExtend 32) rfl ?_
    rw [ofNat_mul_twoPow]
  case pop =>
    rw [toNat_ofNat_of_le (popCount_le 32 _), popCount_eq_sum]
    rfl
  case clz =>
    have h := leadZeros_word A
    rwa [toNat_ofNat_of_le h.1]
  case ctz =>
    have h := trailZeros_word A
    rwa [toNat_ofNat_of_le h.1]
  case rev =>
    intro j hj
    rw [BitVec.getLsbD_ofNat, testBit_bitRev, decide_eq_true hj, Bool.true_and, Bool.true_and]
    rfl
  case v2s =>
    intro q h
    exact uniform_of_ready h _

/-- Settles O1: each value that the model computes on integers is the bit vectors' own, and the bit counts are counts of its bits. -/
theorem scalarLogicAndImmediates : Obligations.ScalarLogicAndImmediates := ⟨scalarLogic, scalarImmediate⟩

end Sys2Proof.Machine
end

section
/-! SUPPORT. Where branches go, and which entry of the reconvergence stack is taken. -/

namespace Sys2Proof.Machine

open Sys2Proof

variable {q : Desc} {s : State} {x : Group}

/-! ### Targets (R80, R100) -/

/-- The target of a branch is the offset of its base word and 4 times the signed displacement. -/
theorem target_signExtend {w : Nat} (s : State) (x : Group) (d : BitVec w) :
    target s x w d.toNat = basePc s x + 4 * d.signExtend 32 := by
  rw [target, signedOf_toNat, BitVec.ofInt_mul]
  rfl

theorem jumpTo_of_aligned {t : Word} (y : Group) (h : t.toNat % 4 = 0) : jumpTo s q y t = .next (finishAt s q y.dropChain t) :=
  if_neg (not_not.mpr h)

theorem jumpTo_of_misaligned {t : Word} (y : Group) (h : t.toNat % 4 ≠ 0) : jumpTo s q y t = .next (takeTrap s 0x0A t) :=
  if_pos h

/-- A branch that is not taken goes on at the next instruction. -/
theorem branch_of_cond (c : Prop) [Decidable c] (y : Group) (t : Word) : (if c then finishTo s q y t else finish s q y)
    = finishAt s q (if c then y.dropChain else y.endChain) (if c then t else nextPc s y) := by
  split <;> rfl

theorem branch_of_ne_zero (v : Word) (y : Group) (t : Word) : (if v ≠ 0 then finishTo s q y t else finish s q y)
    = finishAt s q (if v = 0 then y.endChain else y.dropChain) (if v = 0 then nextPc s y else t) := by
  rw [branch_of_cond, ite_not, ite_not]

/-- A result leaves the group where it is. -/
theorem nextPc_result (x : Group) (min code : Nat) (v : RegVal) : nextPc s (x.result min code v) = nextPc s x := by
  unfold Group.result
  split <;> rfl

/-! ### The reconvergence stack (R37) -/

/-- Lanes that a mask holds leave none of it exactly where they are the mask. -/
theorem and_not_eq_zero_iff {act taken : Mask} (h : ∀ i, taken.getLsbD i = true → act.getLsbD i = true) :
    act &&& ~~~ taken = 0 ↔ taken = act := by
  constructor
  · intro h0
    refine BitVec.eq_of_getLsbD_eq fun i hi => Bool.eq_iff_iff.mpr ⟨h i, fun ha => ?_⟩
    simpa [hi, ha] using congrArg (BitVec.getLsbD · i) h0
  · rintro rfl
    simp

/-- The entries without lanes above the topmost that holds one are passed over. -/
theorem popLive_append {xm : Mask} {above below : List StackEntry} {e : StackEntry} (ha : ∀ a ∈ above, a.mask &&& ~~~ xm = 0)
    (he : e.mask &&& ~~~ xm ≠ 0) : popLive xm (above ++ e :: below) = some (e, below) := by
  induction above with
  | nil => exact if_pos he
  | cons a above ih =>
    obtain ⟨hdead, hrest⟩ := List.forall_mem_cons.mp ha
    exact (if_neg (not_not.mpr hdead)).trans (ih hrest)

/-- R37: what a branch on a predicate does with the lanes that take it. -/
theorem branchLanes_cases {taken : Mask} (h : ∀ i, taken.getLsbD i = true → x.regs.act.getLsbD i = true) (dest : Word) :
    (taken = 0 → branchLanes s q x taken dest = .next (finish s q x))
    ∧ (taken ≠ 0 → taken = x.regs.act → branchLanes s q x taken dest = .next (finishAt s q x.dropChain dest))
    ∧ (taken ≠ 0 → taken ≠ x.regs.act → x.stack.length < 32 → branchLanes s q x taken dest = .next (finish s q
        (Group.dropChain { x.setAct (x.regs.act &&& ~~~ taken) with stack := ⟨true, dest, taken, x.regs.mw⟩ :: x.stack })))
    ∧ (taken ≠ 0 → taken ≠ x.regs.act → 32 ≤ x.stack.length → branchLanes s q x taken dest = .next (takeTrap s 0x19 0)) := by
  have hall := and_not_eq_zero_iff h
  refine ⟨fun h0 => if_pos h0, fun h0 heq => (if_neg h0).trans (if_pos (hall.mpr heq)), fun h0 hne hlt => ?_, fun h0 hne hle => ?_⟩
  · exact (if_neg h0).trans ((if_neg (mt hall.mp hne)).trans (if_neg (Nat.not_le.mpr hlt)))
  · exact (if_neg h0).trans ((if_neg (mt hall.mp hne)).trans (if_pos hle))

end Sys2Proof.Machine
end

section
/-! CERTIFICATES. Control flow. -/

namespace Sys2Proof.Machine

open Sys2Proof

/-- R126, R80, R100. -/
theorem branches : Claims.Branches := by
  intro st s x next q goes jumps
  have jump {i : Instr} {op : Nat} {reads writes : List Nat} {y : Group} {t : Word}
      (he : Ready (q i op reads writes) s x → exec i s = jumpTo s (q i op reads writes) y t) : jumps i op reads writes y t :=
    ⟨fun ha h => (he h).trans (jumpTo_of_aligned y ha), fun hm h => (he h).trans (jumpTo_of_misaligned y hm)⟩
  refine ⟨fun h => uniform_of_ready h _, fun d => ⟨fun h => ?bra, fun h => ?call⟩, jump fun h => issue_of_ready h _,
    fun a d => ⟨jump fun h => issue_of_ready h _, jump fun h => issue_of_ready h _⟩, ?scalar⟩
  case bra => rw [← target_signExtend]; exact issue_of_ready h _
  case call => rw [← target_signExtend]; exact issue_of_ready h _
  case scalar =>
    intro a d A far
    have hfar : target s x 15 d.toNat = far := target_signExtend s x d
    refine ⟨fun h => (issue_of_ready h _).trans ?brnz, fun h => (issue_of_ready h _).trans ?brz, ?loop⟩
    case brnz =>
      rw [branch_of_ne_zero, hfar]
    case brz =>
      rw [branch_of_cond, hfar]
    case loop =>
      intro y B
      refine ⟨fun ha => ?_, fun h => (issue_of_ready h _).trans (congrArg Host.Outcome.next ?_)⟩
      · have hy : y.regs = x.regs.writeS a.toNat (A - 1) :=
          (Group.result_zero_regs x _ _).trans (Regs.apply_scal _ _ _)
        show y.regs.readS a.toNat = A - 1
        rw [hy, Regs.readS_writeS_same _ _ ha]
      · have hnext : nextPc s y = next := nextPc_result x 0 _ _
        rw [← hfar, ← hnext]
        exact branch_of_ne_zero B y _

/-- R37, R84. -/
theorem divergence : Claims.Divergence := by
  intro st s x act q
  refine ⟨fun d h => ?ssy, ?branch, fun m => rfl, fun h => ?sync⟩
  case ssy =>
    rw [← target_signExtend]
    exact ⟨fun hlt => (issue_of_ready h _).trans (if_neg (Nat.not_le.mpr hlt)), fun hle => (issue_of_ready h _).trans (if_pos hle)⟩
  case branch =>
    intro branch p d
    have active (m : Mask) (i : Nat) (hi : (act &&& m).getLsbD i = true) : act.getLsbD i = true := by
      rw [BitVec.getLsbD_and, Bool.and_eq_true] at hi
      exact hi.1
    have splits {i : Instr} {op : Nat} {m : Mask} {dest : Word}
        (he : Ready (q i op [codeP p.toNat] codesAct) s x →
          exec i s = branchLanes s (q i op [codeP p.toNat] codesAct) x (act &&& m) dest) :
        branch i op p (act &&& m) dest := by
      intro h
      rw [he h]
      exact branchLanes_cases (active m) dest
    rw [← target_signExtend]
    exact ⟨splits fun h => issue_of_ready h _, splits fun h => issue_of_ready h _⟩
  case sync =>
    refine ⟨fun hs => (issue_of_ready h _).trans (if_pos (by simp [hs])), fun above e below hs ha he => ?_⟩
    refine (issue_of_ready h _).trans ((if_neg (by simp [hs])).trans ?_)
    rw [resumeOrRetire, hs, popLive_append ha he]
    rfl

/-- Settles O13: targets are those of R100, and the reconvergence stack passes over its entries without lanes. -/
theorem controlFlow : Obligations.ControlFlow := ⟨branches, divergence⟩

end Sys2Proof.Machine
end

section
/-! SUPPORT. What the operations of barriers and stage rings do to their crew (R49, R129). -/

namespace Sys2Proof.Machine

open Sys2Proof

/-- Changing every group of a crew changes each. -/
theorem getAt_map_option {α β : Type} (f : α → β) (xs : List (Option α)) (n : Nat) :
    getAt none (xs.map fun o => o.map f) n = (getAt none xs n).map f := by
  induction xs generalizing n with
  | nil => rfl
  | cons x xs ih =>
    cases n with
    | zero => rfl
    | succ n => exact ih n

@[simp] theorem Crew.getAt_setGroup_same (k : Crew) (i : Nat) (x : Option Group) : getAt none (k.setGroup i x).groups i = x :=
  getAt_setAt_same none k.groups i x

theorem Crew.getAt_setGroup_other (k : Crew) {i j : Nat} (x : Option Group) (h : j ≠ i) :
    getAt none (k.setGroup i x).groups j = getAt none k.groups j :=
  getAt_setAt_other none k.groups i j x h

/-! ### Barriers (R129) -/

/-- The phase that a group records of a barrier is the one it has seen of it. -/
theorem Group.seenPhase_see (x : Group) {b : Nat} (hb : b < 16) (ph : Bool) : (x.see b ph).seenPhase.getLsbD b = ph := by
  have hbit : (BitVec.ofNat 16 (2 ^ b)).getLsbD b = true := by
    rw [BitVec.getLsbD_ofNat, Nat.testBit_two_pow_self, decide_eq_true hb, Bool.true_and]
  cases ph
  · show (x.seenPhase &&& ~~~ BitVec.ofNat 16 (2 ^ b)).getLsbD b = false
    rw [BitVec.getLsbD_and, BitVec.getLsbD_not, hbit, Bool.not_true, Bool.and_false, Bool.and_false]
  · show (x.seenPhase ||| BitVec.ofNat 16 (2 ^ b)).getLsbD b = true
    rw [BitVec.getLsbD_or, hbit, Bool.or_true]

/-- A group that waits for a barrier's phase goes on, any other stays as it is. -/
def Group.passBarrier (b : Nat) (ph : Bool) (x : Group) : Group :=
  if x.wait = .barrier b && ph != x.seenPhase.getLsbD b then (x.see b ph).wakeUp else x

theorem Group.passBarrier_pc (b : Nat) (ph : Bool) (x : Group) : (x.passBarrier b ph).pc = x.pc := by
  unfold Group.passBarrier
  split <;> rfl

theorem Group.passBarrier_of_waiting {b : Nat} {ph : Bool} {x : Group} (hw : x.wait = .barrier b)
    (hs : x.seenPhase.getLsbD b = !ph) : (x.passBarrier b ph).wait = .none := by
  rw [Group.passBarrier, if_pos (by simp [hw, hs])]
  rfl

theorem Group.passBarrier_of_running {b : Nat} {ph : Bool} {x : Group} (hw : x.wait = .none) : x.passBarrier b ph = x :=
  if_neg (by simp [hw])

theorem Crew.getAt_wakeBarrier (k : Crew) (b j : Nat) :
    getAt none (k.wakeBarrier b).groups j = (getAt none k.groups j).map (Group.passBarrier b (k.barrier b).phase) :=
  getAt_map_option _ k.groups j

/-- A crew with one barrier replaced. -/
def Crew.setBarrier (k : Crew) (b : Nat) (o : Barrier) : Crew := { k with barriers := setAt (Barrier.start 1) k.barriers b o }

@[simp] theorem Crew.barrier_setBarrier_same (k : Crew) (b : Nat) (o : Barrier) : (k.setBarrier b o).barrier b = o :=
  getAt_setAt_same _ k.barriers b o

theorem Crew.barrier_setBarrier_other (k : Crew) {b c : Nat} (o : Barrier) (h : c ≠ b) : (k.setBarrier b o).barrier c = k.barrier c :=
  getAt_setAt_other _ k.barriers b c o h

/-- The arrival that reaches the expected count. -/
theorem Crew.arrive_of_last {k : Crew} {b : Nat} (h : (k.barrier b).arrived + 1 = (k.barrier b).expected) :
    k.arrive b = (k.setBarrier b ⟨(k.barrier b).expected, 0, !(k.barrier b).phase⟩).wakeBarrier b := if_pos h

/-- An arrival before it. -/
theorem Crew.arrive_of_early {k : Crew} {b : Nat} (h : (k.barrier b).arrived + 1 ≠ (k.barrier b).expected) :
    k.arrive b = k.setBarrier b ⟨(k.barrier b).expected, (k.barrier b).arrived + 1, (k.barrier b).phase⟩ := if_neg h

theorem Crew.barrier_arrive_other (k : Crew) {b c : Nat} (h : c ≠ b) : (k.arrive b).barrier c = k.barrier c := by
  by_cases hl : (k.barrier b).arrived + 1 = (k.barrier b).expected
  · rw [Crew.arrive_of_last hl]
    exact Crew.barrier_setBarrier_other k _ h
  · rw [Crew.arrive_of_early hl]
    exact Crew.barrier_setBarrier_other k _ h

theorem Crew.getAt_arrive_of_last {k : Crew} {b : Nat} (h : (k.barrier b).arrived + 1 = (k.barrier b).expected) (j : Nat) :
    getAt none (k.arrive b).groups j = (getAt none k.groups j).map (Group.passBarrier b (!(k.barrier b).phase)) := by
  rw [Crew.arrive_of_last h, Crew.getAt_wakeBarrier, Crew.barrier_setBarrier_same]
  rfl

theorem Crew.barrier_arrive_of_last {k : Crew} {b : Nat} (h : (k.barrier b).arrived + 1 = (k.barrier b).expected) :
    (k.arrive b).barrier b = ⟨(k.barrier b).expected, 0, !(k.barrier b).phase⟩ := by
  rw [Crew.arrive_of_last h]
  exact Crew.barrier_setBarrier_same k b _

theorem Crew.barrier_arrive_of_early {k : Crew} {b : Nat} (h : (k.barrier b).arrived + 1 ≠ (k.barrier b).expected) :
    (k.arrive b).barrier b = ⟨(k.barrier b).expected, (k.barrier b).arrived + 1, (k.barrier b).phase⟩ := by
  rw [Crew.arrive_of_early h, Crew.barrier_setBarrier_same]

/-- A group that has recorded the phase and waits, or does not wait, for a flip of it goes on once the phase is flipped. -/
theorem Group.passBarrier_wait {b : Nat} {ph waits : Bool} {x : Group} (hw : x.wait = if waits then .barrier b else .none)
    (hs : x.seenPhase.getLsbD b = ph) : (x.passBarrier b !ph).wait = .none := by
  cases waits
  · rw [Group.passBarrier_of_running hw, hw]
    rfl
  · exact Group.passBarrier_of_waiting hw (by rw [hs, Bool.not_not])

/-- The last arrival lets a group that waits for the phase, or has seen it and does not wait, go on; another arrival leaves the
groups as they are. -/
theorem Crew.group_arrive {k : Crew} {b j : Nat} {waits : Bool} {x : Group} (hx : getAt none k.groups j = some x)
    (hw : x.wait = if waits then .barrier b else .none) (hs : x.seenPhase.getLsbD b = (k.barrier b).phase) :
    ∃ y, getAt none (k.arrive b).groups j = some y ∧ y.pc = x.pc
      ∧ ((k.barrier b).arrived + 1 = (k.barrier b).expected → y.wait = .none)
      ∧ ((k.barrier b).arrived + 1 ≠ (k.barrier b).expected → y.wait = x.wait) := by
  by_cases hl : (k.barrier b).arrived + 1 = (k.barrier b).expected
  · refine ⟨x.passBarrier b !(k.barrier b).phase, ?_, Group.passBarrier_pc _ _ _, fun _ => Group.passBarrier_wait hw hs,
      fun hne => absurd hl hne⟩
    rw [Crew.getAt_arrive_of_last hl, hx]
    rfl
  · refine ⟨x, ?_, rfl, fun h => absurd h hl, fun _ => rfl⟩
    rw [Crew.arrive_of_early hl]
    exact hx

/-! ### Stage rings (R49) -/

/-- A crew with one slot of a ring replaced. -/
def Crew.setSlot (k : Crew) (r l : Nat) (v : Bool × Nat) : Crew :=
  let ring := getAt Ring.start k.rings r
  { k with rings := setAt Ring.start k.rings r { ring with slots := setAt (false, 0) ring.slots l v } }

@[simp] theorem Crew.ringSlot_setSlot_same (k : Crew) (r l : Nat) (v : Bool × Nat) : (k.setSlot r l v).ringSlot r l = v := by
  simp [Crew.ringSlot, Crew.setSlot]

theorem Crew.ringSlot_setSlot_other (k : Crew) {r l r' l' : Nat} (v : Bool × Nat) (h : r' ≠ r ∨ l' ≠ l) :
    (k.setSlot r l v).ringSlot r' l' = k.ringSlot r' l' := by
  by_cases hr : r' = r
  · subst hr
    have hl : l' ≠ l := h.resolve_left (fun hr => hr rfl)
    simp [Crew.ringSlot, Crew.setSlot, getAt_setAt_other _ _ _ _ _ hl]
  · simp [Crew.ringSlot, Crew.setSlot, getAt_setAt_other _ _ _ _ _ hr]

/-- A slot after one signal. -/
def Ring.signalled (ring : Ring) (slot : Bool × Nat) : Bool × Nat :=
  if slot.2 + 1 = ring.arrival then (!slot.1, 0) else (slot.1, slot.2 + 1)

/-- A signal changes its own slot's phase and count. -/
theorem Crew.ringSlot_signal (k : Crew) (r l r' l' : Nat) : (k.signal r l).ringSlot r' l'
    = (k.setSlot r l ((getAt Ring.start k.rings r).signalled (k.ringSlot r l))).ringSlot r' l' := by
  simp only [Crew.signal, Ring.signalled]
  split <;> rfl

/-- The groups of a crew go on where they are after a signal, those that wait for the slot's new phase among them. -/
theorem Crew.group_signal {k : Crew} {j : Nat} {x : Group} (r l : Nat) (h : getAt none k.groups j = some x) :
    ∃ y, getAt none (k.signal r l).groups j = some y ∧ y.pc = x.pc := by
  simp only [Crew.signal]
  split
  · refine ⟨_, (getAt_map_option _ k.groups j).trans (congrArg _ h), ?_⟩
    dsimp only
    split <;> rfl
  · exact ⟨x, h, rfl⟩

/-! ### Instructions of the crew -/

/-- An instruction that changes its crew leaves the crew as it makes it of the retired group, with that crew's groups. -/
theorem crewOp_gives {s : State} {g0 : Group} {k : Crew} (q : Desc) (x : Group) (f : Crew → Group → Crew)
    (hk : s.crew? s.cur.core s.cur.slot = some k) (hg : s.group? s.cur = some g0) :
    let k' := f (k.setGroup s.cur.grp (some (retired s q x))) (retired s q x)
    ∃ t, crewOp s q x f = .next t ∧ t.crew? s.cur.core s.cur.slot = some k'
      ∧ ∀ j, t.group? ⟨s.cur.core, s.cur.slot, j⟩ = getAt none k'.groups j :=
  have hcrew := State.crew_setCrew (finish s q x) s.cur.core s.cur.slot _
  ⟨_, crewOp_of_crew q x f hk hg, hcrew, fun _ => State.group_of_crew hcrew⟩

/-- An instruction of the crew that writes its own group alone. -/
theorem crewOp_writes_group {r : Out} {s : State} {g0 z : Group} {k : Crew} {q : Desc} {x : Group} {f : Crew → Group → Crew}
    (he : r = crewOp s q x f) (hk : s.crew? s.cur.core s.cur.slot = some k) (hg : s.group? s.cur = some g0)
    (hf : f (k.setGroup s.cur.grp (some (retired s q x))) (retired s q x)
      = (k.setGroup s.cur.grp (some (retired s q x))).setGroup s.cur.grp (some z)) :
    ∃ t, r = .next t ∧ t.group? s.cur = some z := by
  obtain ⟨t, ht, -, hgroup⟩ := crewOp_gives q x f hk hg
  refine ⟨t, he.trans ht, (hgroup _).trans ?_⟩
  rw [hf]
  exact Crew.getAt_setGroup_same _ _ _

/-- SRWAIT goes on where the slot has the phase, and else waits for it. -/
theorem ringWait_gives {q : Desc} {s : State} {x : Group} {k : Crew} (r : Nat) (slot : Group → Nat × Bool) (h : Ready q s x)
    (hk : s.crew? s.cur.core s.cur.slot = some k) : ∃ t y, ringWait q s r slot = .next t ∧ t.group? s.cur = some y
      ∧ y.pc = nextPc s x ∧ y.wait = if (k.ringSlot r (slot x).1).1 = (slot x).2 then .none else .ring r (slot x).1 (slot x).2 := by
  obtain ⟨g, hg, -⟩ := h.group
  have hexec : ringWait q s r slot = _ := issue_of_ready h _
  by_cases hp : (k.ringSlot r (slot x).1).1 = (slot x).2
  · obtain ⟨t, ht, hy⟩ := crewOp_writes_group hexec hk hg (if_pos hp)
    exact ⟨t, _, ht, hy, rfl, (if_pos hp).symm⟩
  · obtain ⟨t, ht, hy⟩ := crewOp_writes_group hexec hk hg (if_neg hp)
    exact ⟨t, _, ht, hy, rfl, (if_neg hp).symm⟩

/-- SRSIG counts one signal at its slot once the group's stores have left it. -/
theorem ringSignal_gives {q : Desc} {s : State} {x : Group} {k : Crew} (r : Nat) (slot : Group → Nat) (h : Ready q s x)
    (hk : s.crew? s.cur.core s.cur.slot = some k) (hrel : releasedCore x = true) :
    ∃ t k' y, ringSignal q s r slot = .next t ∧ t.crew? s.cur.core s.cur.slot = some k' ∧ t.group? s.cur = some y
      ∧ y.pc = nextPc s x ∧ ∀ r' l', k'.ringSlot r' l'
        = (k.setSlot r (slot x) ((getAt Ring.start k.rings r).signalled (k.ringSlot r (slot x)))).ringSlot r' l' := by
  obtain ⟨g, hg, -⟩ := h.group
  obtain ⟨t, ht, hcrew, hgroup⟩ := crewOp_gives q x (fun k _ => k.signal r (slot x)) hk hg
  obtain ⟨y, hy, hpc⟩ := Crew.group_signal r (slot x) (Crew.getAt_setGroup_same k s.cur.grp (some (retired s q x)))
  exact ⟨t, _, y, ((issue_of_ready h _).trans (if_neg (by simp [hrel]))).trans ht, hcrew, (hgroup _).trans hy, hpc,
    fun r' l' => Crew.ringSlot_signal _ _ _ _ _⟩

end Sys2Proof.Machine
end

section
/-! CERTIFICATES. Barriers and stage rings. -/

namespace Sys2Proof.Machine

open Sys2Proof

/-- R129, R323. -/
theorem barriers : Claims.Barriers := by
  intro st b s x k hk hrel o q arrives
  have hb : b.toNat < 16 := b.isLt
  have arrive {i : Instr} {waits : Bool} {mark : Group → Group} (hpc : ∀ y, (mark y).pc = y.pc)
      (hseen : ∀ y, (mark y).seenPhase = y.seenPhase)
      (hwait : ∀ y : Group, y.wait = .none → (mark y).wait = if waits then .barrier b.toNat else .none)
      (he : Ready (q i) s x → exec i s = crewOp s (q i) x fun k y =>
        (k.setGroup s.cur.grp (some (mark (y.see b.toNat (k.barrier b.toNat).phase)))).arrive b.toNat) : arrives i waits := by
    intro h
    obtain ⟨g, hg, -⟩ := h.group
    obtain ⟨t, ht, hcrew, hgroup⟩ := crewOp_gives (q i) x _ hk hg
    let k0 := (k.setGroup s.cur.grp (some (retired s (q i) x))).setGroup s.cur.grp
      (some (mark ((retired s (q i) x).see b.toNat o.phase)))
    have hsees : (mark ((retired s (q i) x).see b.toNat o.phase)).seenPhase.getLsbD b.toNat = o.phase :=
      (congrArg (·.getLsbD b.toNat) (hseen _)).trans (Group.seenPhase_see _ hb _)
    obtain ⟨y, hy, hypc, hylast, hyearly⟩ :=
      Crew.group_arrive (k := k0) (waits := waits) (Crew.getAt_setGroup_same _ _ _) (hwait _ rfl) hsees
    refine ⟨t, k0.arrive b.toNat, y, (he h).trans ht, hcrew, (hgroup _).trans hy, hypc.trans (hpc _),
      fun c hc => Crew.barrier_arrive_other k0 hc, fun hl => ⟨Crew.barrier_arrive_of_last (k := k0) hl, hylast hl, ?_⟩,
      fun hne => ⟨Crew.barrier_arrive_of_early (k := k0) hne, (hyearly hne).trans (hwait _ rfl)⟩⟩
    intro j z _ hj hz hzw hzs
    have hzk : getAt none k0.groups j = some z :=
      (Crew.getAt_setGroup_other _ _ hj).trans ((Crew.getAt_setGroup_other _ _ hj).trans
        ((State.group_of_crew (g := ⟨s.cur.core, s.cur.slot, j⟩) hk).symm.trans hz))
    obtain ⟨z', hz', hzpc, hzlast, -⟩ := Crew.group_arrive (k := k0) (waits := true) hzk hzw hzs
    exact ⟨z', (hgroup j).trans hz', hzlast hl, hzpc⟩
  have released {i : Instr} {w : Out} (he : Ready (q i) s x → exec i s = if !(releasedCore x) then .next (holdIssue s) else w)
      (h : Ready (q i) s x) : exec i s = w :=
    (he h).trans (if_neg (by simp [hrel]))
  refine ⟨arrive (mark := fun y => { y with wait := .barrier b.toNat }) (fun _ => rfl) (fun _ => rfl) (fun _ _ => rfl)
      (released fun h => issue_of_ready h _),
    arrive (mark := id) (fun _ => rfl) (fun _ => rfl) (fun _ hy => hy) (released fun h => issue_of_ready h _),
    fun h => ?wait, fun n => ?init⟩
  case wait =>
    obtain ⟨g, hg, -⟩ := h.group
    have hexec : exec (.barWait st b) s = _ := issue_of_ready h _
    by_cases hs : x.seenPhase.getLsbD b.toNat = o.phase
    · have hstop : ¬ (o.phase != x.seenPhase.getLsbD b.toNat) = true := by simp [hs]
      obtain ⟨t, ht, hy⟩ := crewOp_writes_group hexec hk hg (if_neg hstop)
      exact ⟨t, _, ht, hy, rfl, (if_pos hs).symm⟩
    · have hgo : (o.phase != x.seenPhase.getLsbD b.toNat) = true := bne_iff_ne.mpr (Ne.symm hs)
      obtain ⟨t, ht, hy⟩ := crewOp_writes_group hexec hk hg (if_pos hgo)
      exact ⟨t, _, ht, hy, rfl, (if_neg hs).symm⟩
  case init =>
    intro q standing h
    obtain ⟨g, hg, -⟩ := h.group
    have answer : exec (.barinit st b n) s = if n = 0 && standing then .next (takeTrap s 0x02 q.word)
        else crewOp s q x fun k _ => k.setBarrier b.toNat ⟨if n = 0 then k.total else n.toNat, 0, (k.barrier b.toNat).phase⟩ := by
      refine (issue_of_ready h _).trans ?_
      simp only [hk]
      rfl
    refine ⟨fun hn hst => answer.trans (if_pos (by simp [hn, hst])), fun hgo => ?_⟩
    obtain ⟨t, ht, hcrew, hgroup⟩ := crewOp_gives q x (fun k _ =>
      k.setBarrier b.toNat ⟨if n = 0 then k.total else n.toNat, 0, (k.barrier b.toNat).phase⟩) hk hg
    refine ⟨t, _, retired s q x, (answer.trans (if_neg ?_)).trans ht, hcrew, (hgroup _).trans (Crew.getAt_setGroup_same _ _ _), rfl,
      Crew.barrier_setBarrier_same _ _ _, fun c hc => Crew.barrier_setBarrier_other _ _ hc⟩
    simpa using hgo

/-- R49, R332. -/
theorem stageRings : Claims.StageRings := by
  intro st r s x k hk ring waits signals
  have signal {i : Instr} {rs : List Nat} (slot : Group → Nat)
      (he : exec i s = ringSignal { word := encode i, op := 0xEB, st := st.toNat, reads := rs } s r.toNat slot) :
      signals i rs (slot x) := by
    intro h hrel
    obtain ⟨t, k', y, ht, hcrew, hgroup, hpc, hslots⟩ := ringSignal_gives r.toNat slot h hk hrel
    refine ⟨t, k', y, he.trans ht, hcrew, hgroup, hpc, (hslots _ _).trans (Crew.ringSlot_setSlot_same _ _ _ _), fun r' l' hne => ?_⟩
    exact (hslots r' l').trans (Crew.ringSlot_setSlot_other _ _ hne)
  refine ⟨fun h l => ⟨fun hr => ringWait_gives r.toNat (fun _ => (l.toNat, h = 1)) hr hk, signal (fun _ => l.toNat) rfl⟩, ?_⟩
  intro a w
  have hslot : (w.extractLsb' 0 3).toNat = w.toNat % 8 := by simp
  rw [hslot]
  exact ⟨fun hr => ringWait_gives r.toNat
      (fun g => ((g.regs.readS a.toNat).toNat % 8, bitOf (g.regs.readS a.toNat).toNat 3)) hr hk,
    signal (fun g => (g.regs.readS a.toNat).toNat % 8) rfl⟩

/-- Settles O36: what an arrival and a signal do to the crew, and with it to the groups that wait. -/
theorem barriersAndStageRings : Obligations.BarriersAndStageRings := ⟨barriers, stageRings⟩

end Sys2Proof.Machine
end

section
/-! SUPPORT. What the system registers read after a write of one of them and after a retirement, and who may write which (R135 to R137). -/

namespace Sys2Proof.Machine

open Sys2Proof

variable {s : State} {k : Crew} {x : Group} {c n n' : Nat} {v : Word}

/-! ### Who may write (R136) -/

/-- The registers that any state may write. -/
def freeRegs : List Nat := [0x000, 0x001, 0x00D, 0x010, 0x011, 0x012, 0x013, 0x024]

/-- The registers that handler state may write. -/
def handlerRegs : List Nat := [0x020, 0x021, 0x022]

/-- The registers that core handler state may write. -/
def coreRegs : List Nat := [0x030, 0x031, 0x032, 0x033]

theorem mem_freeRegs : n ∈ freeRegs ↔ (n = 0x000 || n = 0x001 || n = 0x00D || (0x010 ≤ n && n ≤ 0x013) || n = 0x024) = true := by
  simp only [freeRegs, List.mem_cons, List.mem_nil_iff, or_false, Bool.or_eq_true, Bool.and_eq_true, decide_eq_true_eq]
  omega

theorem mem_handlerRegs : n ∈ handlerRegs ↔ (0x020 ≤ n && n ≤ 0x022) = true := by
  simp only [handlerRegs, List.mem_cons, List.mem_nil_iff, or_false, Bool.and_eq_true, decide_eq_true_eq]
  omega

theorem mem_coreRegs : n ∈ coreRegs ↔ (0x030 ≤ n && n ≤ 0x033) = true := by
  simp only [coreRegs, List.mem_cons, List.mem_nil_iff, or_false, Bool.and_eq_true, decide_eq_true_eq]
  omega

/-- The registers that are a group's own lie below those of the core. -/
theorem lt_of_mem_groupRegs (h : n ∈ freeRegs ∨ n ∈ handlerRegs) : n < 0x030 := by
  have hfree : ∀ m ∈ freeRegs, m < 0x030 := by decide
  have hhandler : ∀ m ∈ handlerRegs, m < 0x030 := by decide
  exact h.elim (hfree n) (hhandler n)

theorem le_of_mem_coreRegs (h : n ∈ coreRegs) : 0x030 ≤ n := by
  have hcore : ∀ m ∈ coreRegs, 0x030 ≤ m := by decide
  exact hcore n h

/-- A register may be written in the states that R136 lists for it. -/
theorem sysPriv_ok_iff {st : GState} : (sysPriv n).ok st = true ↔
    n ∈ freeRegs ∨ (n ∈ handlerRegs ∧ st ≠ .normal) ∨ (n ∈ coreRegs ∧ st = .core) := by
  rw [sysPriv, sysAccess]
  simp only [← mem_freeRegs, ← mem_handlerRegs, ← mem_coreRegs]
  by_cases hf : n ∈ freeRegs
  · simp [hf, Priv.ok]
  · by_cases hh : n ∈ handlerRegs
    · have hc : n ∉ coreRegs := fun hc => Nat.not_le.mpr (lt_of_mem_groupRegs (.inr hh)) (le_of_mem_coreRegs hc)
      simp [hf, hh, hc, Priv.ok]
    · by_cases hc : n ∈ coreRegs
      · simp [hf, hh, hc, Priv.ok]
      · simp [hf, hh, hc, Priv.ok]

/-! ### Reads after writes -/

/-! The low word of a 64-bit register, and the high word, after a write of one of them. -/

@[simp] theorem low_setHalf_zero (w : DWord) (v : Word) : (setHalf w 0 v).extractLsb' 0 32 = v :=
  BitVec.extractLsb'_append_eq_right

@[simp] theorem high_setHalf_zero (w : DWord) (v : Word) : (setHalf w 0 v).extractLsb' 32 32 = w.extractLsb' 32 32 :=
  BitVec.extractLsb'_append_eq_left

@[simp] theorem low_setHalf_one (w : DWord) (v : Word) : (setHalf w 1 v).extractLsb' 0 32 = w.extractLsb' 0 32 :=
  BitVec.extractLsb'_append_eq_right

@[simp] theorem high_setHalf_one (w : DWord) (v : Word) : (setHalf w 1 v).extractLsb' 32 32 = v :=
  BitVec.extractLsb'_append_eq_left

/-- What a write of a system register changes, field by field. -/
theorem sysWrite_eq (x : Group) (n : Nat) (v : Word) : sysWrite x n v = { x with
    regs := { x.regs with
      mw := if n = 0x000 then v else x.regs.mw
      flags := if n = 0x001 then v.truncate 7 else x.regs.flags
      bcc := if n = 0x00D then v else x.regs.bcc
      rngKey := if n = 0x010 then setHalf x.regs.rngKey 0 v else if n = 0x011 then setHalf x.regs.rngKey 1 v else x.regs.rngKey
      rngCtr := if n = 0x012 then setHalf x.regs.rngCtr 0 v else if n = 0x013 then setHalf x.regs.rngCtr 1 v else x.regs.rngCtr }
    tcause := if n = 0x020 then v.truncate 8 else x.tcause
    tpc := if n = 0x021 then v else x.tpc
    tval := if n = 0x022 then v else x.tval
    sstep := if n = 0x024 then v.getLsbD 0 else x.sstep } := by
  unfold sysWrite
  split
  case h_12 => simp_all
  all_goals rfl

/-- A write of a system register leaves every other one as it was. -/
theorem sysRead_sysWrite_other (h : n' ≠ n) : sysRead s c k (sysWrite x n v) n' = sysRead s c k x n' := by
  rw [sysWrite_eq]
  unfold sysRead
  split <;> simp [h.symm, apply_ite (BitVec.extractLsb' _ _)]

/-- A value without a bit above the lowest ones fits into them. -/
theorem toNat_lt_of_bitsOf {lo : Nat} (hlo : lo ≤ 31) (h : bitsOf v.toNat 31 lo = 0) : v.toNat < 2 ^ lo := by
  rw [bitsOf] at h
  have hlt : v.toNat / 2 ^ lo < 2 ^ (31 + 1 - lo) := by
    rw [Nat.div_lt_iff_lt_mul (Nat.two_pow_pos lo), ← pow_add]
    exact v.isLt.trans_le (Nat.pow_le_pow_right (by decide) (by omega))
  rw [Nat.mod_eq_of_lt hlt] at h
  exact (Nat.div_eq_zero_iff_lt (Nat.two_pow_pos lo)).mp h

/-- A register of some low bits reads back a value that fits into them. -/
theorem zeroExtend_truncate {lo : Nat} (hlo : lo ≤ 31) (h : bitsOf v.toNat 31 lo = 0) : (v.truncate lo).zeroExtend 32 = v :=
  BitVec.eq_of_toNat_eq (by
    have hlt := toNat_lt_of_bitsOf hlo h
    simpa [Nat.mod_eq_of_lt hlt] using v.isLt)

/-- A register of one bit reads back a value that fits into it. -/
theorem ite_getLsbD_zero (h : bitsOf v.toNat 31 1 = 0) : (if v.getLsbD 0 then 1 else 0) = v := by
  have hlt := toNat_lt_of_bitsOf (by decide) h
  have hv : v = 0 ∨ v = 1 := by
    simp only [BitVec.toNat_eq]
    exact Nat.le_one_iff_eq_zero_or_eq_one.mp (Nat.le_of_lt_succ hlt)
  obtain rfl | rfl := hv <;> rfl

/-- A register that is no accumulator owner reads back as the value written. -/
theorem sysRead_sysWrite_same (h : n ∈ freeRegs ∨ n ∈ handlerRegs) (hr : sysReserved n v = false) :
    sysRead s c k (sysWrite x n v) n = v := by
  unfold sysWrite
  split
  case h_12 => simp_all [freeRegs, handlerRegs]
  all_goals simp only [sysReserved, decide_eq_false_iff_not, not_not] at hr
  -- FLAGS, the halves of the two random-number registers, TCAUSE and SSTEP; every other register is the value itself
  case h_2 => exact zeroExtend_truncate (by decide) hr
  case h_4 => exact low_setHalf_zero _ v
  case h_5 => exact high_setHalf_one _ v
  case h_6 => exact low_setHalf_zero _ v
  case h_7 => exact high_setHalf_one _ v
  case h_8 => exact zeroExtend_truncate (by decide) hr
  case h_11 => exact ite_getLsbD_zero hr
  all_goals rfl

theorem sysRead_endChain (x : Group) (n : Nat) : sysRead s c k x.endChain n = sysRead s c k x n := by
  unfold Group.endChain Regs.endChain
  split <;> rfl

/-- Retirement changes no system register of a group that is not halted. -/
theorem sysRead_retire (st : Nat) (pc : Word) (since : Nat) (owed : Option Word) (h : x.halt = .running) :
    sysRead s c k { x.retire st pc with since := since, stepOwed := owed } n = sysRead s c k x n := by
  simp only [Group.retire, h]
  rfl

/-- A core register, and only one, lies from 0x030 on, and has no reserved bit. -/
theorem sysReserved_of_le (h : 0x030 ≤ n) : sysReserved n v = false := by
  unfold sysReserved
  split
  case h_6 => rfl
  all_goals omega

theorem sysRead_of_le (h : 0x030 ≤ n) : sysRead s c k x n = getAt 0 (s.core c).accown (n - 0x030) := by
  unfold sysRead
  split
  case h_28 => rfl
  all_goals omega

/-- Writing a group changes a core's crews alone. -/
theorem State.core_setGroup (s : State) (g : Gid) (x : Option Group) (c : Nat) :
    ∃ crews, (s.setGroup g x).core c = { s.core c with crews := crews } := by
  unfold State.setGroup
  split
  · exact ⟨_, rfl⟩
  · by_cases hc : c = g.core
    · subst hc
      exact ⟨_, State.core_setCore _ _ _⟩
    · exact ⟨_, State.core_setCore_other _ _ _ _ hc⟩

/-- Writing a group changes no system register of another value of the group. -/
theorem sysRead_setGroup (g : Gid) (y w : Option Group) (i : Nat) :
    sysRead { s.setGroup g y with pfx := none } c (k.setGroup i w) x n = sysRead s c k x n := by
  obtain ⟨crews, hcore⟩ := State.core_setGroup s g y c
  have hgt : (s.setGroup g y).gt = s.gt := State.setGroup_gt s g y
  generalize s.setGroup g y = t at hcore hgt ⊢
  have hcore' : State.core { t with pfx := none } c = { s.core c with crews := crews } := hcore
  have hgt' : State.gt { t with pfx := none } = s.gt := hgt
  unfold sysRead
  rw [hcore', hgt']
  rfl

/-! ### SYSRD and SYSWR -/

/-- The group after its write of a system register has retired. -/
def sysRetired (s : State) (q : Desc) (x : Group) (n : Nat) (v : Word) : Group :=
  { (sysWrite x n v).endChain.retire q.st (nextPc s x) with
    since := s.gt, stepOwed := if x.sstep && x.state = .normal then some x.pc else none }

theorem sysRead_sysRetired (s' : State) (q : Desc) (h : x.halt = .running) :
    sysRead s c k (sysRetired s' q x n v) n' = sysRead s c k (sysWrite x n v) n' := by
  have hrun : (sysWrite x n v).endChain.halt = .running := (congrArg Group.halt (sysWrite_eq x n v)).trans h
  rw [sysRetired, sysRead_retire _ _ _ _ hrun, sysRead_endChain]

variable {q : Desc}

theorem sysStore_of_reserved (h : sysReserved n v = true) : sysStore s q x n v = .next (takeTrap s 0x02 q.word) := if_pos h

theorem sysStore_of_group (hn : n < 0x030) (hr : sysReserved n v = false) (hp : n = 1 → flagsPending x = []) :
    sysStore s q x n v = .next { s.setGroup s.cur (some (sysRetired s q x n v)) with pfx := none } := by
  have hflags : ¬ (n = 0x001 && !(flagsPending x).isEmpty) = true := by
    simpa using hp
  exact (if_neg (by simp [hr])).trans ((if_neg hflags).trans (if_neg (Nat.not_le.mpr hn)))

theorem sysStore_of_owner (hn : 0x030 ≤ n) (hb : regionBusy (s.core s.cur.core) (n - 0x030) = false)
    (hw : getAt none (s.core s.cur.core).ownWrite (n - 0x030) = none) :
    sysStore s q x n v = .next (finish (s.setCore s.cur.core (setOwner (s.core s.cur.core) (n - 0x030) v)) q x) := by
  have hflags : ¬ (n = 0x001 && !(flagsPending x).isEmpty) = true := by
    have hne : n ≠ 1 := by omega
    simp [hne]
  have hres : sysReserved n v = false := sysReserved_of_le hn
  exact (if_neg (by simp [hres])).trans ((if_neg hflags).trans ((if_pos hn).trans (if_neg (by simp [hb, hw]))))

theorem sysUpdate_of_ready {a : Nat} (f : Word → Word → Word) (h : Ready q s x) (hk : s.crew? s.cur.core s.cur.slot = some k) :
    sysUpdate s q a n f = sysStore s q x n (f (sysRead s s.cur.core k x n) (x.regs.readS a)) := by
  refine (issue_of_ready h _).trans ?_
  simp only [hk]

theorem exec_sysrd {st : BitVec 3} {d : BitVec 6} {r : BitVec 12}
    (h : Ready { word := encode (.sysrd st d r), op := 0x17, st := st.toNat, writes := [codeS d.toNat] } s x)
    (hk : s.crew? s.cur.core s.cur.slot = some k) (hp : r = 1 → flagsPending x = []) :
    exec (.sysrd st d r) s = .next (finish s { word := encode (.sysrd st d r), op := 0x17, st := st.toNat, writes := [codeS d.toNat] }
      (x.result 0 (codeS d.toNat) (.scal (sysRead s s.cur.core k x r.toNat)))) := by
  refine (issue_of_ready h _).trans ((if_neg ?_).trans ?_)
  · simpa using hp
  · simp only [hk]

end Sys2Proof.Machine
end

section
/-! CERTIFICATES. System registers. -/

namespace Sys2Proof.Machine

open Sys2Proof

/-- R135, R136, R88, R163. -/
theorem systemRegisterRead : Claims.SystemRegisterRead := by
  intro st d r s x k q gives c version h hk
  have reads (a : BitVec 12) (ha : a ≠ 1) {v : Word} (hv : sysRead s s.cur.core k x a.toNat = v) (hr : r = a) : gives v := by
    subst hv hr
    exact exec_sysrd h hk fun h1 => absurd h1 ha
  refine ⟨reads 0x000 (by decide) rfl, ?flags, ?pending,
    reads 0x002 (by decide) rfl, reads 0x003 (by decide) rfl, reads 0x004 (by decide) rfl, reads 0x005 (by decide) rfl,
    reads 0x006 (by decide) rfl, reads 0x007 (by decide) rfl, reads 0x008 (by decide) rfl, reads 0x009 (by decide) rfl,
    reads 0x00A (by decide) rfl, reads 0x00B (by decide) rfl, reads 0x00C (by decide) rfl, reads 0x00D (by decide) rfl,
    reads 0x00E (by decide) rfl, reads 0x00F (by decide) rfl, reads 0x010 (by decide) rfl, reads 0x011 (by decide) rfl,
    reads 0x012 (by decide) rfl, reads 0x013 (by decide) rfl, reads 0x014 (by decide) rfl, reads 0x020 (by decide) rfl,
    reads 0x021 (by decide) rfl, reads 0x022 (by decide) rfl, reads 0x023 (by decide) rfl, reads 0x024 (by decide) rfl,
    reads 0x028 (by decide) rfl, fun n => ?owner⟩
  case flags =>
    rintro rfl hp
    exact exec_sysrd h hk fun _ => hp
  case pending =>
    rintro rfl hp
    obtain ⟨g, hg, -⟩ := h.group
    have hwait : exec (.sysrd st d 1) s = .next (waitIssue s (.result (flagsPending x) [codeS d.toNat])) :=
      (issue_of_ready h _).trans (if_pos (by simpa using hp))
    exact ⟨_, _, hwait, State.group_modGroup _ hg, rfl⟩
  case owner =>
    have hn : (0x030 + n.zeroExtend 12 : BitVec 12).toNat = 0x030 + n.toNat := by
      simp
      omega
    refine reads _ ?_ ?_
    · intro h1
      have htoNat := congrArg BitVec.toNat h1
      rw [hn, show (1 : BitVec 12).toNat = 1 from rfl] at htoNat
      omega
    · rw [hn, sysRead_of_le (Nat.le_add_right _ _), Nat.add_sub_cancel_left]

/-- R135 to R137, R92, R118. -/
theorem systemRegisterWrite : Claims.SystemRegisterWrite := by
  intro st a r s x k hrun n old A listed free handler core writable form hx hk
  have forms {i : Instr} (f : Word → Word → Word)
      (he : exec i s = sysUpdate s
        { word := encode i, op := 0x18, st := st.toNat, priv := sysPriv n, reads := [codeS a.toNat] } a.toNat n f) :
      form i (f old A) := by
    let q : Desc := { word := encode i, op := 0x18, st := st.toNat, priv := sysPriv n, reads := [codeS a.toNat] }
    have stores (hready : Ready q s x) : exec i s = sysStore s q x n (f old A) := he.trans (sysUpdate_of_ready f hready hk)
    refine ⟨fun _ hnot => ?refused,
      fun hready => ⟨fun _ hres => (stores hready).trans (sysStore_of_reserved hres), ?group, ?owner⟩⟩
    case refused =>
      obtain ⟨g, hg, rfl⟩ := Option.map_eq_some_iff.mp hx
      have hlegal : ¬ q.illegal s g.settle := by
        rintro (hv | ht)
        · exact absurd hv (Nat.not_lt_zero _)
        · exact ht (effType_mem_setA _ _)
      have hop : 0x18 < 0x40 := by decide
      have hpriv : q.priv.ok g.settle.state = false := Bool.eq_false_iff.mpr (mt sysPriv_ok_iff.mp hnot)
      exact he.trans (issue_of_trap hg (gate_of_priv hlegal (roleAllows_of_lt hop) hpriv) _)
    case group =>
      intro hw hc hres hp
      have hplace : n ∈ freeRegs ∨ n ∈ handlerRegs := hw.imp_right fun h => (h.resolve_right fun h => hc h.1).1
      obtain ⟨g, hg, -⟩ := hready.group
      have hlt : n < 0x030 := lt_of_mem_groupRegs hplace
      let y := sysRetired s q x n (f old A)
      have hread (n' : Nat) := (sysRead_setGroup (s := s) (c := s.cur.core) (k := k) (x := y) (n := n') s.cur
        (some y) (some y) s.cur.grp).trans (sysRead_sysRetired s q hrun)
      exact ⟨_, _, _, (stores hready).trans (sysStore_of_group hlt hres hp), State.crew_setGroup s s.cur _ k hk,
        State.group_setGroup s s.cur _ k hk, rfl, State.setGroup_mem s s.cur _, (hread n).trans (sysRead_sysWrite_same hplace hres),
        fun n' hne => (hread n').trans (sysRead_sysWrite_other hne)⟩
    case owner =>
      intro hc _ hbusy hwrite
      exact (stores hready).trans (sysStore_of_owner (le_of_mem_coreRegs hc) hbusy hwrite)
  exact ⟨forms (fun _ x => x) rfl, forms (fun o x => o ||| x) rfl, forms (fun o x => o &&& ~~~ x) rfl⟩

/-- Settles O18: a write changes one register's field, and neither retirement nor the write of a group changes any other. -/
theorem systemRegisters : Obligations.SystemRegisters := ⟨systemRegisterRead, systemRegisterWrite⟩

end Sys2Proof.Machine
end

section
/-! SUPPORT. The elements of a register as natural numbers and as integers (R107 to R109), and the lane-by-lane instructions without flags (R143). -/

namespace Sys2Proof.Machine

open Sys2Proof

/-! ### Elements and integers (R107 to R109, R143) -/

theorem etWidth_pos (t : ETypeCode) : 0 < etWidth t := by
  unfold etWidth
  split <;> decide

theorem etCount_mul_etWidth {t : ETypeCode} (ht : t < 14) : etCount t * etWidth t = 32 := by
  interval_cases t <;> rfl

/-- Field k of n bits. -/
theorem bitsOf_field {n : Nat} (hn : 0 < n) (y k : Nat) : bitsOf y (n * (k + 1) - 1) (n * k) = y / 2 ^ (n * k) % 2 ^ n := by
  have hbits : n * (k + 1) - 1 + 1 - n * k = n := by
    rw [Nat.mul_succ]
    omega
  rw [bitsOf, hbits]

theorem elemAt_eq (t : ETypeCode) (v : Word) (k : Nat) : elemAt t v k = v.toNat / 2 ^ (etWidth t * k) % 2 ^ etWidth t :=
  bitsOf_field (etWidth_pos t) v.toNat k

theorem elemAt_lt (t : ETypeCode) (v : Word) (k : Nat) : elemAt t v k < 2 ^ etWidth t := by
  rw [elemAt_eq]
  exact Nat.mod_lt _ (Nat.two_pow_pos _)

@[simp] theorem elemAt_mod (t : ETypeCode) (v : Word) (k : Nat) : elemAt t v k % 2 ^ etWidth t = elemAt t v k :=
  Nat.mod_eq_of_lt (elemAt_lt t v k)

theorem wrapTo_eq_toNat (w : Nat) (n : Int) : wrapTo w n = (BitVec.ofInt w n).toNat := (BitVec.toNat_ofInt n).symm

theorem wrapTo_lt (w : Nat) (n : Int) : wrapTo w n < 2 ^ w := by
  rw [wrapTo_eq_toNat]
  exact BitVec.isLt _

theorem natCast_wrapTo (w : Nat) (n : Int) : (wrapTo w n : Int) = n % ((2 ^ w : Nat) : Int) :=
  Int.toNat_of_nonneg (Int.emod_nonneg _ (by positivity))

/-- The range of a type holds the integers of its elements and as many as there are patterns (R107). -/
theorem etRange_width (t : ETypeCode) : (etRange t).2 - (etRange t).1 = (2 ^ etWidth t : Nat) - 1 ∧ (etRange t).1 ≤ (etRange t).2 := by
  obtain ⟨n, hn⟩ := Nat.exists_eq_succ_of_ne_zero (etWidth_pos t).ne'
  have hp := Nat.two_pow_pos n
  simp only [etRange, hn, Nat.succ_sub_one, Nat.succ_eq_add_one, pow_succ]
  split <;> dsimp only <;> omega

theorem etInt?_mem_range (t : ETypeCode) (b : Nat) : (etRange t).1 ≤ etInt? t b ∧ etInt? t b ≤ (etRange t).2 := by
  obtain ⟨n, hn⟩ := Nat.exists_eq_succ_of_ne_zero (etWidth_pos t).ne'
  have hlt : b % 2 ^ (n + 1) < 2 ^ (n + 1) := Nat.mod_lt _ (Nat.two_pow_pos _)
  simp only [etRange, etInt?, signedOf, hn, Nat.succ_sub_one, Nat.succ_eq_add_one]
  generalize b % 2 ^ (n + 1) = y at hlt
  have hp := Nat.two_pow_pos n
  rw [pow_succ] at hlt ⊢
  split
  · split <;> constructor <;> dsimp only <;> omega
  · constructor <;> dsimp only <;> omega

/-- The pattern of an integer in the range of the type has the value it came from (R107, R109). -/
theorem etInt?_wrapTo {t : ETypeCode} {n : Int} (hlo : (etRange t).1 ≤ n) (hhi : n ≤ (etRange t).2) :
    etInt? t (wrapTo (etWidth t) n) = n := by
  obtain ⟨w, hw⟩ := Nat.exists_eq_succ_of_ne_zero (etWidth_pos t).ne'
  have hp := Nat.two_pow_pos w
  have hlt := wrapTo_lt (w + 1) n
  have hcast := natCast_wrapTo (w + 1) n
  simp only [etRange, hw, Nat.succ_sub_one, Nat.succ_eq_add_one] at hlo hhi
  simp only [etInt?, signedOf, hw, Nat.succ_sub_one, Nat.succ_eq_add_one, Nat.mod_eq_of_lt hlt]
  generalize wrapTo (w + 1) n = y at hlt hcast ⊢
  rw [pow_succ] at *
  split at hlo <;> rename_i hs <;> simp only [hs, if_true, if_false, Bool.false_eq_true] at hlo hhi ⊢
  · by_cases h0 : 0 ≤ n
    · rw [Int.emod_eq_of_lt h0 (by omega)] at hcast
      rw [if_pos (by omega), hcast]
    · have hneg : n % ((2 ^ w * 2 : Nat) : Int) = n + (2 ^ w * 2 : Nat) := by
        rw [← Int.add_emod_right, Int.emod_eq_of_lt (by omega) (by omega)]
      rw [if_neg (by omega)]
      omega
  · rw [hcast, Int.emod_eq_of_lt hlo (by omega)]

theorem fit_lt (sat : Bool) (t : ETypeCode) (n : Int) : fit sat t n < 2 ^ etWidth t := by
  unfold fit
  split <;> exact wrapTo_lt _ _

/-- `fit` gives the pattern that R143 names, clamped or modulo 2^w. -/
theorem fits_fit (t : ETypeCode) (sat : Bool) (n : Int) : fits t sat n (fit sat t n) := by
  have hrange := (etRange_width t).2
  cases sat
  · exact natCast_wrapTo _ _
  · refine ⟨?_, fit_lt true t n⟩
    show etInt? t (wrapTo (etWidth t) (clampTo (etRange t).1 (etRange t).2 n)) = _
    rw [clampTo_eq hrange, etInt?_wrapTo (le_max_left _ _) (by omega), min_comm]

theorem fits_wrapTo (t : ETypeCode) (n : Int) : fits t false n (wrapTo (etWidth t) n) := fits_fit t false n

/-- The lesser of two elements is the one that is not above the other. -/
theorem etInt?_min (t : ETypeCode) (a b : Nat) :
    etInt? t (if etInt? t b < etInt? t a then b else a) = min (etInt? t a) (etInt? t b) := by
  split <;> omega

theorem etInt?_max (t : ETypeCode) (a b : Nat) :
    etInt? t (if etInt? t a < etInt? t b then b else a) = max (etInt? t a) (etInt? t b) := by
  split <;> omega

/-- The distance of two elements fits the element unsigned (R145). -/
theorem natAbs_sub_lt (t : ETypeCode) (a b : Nat) : (etInt? t a - etInt? t b).natAbs < 2 ^ etWidth t := by
  have hwidth := (etRange_width t).1
  have ha := etInt?_mem_range t a
  have hb := etInt?_mem_range t b
  omega

theorem natCast_natAbs_sub (m n : Int) : ((m - n).natAbs : Int) = max (m - n) (n - m) := by
  have hle := le_total m n
  omega

theorem ite_lt_of_lt {c : Prop} [Decidable c] {m n k : Nat} (hm : m < k) (hn : n < k) : (if c then m else n) < k := by
  split <;> assumption

/-! ### Shifts and bit counts (R145, R146) -/

theorem elemShl_lt (w a k : Nat) : elemShl w a k < 2 ^ w := by
  unfold elemShl
  split
  · positivity
  · exact Nat.mod_lt _ (Nat.two_pow_pos w)

theorem elemShr_lt {w a : Nat} (k : Nat) (h : a < 2 ^ w) : elemShr w a k < 2 ^ w := by
  unfold elemShr
  split
  · positivity
  · exact (Nat.div_le_self _ _).trans_lt h

theorem leadZeros_spec {w b : Nat} (h : b < 2 ^ w) :
    leadZeros w b ≤ w ∧ b < 2 ^ (w - leadZeros w b) ∧ (leadZeros w b < w → b.testBit (w - 1 - leadZeros w b) = true) := by
  obtain ⟨hle, hzero, hone⟩ := find?_range_getD (fun i => b.testBit (w - 1 - i)) w
  refine ⟨hle, Nat.lt_pow_two_of_testBit _ fun i hi => ?_, hone⟩
  by_cases hw : i < w
  · have hbit := hzero (w - 1 - i) (by unfold leadZeros at hi; omega)
    rwa [show w - 1 - (w - 1 - i) = i by omega] at hbit
  · exact Nat.testBit_lt_two_pow (h.trans_le (Nat.pow_le_pow_right (by decide) (by omega)))

theorem trailZeros_spec (w b : Nat) :
    trailZeros w b ≤ w ∧ (∀ j, j < trailZeros w b → b.testBit j = false) ∧ (trailZeros w b < w → b.testBit (trailZeros w b) = true) :=
  find?_range_getD (fun i => b.testBit i) w

/-- A count of the bits of an element, and their reversal, fit the element. -/
theorem bitCount_lt (f : Nat) {w b : Nat} (h : b < 2 ^ w) : bitCount f w b < 2 ^ w := by
  unfold bitCount
  split
  · exact (popCount_le w b).trans_lt Nat.lt_two_pow_self
  · exact (leadZeros_spec h).1.trans_lt Nat.lt_two_pow_self
  · exact (trailZeros_spec w b).1.trans_lt Nat.lt_two_pow_self
  · refine Nat.lt_pow_two_of_testBit _ fun j hj => ?_
    rw [testBit_bitRev, decide_eq_false (by omega), Bool.false_and]

/-! ### Lane-by-lane instructions (R143) -/

/-- The instruction's element type is one that its description names. -/
theorem Ready.type_mem {q : Desc} {s : State} {x : Group} (h : Ready q s x) : effType s x ∈ q.types := by
  have hp := h.2
  simp only [Desc.passes, Bool.and_eq_true, List.contains_iff_mem] at hp
  obtain ⟨⟨⟨⟨⟨⟨-, ht⟩, -⟩, -⟩, -⟩, -⟩, -⟩ := hp
  exact ht

section
variable {i : Instr} {q : Desc} {d : Nat} {s : State} {x : Group} {P : Nat → Word → Prop}

/-- A lane-by-lane instruction gives each active lane the word that it computes for it. -/
theorem vectorGives_of_vecOp {f : Group → Nat → Word} (he : exec i s = vecOp q d f s)
    (hP : effType s x ∈ q.types → ∀ l, l < 128 → P l (f x l)) : vectorGives i q d s x P := by
  intro h
  refine ⟨fun hm => he.trans (vecOp_of_empty h hm), fun hm => ⟨_, he.trans (vecOp_of_ready h hm), fun l hl => ?_⟩⟩
  rw [laneGet_lanes _ hl]
  split
  · exact hP h.type_mem l hl
  · rfl

/-- An instruction of whole registers. -/
theorem vectorGives_word {f : Group → Nat → Word} {g : Nat → Word} (he : exec i s = vecOp q d f s)
    (hf : ∀ l, l < 128 → f x l = g l) : vectorGives i q d s x fun l r => r = g l :=
  vectorGives_of_vecOp he fun _ => hf

/-- An element-wise instruction, where the function of the elements fits the element. -/
theorem vectorGives_elements {f : Group → Nat → Nat → Nat} (he : exec i s = vecOp q d (fun g l => elemMap (effType s g) (f g l)) s)
    (ht : ∀ t ∈ q.types, t < 14) (hlt : ∀ l k, f x l k < 2 ^ etWidth (effType s x))
    (hP : ∀ l r, (∀ k, k < etCount (effType s x) → elemAt (effType s x) r k = f x l k) → P l r) : vectorGives i q d s x P :=
  vectorGives_of_vecOp he fun hmem l _ => hP l _ fun k hk => by
    rw [elemAt_elemMap _ _ hk (ht _ hmem), Nat.mod_eq_of_lt (hlt l k)]

end

theorem lt_of_mem_setI : ∀ t ∈ setI, t < 14 := by decide

end Sys2Proof.Machine
end

section
/-! CERTIFICATES. Integer vector instructions. -/

namespace Sys2Proof.Machine

open Sys2Proof

/-- Settles O3: each instruction maps its function over the elements, whose results fit the element. -/
theorem vectorArithmetic : Obligations.VectorArithmetic := by
  intro st d a b s x t sat w pat val z
  dsimp only
  have map {i : Instr} {op min : Nat} {rs : List Nat} {f : Group → Nat → Nat → Nat} {P : Nat → Word → Prop}
      (he : exec i s = vecOp (vDesc (encode i) op st.toNat min setI d.toNat rs) d.toNat (fun g l => elemMap (effType s g) (f g l)) s)
      (hlt : ∀ l k, f x l k < 2 ^ w) (hP : ∀ l r, (∀ k, k < etCount t → elemAt t r k = f x l k) → P l r) :
      vectorGives i (vDesc (encode i) op st.toNat min setI d.toNat rs) d.toNat s x P :=
    vectorGives_elements he lt_of_mem_setI hlt hP
  have bits (f : BitVec 7) {P : Nat → Word → Prop}
      (hP : ∀ l r, (∀ k, k < etCount t → elemAt t r k = bitCount f.toNat w (pat a l k)) → P l r) :
      vectorGives (.vbits st d a f) (vDesc (encode (.vbits st d a f)) 0x50 st.toNat 0 setI d.toNat [a.toNat]) d.toNat s x P :=
    map rfl (fun l k => bitCount_lt _ (elemAt_lt ..)) hP
  refine ⟨?vadd, ?vsub, ?vmul, ?vmulh, ?vmad, ?vshl, ?vshr, ?vsra, ?vmin, ?vmax, ?vabsd, fun i => ?vaddi, ?pop, ?clz, ?ctz, ?rev⟩
  case vadd | vsub | vmul | vmad => exact map rfl (fun _ _ => fit_lt ..) fun l r hr k hk => hr k hk ▸ fits_fit ..
  case vmulh | vsra => exact map rfl (fun _ _ => wrapTo_lt ..) fun l r hr k hk => hr k hk ▸ fits_wrapTo ..
  case vshl => exact map rfl (fun _ _ => elemShl_lt ..) fun l r hr => hr
  case vshr => exact map rfl (fun _ _ => elemShr_lt _ (elemAt_lt ..)) fun l r hr => hr
  case vmin => exact map rfl (fun _ _ => ite_lt_of_lt (elemAt_lt ..) (elemAt_lt ..)) fun l r hr k hk => hr k hk ▸ etInt?_min ..
  case vmax => exact map rfl (fun _ _ => ite_lt_of_lt (elemAt_lt ..) (elemAt_lt ..)) fun l r hr k hk => hr k hk ▸ etInt?_max ..
  case vabsd => exact map rfl (fun _ _ => natAbs_sub_lt ..) fun l r hr k hk => hr k hk ▸ natCast_natAbs_sub ..
  case vaddi => exact map rfl (fun _ _ => fit_lt ..) fun l r hr k hk => hr k hk ▸ signedOf_toNat i ▸ fits_fit ..
  case pop => exact bits 0 fun l r hr k hk => (hr k hk).trans (popCount_eq_sum ..)
  case clz => exact bits 1 fun l r hr k hk => hr k hk ▸ leadZeros_spec (elemAt_lt ..)
  case ctz => exact bits 2 fun l r hr k hk => hr k hk ▸ trailZeros_spec ..
  case rev =>
    refine bits 3 fun l r hr k hk j hj => ?_
    rw [hr k hk]
    exact (testBit_bitRev w _ j).trans (by rw [decide_eq_true hj, Bool.true_and])

end Sys2Proof.Machine
end

section
/-! SUPPORT. Words read from predicates and from other lanes, and the instructions of whole registers (R141, R148, R150, R154). -/

namespace Sys2Proof.Machine

open Sys2Proof

/-- A vector result that zeroes no lane. -/
theorem vecVal_zero (m : Mask) (f : Nat → Word) : vecVal m 0 f = .vec m (lanes.map fun l => if m.getLsbD l then f l else 0) := by
  exact congrArg (RegVal.vec · _) BitVec.or_zero

/-- A number put together from bits, lowest first. -/
theorem testBit_foldl_twoPow (p : Nat → Bool) (n : Nat) :
    let y := (List.range n).foldl (fun y j => if p j then y + 2 ^ j else y) 0
    y < 2 ^ n ∧ ∀ j, y.testBit j = (decide (j < n) && p j) := by
  induction n with
  | zero => simp
  | succ n ih =>
    obtain ⟨hlt, hbits⟩ := ih
    rw [List.range_succ, List.foldl_append, List.foldl_cons, List.foldl_nil]
    generalize (List.range n).foldl _ 0 = y at hlt hbits ⊢
    refine ⟨by rw [pow_succ]; split <;> omega, fun j => ?_⟩
    obtain hj | rfl | hj := lt_trichotomy j n
    · split
      · rw [Nat.add_comm, Nat.testBit_two_pow_add_gt hj, hbits, decide_eq_true hj, decide_eq_true (by omega)]
      · rw [hbits, decide_eq_true hj, decide_eq_true (by omega)]
    · split
      · rw [Nat.add_comm, Nat.testBit_two_pow_add_eq, hbits]
        simp [*]
      · rw [hbits]
        simp [*]
    · have hbound : (if p n then y + 2 ^ n else y) < 2 ^ j :=
        lt_of_lt_of_le (by rw [pow_succ]; split <;> omega) (Nat.pow_le_pow_right (by decide) (Nat.succ_le_of_lt hj))
      rw [Nat.testBit_lt_two_pow hbound, decide_eq_false (by omega), Bool.false_and]

/-- Bit j of a lane's predicates is that of predicate j (R148). -/
theorem getLsbD_predBits (r : Regs) (l : Nat) {j : Nat} (hj : j < 32) :
    (predBits r l).getLsbD j = (decide (j < 24) && (r.readP j).getLsbD l) := by
  rw [predBits, BitVec.getLsbD_ofNat, (testBit_foldl_twoPow (fun j => (r.readP j).getLsbD l) 24).2, decide_eq_true hj, Bool.true_and]

end Sys2Proof.Machine
end

section
/-! CERTIFICATES. Vector instructions of whole registers. -/

namespace Sys2Proof.Machine

open Sys2Proof

/-- Settles O4: each instruction gives every active lane its word, read from the lane's own registers or from another lane's. -/
theorem vectorWords : Obligations.VectorWords := by
  intro st d a b s x V
  dsimp only
  refine ⟨?and, ?or, ?xor, fun i => ?movi, ?sel, ?mov, ?shfl, fun i => ⟨?shflx, ?bcast⟩, ?laneid, fun i hi => ?pget, ?pgetAll, fun h => ?rng,
    fun sa h => ?s2v⟩
  case and | or | xor | mov | bcast | laneid => exact vectorGives_word rfl fun _ _ => rfl
  case movi =>
    refine vectorGives_word rfl fun _ _ => ?_
    rw [sext, signedOf_toNat]
    rfl
  case sel => exact vectorGives_word rfl fun _ _ => ite_not ..
  case shfl =>
    refine vectorGives_word rfl fun l _ => congrArg (x.regs.readV a.toNat) ?_
    rw [BitVec.extractLsb'_toNat, Nat.shiftRight_zero]
  case shflx =>
    refine vectorGives_word rfl fun l hl => congrArg (x.regs.readV a.toNat) ?_
    rw [BitVec.toNat_xor, BitVec.toNat_ofNat, Nat.mod_eq_of_lt hl]
    rfl
  case pget =>
    have hone : i.toNat ≠ 127 := by omega
    refine vectorGives_word (f := fun g l => if (g.regs.readP i.toNat).getLsbD l then 1 else 0) ?_ fun _ _ => rfl
    show execPget st d i s = _
    simp only [execPget, if_neg hone]
  case pgetAll => exact vectorGives_of_vecOp rfl fun _ l _ j hj => getLsbD_predBits x.regs l hj
  case rng =>
    exact ⟨fun hm => (issue_of_ready h _).trans (if_pos hm),
      fun hm => ⟨_, (issue_of_ready h _).trans (if_neg hm), fun l hl => laneGet_lanes _ hl⟩⟩
  case s2v =>
    have answer : exec (.s2v st d sa) s = .next (finish s _ (if x.regs.act = 0 then x else
        x.result 1 d.toNat (vecVal x.regs.act 0 fun _ => x.regs.readS sa.toNat))) := issue_of_ready h _
    refine ⟨fun hact => by rw [answer, if_pos hact], fun hact => ?_⟩
    rw [if_neg hact, vecVal_zero] at answer
    exact ⟨_, answer, fun l hl hl1 => (laneGet_lanes _ hl).trans (if_pos hl1)⟩

end Sys2Proof.Machine
end

section
/-! SUPPORT. Instructions with a predicate destination, integer compares, the functions of predicates, carries and the words of a mask (R147 to R149). -/

namespace Sys2Proof.Machine

open Sys2Proof

/-! ### One predicate destination (R148) -/

/-- An instruction with one predicate destination gives the lanes of the effective mask the bits of its condition. -/
theorem predicateGives_of_predOp {i : Instr} {q : Desc} {p : Nat} {s : State} {x : Group} {f : Group → Nat → Bool} {g : Nat → Prop}
    (he : exec i s = predOp q p f s) (hmin : q.min = 0) (hf : effType s x ∈ q.types → ∀ l, f x l = true ↔ g l) :
    predicateGives i q p s x g := by
  intro h
  refine ⟨fun hm => he.trans ((issue_of_ready h _).trans (if_pos hm)), fun hm => ⟨maskOf (f x) &&& effMask s x, ?_, fun l hl => ?_⟩⟩
  · rw [hmin]
    exact he.trans ((issue_of_ready h _).trans (if_neg hm))
  · rw [BitVec.getLsbD_and, getLsbD_maskOf _ hl, Bool.and_eq_true, hf h.type_mem l, and_comm]

/-- The order of two words, signed under I32 and unsigned under N32 (R148). -/
theorem wInt_lt_iff {t : ETypeCode} (ht : t ∈ setW) (u v : Word) :
    wInt t u < wInt t v ↔ if t = 0 then u.toInt < v.toInt else u.toNat < v.toNat := by
  simp only [setW, List.mem_cons, List.not_mem_nil, or_false] at ht
  obtain rfl | rfl := ht
  · show signedOf 32 u.toNat < signedOf 32 v.toNat ↔ _
    rw [signedOf_toNat, signedOf_toNat, if_pos rfl]
  · show ((u.toNat % 2 ^ 32 : Nat) : Int) < (v.toNat % 2 ^ 32 : Nat) ↔ _
    rw [Nat.mod_eq_of_lt u.isLt, Nat.mod_eq_of_lt v.isLt, Int.ofNat_lt, if_neg (by decide)]

theorem wInt_le_iff {t : ETypeCode} (ht : t ∈ setW) (u v : Word) :
    wInt t u ≤ wInt t v ↔ ¬ if t = 0 then v.toInt < u.toInt else v.toNat < u.toNat := by
  rw [← wInt_lt_iff ht, not_lt]

theorem predLogic_eq (f : BitVec 3) (u v : Bool) : predLogic f.toNat u v = getAt false [u && v, u || v, u ^^ v, u && !v, u || !v,
    !(u && v), !(u || v), !(u ^^ v)] f.toNat := by
  revert f u v
  decide

/-! ### Carries (R147) -/

/-- The sum of two words and a carry, and the difference of two words and a borrow, in 32 bits. -/
theorem carry_add (u v c : Nat) : (((u + v + c) % 2 ^ 32 : Nat) : Int) = ((u : Int) + v + c) % 4294967296
    ∧ (decide (2 ^ 32 ≤ u + v + c) = true ↔ (u : Int) + v + c < 0 ∨ 4294967296 ≤ (u : Int) + v + c) := by
  rw [decide_eq_true_iff]
  omega

theorem borrow_sub {u v c : Nat} (hv : v < 2 ^ 32) (hc : c ≤ 1) (hu : u < 2 ^ 32) :
    (((u + 2 ^ 33 - v - c) % 2 ^ 32 : Nat) : Int) = ((u : Int) - v - c) % 4294967296
    ∧ (decide (u < v + c) = true ↔ (u : Int) - v - c < 0 ∨ 4294967296 ≤ (u : Int) - v - c) := by
  rw [decide_eq_true_iff]
  omega

/-- What VADDC and VSUBB compute in a lane from its two words and its bit of p23. -/
def carryLane (f : Nat → Nat → Nat → Nat × Bool) (x : Group) (a b l : Nat) : Nat × Bool :=
  f (x.regs.readV a l).toNat (x.regs.readV b l).toNat ((x.regs.readP 23).getLsbD l).toNat

/-- The description of VADDC and VSUBB. -/
def carryDesc (w : Word) (op st d a b : Nat) : Desc :=
  { vDesc w op st 0 setA d [a, b] with masked := true, reads := [a, b, codeP 23], writes := [d, codeP 23] }

theorem carryOp_of_ready {w : Word} {op st d a b : Nat} {f : Nat → Nat → Nat → Nat × Bool} {s : State} {x : Group}
    (h : Ready (carryDesc w op st d a b) s x) (hm : effMask s x ≠ 0) :
    carryOp w op st d a b f s = .next (finish s (carryDesc w op st d a b)
      ((x.result 0 d (vecVal (effMask s x) (zeroLanes s x (effMask s x)) fun l => BitVec.ofNat 32 (carryLane f x a b l).1)).result 0
        (codeP 23) (.pred (effMask s x ||| zeroLanes s x (effMask s x)) (maskOf (fun l => (carryLane f x a b l).2) &&& effMask s x)))) := by
  refine (issue_of_ready h _).trans ((if_neg hm).trans ?_)
  simp only [← Bool.cond_eq_ite]
  rfl

/-! ### The words of a mask (R32, R149) -/

theorem getLsbD_maskWord (m : Mask) (j : Nat) : (maskWord m (j / 32)).getLsbD (j % 32) = m.getLsbD j := by
  rw [maskWord, BitVec.getLsbD_extractLsb', decide_eq_true (Nat.mod_lt _ (by decide)), Bool.true_and, Nat.div_add_mod]

end Sys2Proof.Machine
end

section
/-! CERTIFICATES. Vector compares, predicates and carries. -/

namespace Sys2Proof.Machine

open Sys2Proof

/-- R148. -/
theorem vectorPredicates : Claims.VectorPredicates := by
  intro st p a b s x t A B lt q
  dsimp only
  refine ⟨?eq, ?ne, ?lt, ?le, ?gt, ?ge, ?none, ?any, ?pfrom, fun f u v => ⟨?plog, fun hf => ?pset⟩⟩
  case eq | ne | none | any => exact predicateGives_of_predOp rfl rfl fun _ _ => decide_eq_true_iff
  case lt | gt => exact predicateGives_of_predOp rfl rfl fun ht _ => decide_eq_true_iff.trans (wInt_lt_iff ht _ _)
  case le | ge => exact predicateGives_of_predOp rfl rfl fun ht _ => decide_eq_true_iff.trans (wInt_le_iff ht _ _)
  case pfrom => exact predicateGives_of_predOp rfl rfl fun _ _ => Iff.rfl
  case plog => exact predicateGives_of_predOp rfl rfl fun _ l => by rw [predLogic_eq]
  case pset =>
    refine predicateGives_of_predOp rfl rfl fun _ l => ?_
    generalize f.toNat = n at hf ⊢
    interval_cases n <;> rfl

/-- R147, R149, R148. -/
theorem carriesAndBallot : Claims.CarriesAndBallot := by
  intro st d a b s x m z A B c q carry
  have carries {i : Instr} {op : Nat} {f : Nat → Nat → Nat → Nat × Bool} {r : Nat → Int}
      (he : exec i s = carryOp (encode i) op st.toNat d.toNat a.toNat b.toNat f s)
      (hf : ∀ l, (((carryLane f x a.toNat b.toNat l).1 % 2 ^ 32 : Nat) : Int) = r l % 4294967296
        ∧ ((carryLane f x a.toNat b.toNat l).2 = true ↔ r l < 0 ∨ 4294967296 ≤ r l)) : carry i op r := by
    intro h hm
    refine ⟨_, _, he.trans (carryOp_of_ready h hm), fun l hl => ?_⟩
    rw [laneGet_lanes _ hl, BitVec.getLsbD_and, getLsbD_maskOf _ hl]
    by_cases hml : m.getLsbD l = true
    · rw [if_pos hml, if_pos hml, hml, Bool.and_true, BitVec.toNat_ofNat]
      exact hf l
    · rw [if_neg hml, if_neg hml, Bool.eq_false_iff.mpr hml, Bool.and_false]
      exact ⟨rfl, rfl⟩
  refine ⟨carries (f := fun u v k => (u + v + k, 2 ^ 32 ≤ u + v + k)) rfl fun _ => carry_add ..,
    carries (f := fun u v k => (u + 2 ^ 33 - v - k, u < v + k)) rfl fun _ => borrow_sub (BitVec.isLt _) (Bool.toNat_le _) (BitVec.isLt _),
    fun sd p _ h => ?ballot, fun p h hm => ?pfrom⟩
  case ballot =>
    exact ⟨maskWord (m &&& x.regs.readP p.toNat), issue_of_ready h _, fun j _ => by rw [getLsbD_maskWord, BitVec.getLsbD_and]⟩
  case pfrom =>
    refine ⟨_, (issue_of_ready h _).trans (if_neg hm), fun j l _ hl => ?_⟩
    rw [BitVec.getLsbD_and, getLsbD_maskOf _ hl]
    exact Bool.and_comm ..

/-- Settles O5: each condition is the model's function of the lane's words and bits, and the carry of a lane is its bit of p23. -/
theorem vectorPredicatesAndCarries : Obligations.VectorPredicatesAndCarries := ⟨vectorPredicates, carriesAndBallot⟩

end Sys2Proof.Machine
end

section
/-! SUPPORT. Which lane a trap of a flag names, and the lane-by-lane instructions that raise flags (R119 to R121, R143). -/

namespace Sys2Proof.Machine

open Sys2Proof

/-! ### The lane of a trap (R120) -/

theorem and_flag_ne_zero_iff {c : FlagBits} {j : Nat} (hc : c = BitVec.twoPow 7 j) (hj : j < 7) (f : FlagBits) :
    f &&& c ≠ 0 ↔ f.getLsbD j = true := by
  rw [← decide_and_twoPow_ne_zero hc hj, decide_eq_true_iff]

/-- The cause of an enabled condition stands for one flag, which is set. -/
theorem enabledCause_flag {mw : Word} {f : FlagBits} {c : Nat} (h : enabledCause mw f = some c) :
    ∃ j, j < 7 ∧ f.getLsbD j = true ∧ ∀ g : FlagBits, g &&& causeFlag c ≠ 0 ↔ g.getLsbD j = true := by
  rw [enabledCause_eq] at h
  split_ifs at h with hiv hdz hof hmqc hmqr <;> obtain rfl := Option.some.inj h
  · exact ⟨0, by decide, (Bool.and_eq_true_iff.mp hiv).2, and_flag_ne_zero_iff rfl (by decide)⟩
  · exact ⟨1, by decide, (Bool.and_eq_true_iff.mp hdz).2, and_flag_ne_zero_iff rfl (by decide)⟩
  · exact ⟨2, by decide, (Bool.and_eq_true_iff.mp hof).2, and_flag_ne_zero_iff rfl (by decide)⟩
  · exact ⟨5, by decide, (Bool.and_eq_true_iff.mp hmqc).2, and_flag_ne_zero_iff rfl (by decide)⟩
  · exact ⟨6, by decide, (Bool.and_eq_true_iff.mp hmqr).2, and_flag_ne_zero_iff rfl (by decide)⟩

theorem causeLane_eq_find (c : Nat) (g : Nat → FlagBits) (ls : List Nat) :
    causeLane c (ls.map fun l => (l, g l)) = (ls.find? fun l => g l &&& causeFlag c ≠ 0).getD 0 := by
  induction ls with
  | nil => rfl
  | cons l ls ih =>
    rw [List.map_cons, causeLane, ih, List.find?_cons]
    by_cases h : g l &&& causeFlag c ≠ 0
    · rw [if_pos h, decide_eq_true h, Option.getD_some]
    · rw [if_neg h, decide_eq_false h]

/-- The lane that a trap names is the first whose own flags raise the cause. -/
theorem causeLane_lanes {c k : Nat} {g : Nat → FlagBits} (hk : k < 128) (hg : g k &&& causeFlag c ≠ 0) :
    let L := causeLane c (laneFlags (lanes.map g))
    L < 128 ∧ g L &&& causeFlag c ≠ 0 ∧ ∀ l, l < L → g l &&& causeFlag c = 0 := by
  have hfind : (lanes.find? fun l => decide (g l &&& causeFlag c ≠ 0)).isSome := by
    rw [List.find?_isSome]
    exact ⟨k, List.mem_range.mpr hk, decide_eq_true hg⟩
  obtain ⟨L, hL⟩ := Option.isSome_iff_exists.mp hfind
  obtain ⟨hsome, hmem, hbelow⟩ := List.find?_range_eq_some.mp hL
  rw [laneFlags_map_lanes, causeLane_eq_find, hL]
  exact ⟨List.mem_range.mp hmem, of_decide_eq_true hsome, fun l hl => by simpa using hbelow l hl⟩

/-- Flags of which one is enabled as a trap take it, and nothing else. -/
theorem withFlags_of_some {s : State} {g : Group} {fs : List (Nat × FlagBits)} {c : Nat}
    (h : enabledCause g.regs.mw (unionFlags fs) = some c) (k : Group → Out) :
    withFlags s g fs k = .next (takeTrap s c (BitVec.ofNat 32 (causeLane c fs))) := by
  simp only [withFlags, h]

/-! ### Lane-by-lane instructions with flags (R119, R143) -/

theorem map_laneResults {α β : Type} (g : α → β) (z : α) (m : Mask) (f : Nat → α) :
    (laneResults z m f).map g = laneResults (g z) m fun l => g (f l) := by
  rw [laneResults, List.map_map]
  exact List.map_congr_left fun l _ => apply_ite g ..

/-- The lane that a trap of the active lanes' flags names. -/
theorem causeLane_laneResults {c k : Nat} {m : Mask} {f : Nat → FlagBits} (hk : k < 128) (hmk : m.getLsbD k = true)
    (hf : f k &&& causeFlag c ≠ 0) :
    let L := causeLane c (laneFlags (laneResults 0 m f))
    L < 128 ∧ m.getLsbD L = true ∧ f L &&& causeFlag c ≠ 0 ∧ ∀ l, l < L → m.getLsbD l = true → f l &&& causeFlag c = 0 := by
  obtain ⟨hL, hown, hbelow⟩ := causeLane_lanes (c := c) (g := fun l => if m.getLsbD l then f l else 0) hk (by rwa [if_pos hmk])
  rw [laneResults]
  generalize causeLane c _ = L at hL hown hbelow ⊢
  by_cases hmL : m.getLsbD L = true
  · refine ⟨hL, hmL, by rwa [if_pos hmL] at hown, fun l hl hml => ?_⟩
    have hnone := hbelow l hl
    rwa [if_pos hml] at hnone
  · rw [if_neg hmL] at hown
    exact absurd BitVec.zero_and hown

section
variable {α : Type} {z : α} {ws : α → List Word} {p : α → FlagBits} {F : Nat → α} {i : Instr} {q : Desc} {s : State} {x : Group}
  {f : Nat → List Word × FlagBits} {K : FlagBits → (Nat → List Word) → State} {k : Group → State}

/-- An instruction that joins the flags of its active lanes and then goes on with their words, or traps. `p` and `ws` are the flags and
the words of a lane's result, and z the result of a lane that is not active. -/
theorem flagsGive_of_withFlags (hz : p z = 0) (hzw : ∀ j, getAt 0 (ws z) j = 0)
    (hempty : Ready q s x → effMask s x = 0 → exec i s = .next (finish s q x))
    (hlanes : Ready q s x → effMask s x ≠ 0 → exec i s
      = withFlags s x (laneFlags ((laneResults z (effMask s x) F).map p)) fun y => .next (k y))
    (hf : effType s x ∈ q.types → ∀ l, f l = (ws (F l), p (F l)))
    (hk : ∀ fl, k (x.raise fl) = K fl fun j => (laneResults z (effMask s x) F).map fun r => getAt 0 (ws r) j) :
    flagsGive i q s x f K := by
  intro h
  obtain rfl : f = fun l => (ws (F l), p (F l)) := funext (hf h.type_mem)
  refine ⟨hempty h, fun hm => ⟨unionFlags (laneFlags ((laneResults z (effMask s x) F).map p)),
    fun j _ => getLsbD_unionFlags_laneResults hz _ F j, fun hn => ⟨fun j => (laneResults z (effMask s x) F).map fun r => getAt 0 (ws r) j,
      (hlanes h hm).trans ((withFlags_of_none hn _).trans (congrArg _ (hk _))), fun j l hl => ?words⟩, fun c hc => ?traps⟩⟩
  case words =>
    dsimp only
    rw [map_laneResults, hzw]
    exact laneGet_lanes _ hl
  case traps =>
    obtain ⟨j, -, hset, hbit⟩ := enabledCause_flag hc
    obtain ⟨l, hl, hml, hlj⟩ := (getLsbD_unionFlags_laneResults hz _ F j).mp hset
    have htrap := (hlanes h hm).trans (withFlags_of_some hc _)
    rw [map_laneResults, hz] at htrap
    obtain ⟨hL, hactive, hown, hbelow⟩ := causeLane_laneResults (f := fun l => p (F l)) hl hml ((hbit _).mpr hlj)
    exact ⟨_, hL, htrap, hactive, hown, hbelow⟩

end

section
variable {i : Instr} {q : Desc} {ds : List Nat} {d : Nat} {s : State} {x : Group} {g : Nat → List Word × FlagBits}

/-- The lanes' words and flags of an instruction with several words for each lane. -/
theorem flagsGive_of_flagMulti {f : State → Group → Nat → List Word × FlagBits} (he : exec i s = flagMulti q ds f s)
    (hf : effType s x ∈ q.types → ∀ l, g l = f s x l) :
    flagsGive i { q with masked := true, writes := ds } s x g fun F vs => finish s q ((x.raise F).results q.min
      (ds.zipIdx.map fun e => (e.1, .vec (effMask s x ||| zeroLanes s x (effMask s x)) (vs e.2)))) :=
  flagsGive_of_withFlags (z := ([], 0)) (ws := Prod.fst) (p := Prod.snd) rfl (fun _ => rfl)
    (fun h hm => he.trans ((issue_of_ready h _).trans (if_pos hm))) (fun h hm => he.trans ((issue_of_ready h _).trans (if_neg hm)))
    hf fun _ => rfl

/-- The results of variable latency join the outstanding ones, and the flags are set at issue (R85). -/
theorem flagsGive_of_flagOut {f : State → Group → Nat → List Word × FlagBits} (he : exec i s = flagOut q ds f s)
    (hf : effType s x ∈ q.types → ∀ l, g l = f s x l) :
    flagsGive i { q with masked := true, writes := ds } s x g fun F vs => finish { s with nextId := s.nextId + 1 } q
      ((x.raise F).outValue s.nextId
        (ds.zipIdx.map fun e => (e.1, .vec (effMask s x ||| zeroLanes s x (effMask s x)) (vs e.2))) x.pc) :=
  flagsGive_of_withFlags (z := ([], 0)) (ws := Prod.fst) (p := Prod.snd) rfl (fun _ => rfl)
    (fun h hm => he.trans ((issue_of_ready h _).trans (if_pos hm))) (fun h hm => he.trans ((issue_of_ready h _).trans (if_neg hm)))
    hf fun _ => rfl

/-- The lanes' words and flags of an instruction with one word for each lane. -/
theorem flagsGive_of_flagOp {f : State → Group → Nat → Word × FlagBits} (he : exec i s = flagOp q d f s)
    (hf : effType s x ∈ q.types → ∀ l, g l = ([(f s x l).1], (f s x l).2)) :
    flagsGive i { q with masked := true, writes := [d] } s x g fun F vs => finish s q ((x.raise F).result q.min d
      (.vec (effMask s x ||| zeroLanes s x (effMask s x)) (vs 0))) :=
  flagsGive_of_flagMulti he hf

theorem flagsGive_of_minMaxOp {op st a b : Nat} {less : Bool} (he : exec i s = minMaxOp (encode i) op st d a b less s) :
    flagsGive i { vDesc (encode i) op st 0 setF d [a, b] with masked := true, writes := [d] } s x
      (fun l =>
        let r := floatLane (effType s x) [x.regs.readV a l, x.regs.readV b l] fun f v =>
          fMinMax f (mwFtz x.regs.mw) less (getAt 0 v 0) (getAt 0 v 1)
        ([r.1], r.2))
      fun F vs => finish s (vDesc (encode i) op st 0 setF d [a, b]) ((x.raise F).result 0 d
        (.vec (effMask s x ||| zeroLanes s x (effMask s x)) (vs 0))) :=
  flagsGive_of_flagOp (he.trans (minMaxOp.eq_def ..)) fun _ _ => rfl

theorem flagsGive_of_dotOp {op st a b : Nat} {types : List ETypeCode} (he : exec i s = dotOp (encode i) op st types d a b s) :
    flagsGive i { vDesc (encode i) op st 2 types d [a, b, accReg s d] with masked := true, writes := [d] } s x
      (fun l =>
        let r := dotLane (effType s x) (mwSat x.regs.mw) (mwFtz x.regs.mw) (effRnd s x) (x.regs.readV a l) (x.regs.readV b l)
          (x.regs.readV (accReg s d) l)
        ([r.1], r.2))
      fun F vs => finish s (vDesc (encode i) op st 2 types d [a, b, accReg s d]) ((x.raise F).result 2 d
        (.vec (effMask s x ||| zeroLanes s x (effMask s x)) (vs 0))) :=
  flagsGive_of_flagOp (he.trans (dotOp.eq_def ..)) fun _ _ => rfl

/-- Outside a chain an operation is element-wise (R117). -/
theorem flagsGive_of_chainOp {rs : List Nat} {op : FloatOp} (he : exec i s = chainOp q d rs op s)
    (hfree : x.regs.cc = 0 ∨ effType s x ≠ 2) (hf : ∀ l, g l = ([(arithLane op rs s x l).1], (arithLane op rs s x l).2)) :
    flagsGive i { q with masked := true, writes := [d] } s x g fun F vs => finish s q ((x.raise F).result 1 d
      (.vec (effMask s x ||| zeroLanes s x (effMask s x)) (vs 0))) := by
  have hmember : ¬ (decide (x.regs.cc ≠ 0) && decide (effType s x = 2)) = true := by
    obtain hcc | ht := hfree
    · simp [hcc]
    · simp [ht]
  exact flagsGive_of_withFlags (z := (0, 0)) (ws := fun r => [r.1]) (p := Prod.snd) rfl (fun j => by cases j <;> rfl)
    (fun h hm => he.trans ((issue_of_ready h _).trans ((if_neg hmember).trans (if_pos hm))))
    (fun h hm => he.trans ((issue_of_ready h _).trans ((if_neg hmember).trans (if_neg hm)))) (fun _ => hf) fun _ => rfl

end

end Sys2Proof.Machine
end

section
/-! CERTIFICATES. Float instructions. -/

namespace Sys2Proof.Machine

open Sys2Proof

/-- Settles O7: each instruction is its function of the values of the lane's elements, and joins the flags of the active lanes. -/
theorem floatArithmetic : Obligations.FloatArithmetic := by
  intro st d a b s x t m ftz rnd c V
  dsimp only
  refine ⟨fun hfree => ?fadd, fun hfree => ?fsub, fun hfree => ?fmul, fun hfree => ?ffma, ?fmin, ?fmax, ?frnd, fun fn => ?fspec,
    ⟨?dot4, ?dot8, ?dot2⟩, fun sa => ?rqnt⟩
  case fadd | fsub | fmul | ffma => exact flagsGive_of_chainOp rfl hfree fun _ => rfl
  case fmin => exact flagsGive_of_minMaxOp rfl
  case fmax => exact flagsGive_of_minMaxOp rfl
  case frnd => exact flagsGive_of_flagOp (execFrnd.eq_def ..) fun _ _ => rfl
  case fspec => exact flagsGive_of_flagOp (execFspec.eq_def ..) fun _ _ => rfl
  case dot4 | dot8 | dot2 => exact flagsGive_of_dotOp rfl
  case rqnt =>
    refine flagsGive_of_flagOp (i := .rqnt st d sa) (execRqnt.eq_def ..) fun _ l => ?_
    simp only [sWord_eq]
    rfl

end Sys2Proof.Machine
end

section
/-! SUPPORT. Conversions and the operations of variable latency (R85, R155, R164). -/

namespace Sys2Proof.Machine

open Sys2Proof

theorem regsFrom_two (r : Nat) : regsFrom r 2 = [r, r + 1] := rfl

/-- The description of CVT: a 64-bit type reads or writes a register pair (R164). -/
def cvtDesc (w : Word) (st src dst d a : Nat) : Desc :=
  let ds := if 14 ≤ dst then [2 * d, 2 * d + 1] else [d]
  let as := if 14 ≤ src then [2 * a, 2 * a + 1] else [a]
  { word := w, op := 0x92, st := st, vtop := topOf (ds ++ as), reads := as, min := 1, masked := true, writes := ds }

/-- One lane of CVT (R164). -/
def cvtLane (dst r a : Nat) (s : State) (x : Group) (l : Nat) : List Word × FlagBits :=
  let rs := (List.range (min (etCount (effType s x)) (etCount dst))).map fun i =>
    convert (effType s x) dst r (mwSat x.regs.mw) (mwFtz x.regs.mw) (convSource x (effType s x) a l i)
  (convWords dst (rs.map Prod.fst), rs.foldl (fun f e => f ||| e.2) 0)

/-- CVT reads its registers by the element type of the group that issues it. -/
theorem exec_cvt (st : BitVec 3) (d a : BitVec 7) (t : BitVec 4) (r : BitVec 3) {s : State} {x : Group} {q : Desc} (h : Ready q s x) :
    exec (.cvt st d a t r) s = flagMulti (cvtDesc (encode (.cvt st d a t r)) st.toNat (effType s x) t.toNat d.toNat a.toNat)
      (if 14 ≤ t.toNat then [2 * d.toNat, 2 * d.toNat + 1] else [d.toNat]) (cvtLane t.toNat r.toNat a.toNat) s := by
  obtain ⟨g, hg, rfl⟩ := h.group
  show execCvt st d a t r s = _
  simp only [execCvt, hg, regsFrom_two]
  rfl

/-- The only element of a lane under F32 is its word. -/
theorem floatLane_f32 (ws : List Word) (f : Fmt → List Nat → FRes) :
    floatLane 2 ws f = (BitVec.ofNat 32 (f .f32 (ws.map BitVec.toNat)).1, (f .f32 (ws.map BitVec.toNat)).2) := by
  have helem (w : Word) : elemAt 2 w 0 = w.toNat := by
    rw [elemAt_eq]
    exact (Nat.mod_eq_of_lt ((Nat.div_le_self _ _).trans_lt w.isLt)).trans (Nat.div_one _)
  have hpack (n : Nat) : packElems 32 [n] = BitVec.ofNat 32 n := by
    exact BitVec.eq_of_toNat_eq (by simp [packElems])
  show (packElems 32 [(f .f32 (ws.map fun w => elemAt 2 w 0)).1], 0 ||| (f .f32 (ws.map fun w => elemAt 2 w 0)).2) = _
  simp only [helem, hpack]
  exact congrArg (Prod.mk _) BitVec.zero_or

/-- One lane of an element-wise instruction under F32. -/
theorem arithLane_f32 (op : FloatOp) (rs : List Nat) {s : State} {x : Group} (ht : effType s x = 2) (l : Nat) :
    arithLane op rs s x l =
      let v := op .f32 (effRnd s x) (mwFtz x.regs.mw) (rs.map fun r => readFloat .f32 (mwFtz x.regs.mw) (x.regs.readV r l).toNat)
      (BitVec.ofNat 32 v.1, v.2) := by
  rw [arithLane, ht, floatLane_f32, List.map_map, List.map_map]
  rfl

end Sys2Proof.Machine
end

section
/-! CERTIFICATES. Conversion and division. -/

namespace Sys2Proof.Machine

open Sys2Proof

/-- R164. -/
theorem conversion : Claims.Conversion := by
  intro st d a t r s x src m ds as q h
  have gives := flagsGive_of_flagMulti (g := cvtLane t.toNat r.toNat a.toNat s x) (exec_cvt st d a t r h) fun _ _ => rfl
  exact gives h

/-- R155, R85. -/
theorem floatDivide : Claims.FloatDivide := by
  intro st d a b s x m ftz val out
  have gives {i : Instr} {op : Nat} {rs : List Nat} {f : Nat → FRes} (fop : FloatOp)
      (he : exec i s = floatOut (vDesc (encode i) op st.toNat 0 setG d.toNat rs) d.toNat (arithLane fop rs) s)
      (hf : ∀ l, fop .f32 (effRnd s x) ftz (rs.map fun r => readFloat .f32 ftz (x.regs.readV r l).toNat) = f l) : out i op rs f := by
    refine flagsGive_of_flagOut he fun ht l => ?_
    rw [arithLane_f32 fop rs (List.mem_singleton.mp ht), hf]
  exact ⟨gives opDiv rfl fun _ => rfl, gives opSqrt rfl fun _ => rfl⟩

/-- Settles O8: CVT converts each element of its lane, and an operation under F32 is that of the lane's words. -/
theorem conversionAndDivision : Obligations.ConversionAndDivision := ⟨conversion, floatDivide⟩

end Sys2Proof.Machine
end

section
/-! SUPPORT. The tables of a core, and the loading of a table's shadow copy (R161 to R163). -/

namespace Sys2Proof.Machine

open Sys2Proof

@[simp] theorem Core.table_setTable (c : Core) (n : Nat) (t : Table) : (c.setTable n t).table n = t := getAt_setAt_same _ _ _ _

/-- The exponent field of a binary32 word (R105). -/
theorem bitsOf_exponent (w : Word) : bitsOf w.toNat 30 23 = (w.extractLsb' 23 8).toNat := by
  rw [BitVec.extractLsb'_toNat, Nat.shiftRight_eq_div_pow]
  rfl

/-- What R105 makes of the fields of a binary32 word. -/
theorem decodeFloat_f32 (w : Word) :
    decodeFloat .f32 w.toNat =
      let ex := (w.extractLsb' 23 8).toNat
      let fr := w.toNat % 2 ^ 23
      let neg := w.getLsbD 31
      if ex = 255 then if fr = 0 then .inf neg else .nan (!fr.testBit 22)
      else if ex = 0 then .fin neg fr (-149)
      else .fin neg (fr + 2 ^ 23) ((ex : Int) - 127 - 23) := by
  have hf8a : (Fmt.f32 = Fmt.f8a) = False := by simp
  rw [← bitsOf_exponent]
  simp only [decodeFloat, Fmt.width, Fmt.expBits, Fmt.fracBits, Fmt.hasInf, Fmt.emin, Fmt.bias, hf8a, Bool.and_true,
    decide_false, Bool.false_and, Bool.false_eq_true, if_false]
  exact if_congr decide_eq_true_iff rfl rfl

/-- A word whose exponent field is below its top is finite. -/
theorem decodeFloat_f32_finite {w : Word} (h : (w.extractLsb' 23 8).toNat ≠ 255) :
    ∃ n m e, decodeFloat .f32 w.toNat = .fin n m e := by
  rw [decodeFloat_f32]
  simp only [if_neg h]
  split <;> exact ⟨_, _, _, rfl⟩

/-- The registers of TBLLD. -/
def tblldDesc (st : BitVec 3) (a b : BitVec 6) (t : BitVec 1) : Desc :=
  { word := encode (.tblld st a b t), op := 0x90, st := st.toNat, masked := true
    reads := [codeS a.toNat, codeS b.toNat, codeS (b.toNat + 1)] }

section
variable {st : BitVec 3} {a b : BitVec 6} {t : BitVec 1} {s : State} {x : Group} {k : Crew}

theorem exec_tblld_misaligned (h : Ready (tblldDesc st a b t) s x) (hm : effMask s x ≠ 0)
    (ho : (x.regs.readS a.toNat).toNat % 8 ≠ 0) :
    exec (.tblld st a b t) s = .next (takeTrap s 0x0A (x.regs.readS a.toNat)) :=
  (issue_of_ready h _).trans ((if_neg hm).trans (if_pos ho))

theorem exec_tblld_outside (h : Ready (tblldDesc st a b t) s x) (hm : effMask s x ≠ 0) (hk : s.crew? s.cur.core s.cur.slot = some k)
    (ho : (x.regs.readS a.toNat).toNat % 8 = 0) (hout : scratchBytes k.granules < (x.regs.readS a.toNat).toNat + 2048) :
    exec (.tblld st a b t) s = .next (takeTrap s 0x0B (x.regs.readS a.toNat)) := by
  refine (issue_of_ready h _).trans ((if_neg hm).trans ((if_neg (not_not.mpr ho)).trans ?_))
  simp only [hk, if_pos hout]

/-- R162: an aligned offset inside the scratchpad, without poison and with finite bounds, fills the shadow copy. -/
theorem exec_tblld_loads (h : Ready (tblldDesc st a b t) s x) (hm : effMask s x ≠ 0) (hk : s.crew? s.cur.core s.cur.slot = some k)
    (ho : (x.regs.readS a.toNat).toNat % 8 = 0) (hin : (x.regs.readS a.toNat).toNat + 2048 ≤ scratchBytes k.granules)
    (hacq : acquirePending x = false) (hswaps : ((s.core s.cur.core).table t.toNat).swaps = 0)
    (hpoison : scratchPoison s s.cur.core k.granules (x.regs.readS a.toNat).toNat 2048 = none)
    (hlo : ((x.regs.readS b.toNat).extractLsb' 23 8).toNat ≠ 255) (he : -126 ≤ (x.regs.readS (b.toNat + 1)).toInt)
    (he1 : (x.regs.readS (b.toNat + 1)).toInt ≤ 119) :
    exec (.tblld st a b t) s = .next (finish (s.setCore s.cur.core ((s.core s.cur.core).setTable t.toNat
      { (s.core s.cur.core).table t.toNat with
        shadow := tableRead (s.core s.cur.core) k.granules (x.regs.readS a.toNat).toNat (x.regs.readS b.toNat) (x.regs.readS (b.toNat + 1)) }))
      (tblldDesc st a b t) x) := by
  obtain ⟨n, m, e, hfin⟩ := decodeFloat_f32_finite hlo
  refine (issue_of_ready h _).trans ((if_neg hm).trans ((if_neg (not_not.mpr ho)).trans ?_))
  simp only [hk, if_neg (Nat.not_lt.mpr hin), hacq, Bool.false_eq_true, if_false, hpoison, hfin, Bool.not_true, Bool.or_false]
  refine (if_neg ?_).trans (if_neg (not_not.mpr hswaps))
  simp [he, he1]

end

end Sys2Proof.Machine
end

section
/-! CERTIFICATES. Programmable tables. -/

namespace Sys2Proof.Machine

open Sys2Proof

/-- Settles O12: an evaluation is that of the active copy, and a load passes TBLLD's checks in their order. -/
theorem tables : Obligations.Tables := by
  intro st d a t s x m c tb
  refine ⟨fun hswaps => ?tblev, fun h hm => ?tblsw, fun core table hswaps => ?swap, fun sa sb k h hm hk => ⟨?misaligned, ?outside, ?loads⟩⟩
  case tblev =>
    exact flagsGive_of_withFlags (z := (0, 0)) (ws := fun r => [r.1]) (p := Prod.snd) rfl (fun j => by cases j <;> rfl)
      (fun h hm => (issue_of_ready h _).trans (if_pos hm))
      (fun h hm => (issue_of_ready h _).trans ((if_neg hm).trans (if_neg (not_not.mpr hswaps)))) (fun _ _ => rfl) fun _ => rfl
  case tblsw => exact (issue_of_ready h _).trans (if_neg hm)
  case swap =>
    refine ⟨_, if_neg hswaps, ?_⟩
    simp
  case misaligned => exact exec_tblld_misaligned h hm
  case outside => exact exec_tblld_outside h hm hk
  case loads =>
    intro ho hin hacq hswaps hpoison hlo he he1
    refine ⟨_, exec_tblld_loads h hm hk ho hin hacq hswaps hpoison hlo he he1, rfl, rfl, fun j hj => ?_⟩
    exact (getAt_map_range _ _ _ _).trans (if_pos hj)

end Sys2Proof.Machine
end

section
/-! SUPPORT. Sign bits, classes and halves of elements (R108, R156, R158, R167, R168). -/

namespace Sys2Proof.Machine

open Sys2Proof

/-! ### Bits of elements (R108, R156) -/

theorem lt_of_mem_setH : ∀ t ∈ setH, t < 14 := by decide
theorem lt_of_mem_setP : ∀ t ∈ setP, t < 14 := by decide
theorem lt_of_mem_setU : ∀ t ∈ setU, t < 14 := by decide

theorem testBit_elemAt (t : ETypeCode) (v : Word) (k j : Nat) :
    (elemAt t v k).testBit j = (decide (j < etWidth t) && v.getLsbD (etWidth t * k + j)) := by
  rw [elemAt_eq, Nat.testBit_mod_two_pow, Nat.testBit_div_two_pow, Nat.add_comm]
  rfl

section
variable {t : ETypeCode} {k : Nat}

/-- The bits of an element lie inside its register. -/
theorem elem_bit_lt (ht : t < 14) (hk : k < etCount t) {j : Nat} (hj : j < etWidth t) : etWidth t * k + j < 32 := by
  have hcount := etCount_mul_etWidth ht
  have hstep : etWidth t * (k + 1) ≤ etWidth t * etCount t := Nat.mul_le_mul_left _ hk
  rw [Nat.mul_comm] at hcount
  rw [Nat.mul_succ] at hstep
  omega

theorem getLsbD_signMask (ht : t < 14) (hk : k < etCount t) {j : Nat} (hj : j < etWidth t) :
    (signMask t).getLsbD (etWidth t * k + j) = decide (etWidth t - 1 = j) := by
  have hbit := testBit_elemAt t (signMask t) k j
  have hlt : 2 ^ (etWidth t - 1) < 2 ^ etWidth t := Nat.pow_lt_pow_right (by decide) (Nat.sub_lt (etWidth_pos t) (by decide))
  rwa [signMask, elemAt_elemMap t _ hk ht, Nat.mod_eq_of_lt hlt, Nat.testBit_two_pow, decide_eq_true hj, Bool.true_and, eq_comm] at hbit

/-- The bits of an element below its sign, and its sign bit, without the sign mask. -/
theorem elemAt_and_not_signMask (ht : t < 14) (hk : k < etCount t) (v : Word) :
    elemAt t (v &&& ~~~ (signMask t)) k = elemAt t v k % 2 ^ (etWidth t - 1) := by
  refine Nat.eq_of_testBit_eq fun j => ?_
  rw [testBit_elemAt, Nat.testBit_mod_two_pow, testBit_elemAt]
  by_cases hj : j < etWidth t
  · rw [BitVec.getLsbD_and, BitVec.getLsbD_not, getLsbD_signMask ht hk hj, decide_eq_true (elem_bit_lt ht hk hj)]
    by_cases hsign : etWidth t - 1 = j
    · simp [hsign]
    · simp [hsign, hj, show j < etWidth t - 1 by omega]
  · simp [hj]

/-- The sign mask inverts the sign bit alone. -/
theorem elemAt_xor_signMask (ht : t < 14) (hk : k < etCount t) (v : Word) :
    elemAt t (v ^^^ signMask t) k = (elemAt t v k + 2 ^ (etWidth t - 1)) % 2 ^ etWidth t := by
  refine Nat.eq_of_testBit_eq fun j => ?_
  rw [testBit_elemAt, Nat.testBit_mod_two_pow, Nat.add_comm (elemAt t v k)]
  by_cases hj : j < etWidth t
  · have hbit := testBit_elemAt t v k j
    rw [decide_eq_true hj, Bool.true_and] at hbit
    rw [BitVec.getLsbD_xor, getLsbD_signMask ht hk hj, ← hbit]
    by_cases hsign : etWidth t - 1 = j
    · rw [← hsign, Nat.testBit_two_pow_add_eq, decide_eq_true rfl, Bool.xor_true]
    · rw [Nat.testBit_two_pow_add_gt (by omega), decide_eq_false hsign, Bool.xor_false]
  · simp [hj]

end

/-! ### Classes (R158) -/

/-- The class of a binary32 word by its fields. -/
theorem fClass_eq (v : Word) :
    fClass v.toNat =
      let neg := v.getLsbD 31
      let ex := (v.extractLsb' 23 8).toNat
      let fr := (v.extractLsb' 0 23).toNat
      2 ^ (if ex = 255 then (if fr = 0 then (if neg then 0 else 7) else if v.getLsbD 22 then 9 else 8)
        else if ex = 0 then (if fr = 0 then (if neg then 3 else 4) else if neg then 2 else 5)
        else if neg then 1 else 6) := by
  have hfr : (v.extractLsb' 0 23).toNat = v.toNat % 2 ^ 23 := by rw [BitVec.extractLsb'_toNat, Nat.shiftRight_zero]
  have hquiet : (v.toNat % 2 ^ 23).testBit 22 = v.getLsbD 22 := by rw [Nat.testBit_mod_two_pow]; rfl
  simp only [fClass, decodeFloat_f32, bitsOf_exponent, hfr]
  generalize (v.extractLsb' 23 8).toNat = ex
  by_cases htop : ex = 255
  · simp only [if_pos htop, hquiet]
    by_cases hzero : v.toNat % 2 ^ 23 = 0
    · simp only [if_pos hzero]
      cases v.getLsbD 31 <;> rfl
    · simp only [if_neg hzero]
      cases v.getLsbD 22 <;> rfl
  · simp only [if_neg htop]
    by_cases hsub : ex = 0
    · simp only [if_pos hsub]
      by_cases hzero : v.toNat % 2 ^ 23 = 0
      · simp only [if_pos hzero]
        cases v.getLsbD 31 <;> rfl
      · simp only [if_neg hzero]
        cases v.getLsbD 31 <;> rfl
    · simp only [if_neg hsub, if_neg (Nat.ne_of_gt (Nat.add_pos_right (v.toNat % 2 ^ 23) (Nat.two_pow_pos 23)))]
      cases v.getLsbD 31 <;> rfl

/-! ### Halves of a register (R167, R168) -/

/-- Field k of a register of fields of w bits (R108). -/
theorem packElems_field {w k : Nat} (h : w * (k + 1) ≤ 32) (xs : List Nat) :
    (packElems w xs).toNat / 2 ^ (w * k) % 2 ^ w = getAt 0 xs k % 2 ^ w := by
  rw [Nat.mul_succ] at h
  have hsplit : 2 ^ 32 = 2 ^ (w * k) * 2 ^ (32 - w * k) := by rw [← pow_add, Nat.add_sub_cancel' (by omega)]
  rw [packElems, BitVec.toNat_ofNat, hsplit, Nat.mod_mul_right_div_self, Nat.mod_mod_of_dvd _ (pow_dvd_pow 2 (by omega)), foldr_pack]

theorem elemAt_packElems {t : ETypeCode} {k : Nat} (ht : t < 14) (hk : k < etCount t) (xs : List Nat) :
    elemAt t (packElems (etWidth t) xs) k = getAt 0 xs k % 2 ^ etWidth t := by
  have hcount := etCount_mul_etWidth ht
  rw [Nat.mul_comm] at hcount
  rw [elemAt_eq, packElems_field (hcount ▸ Nat.mul_le_mul_left _ hk)]

theorem getAt_append {α : Type} (z : α) (xs ys : List α) (k : Nat) :
    getAt z (xs ++ ys) k = if k < xs.length then getAt z xs k else getAt z ys (k - xs.length) := by
  simp only [getAt_eq_getD]
  split
  · exact List.getD_append _ _ _ _ ‹_›
  · exact List.getD_append_right _ _ _ _ (Nat.not_lt.mp ‹_›)

theorem halves_of_mem_setP : ∀ t ∈ setP, 16 / etWidth t = etCount t / 2 ∧ etCount t = 2 * (etCount t / 2) := by decide

/-- The elements of a register whose halves come from two words, where each fits the element. -/
theorem elemAt_halves {t : ETypeCode} {k : Nat} (ht : t ∈ setP) (hk : k < etCount t) {f : Word → Nat → Nat}
    (hf : ∀ w i, f w i < 2 ^ etWidth t) (u v : Word) :
    elemAt t (packElems (etWidth t) ((List.range (16 / etWidth t)).map (f u) ++ (List.range (16 / etWidth t)).map (f v))) k
      = f (if k < etCount t / 2 then u else v) (k % (etCount t / 2)) := by
  obtain ⟨hhalf, htwo⟩ := halves_of_mem_setP t ht
  rw [elemAt_packElems (lt_of_mem_setP t ht) hk, hhalf, getAt_append, List.length_map, List.length_range, getAt_map_range,
    getAt_map_range]
  generalize etCount t / 2 = h at *
  by_cases hlow : k < h
  · rw [if_pos hlow, if_pos hlow, if_pos hlow, Nat.mod_eq_of_lt hlow, Nat.mod_eq_of_lt (hf _ _)]
  · rw [if_neg hlow, if_neg hlow, if_pos (by omega), Nat.mod_eq_of_lt (hf _ _), Nat.mod_eq_sub_mod (by omega),
      Nat.mod_eq_of_lt (show k - h < h by omega)]

/-- A half of the elements, widened, fills at most a register (R168). -/
theorem unpk_field_le {t : ETypeCode} {k : Nat} (ht : t < 14) (hk : k < etCount t / 2) : 2 * etWidth t * (k + 1) ≤ 32 := by
  have hcount := etCount_mul_etWidth ht
  calc 2 * etWidth t * (k + 1) = 2 * (k + 1) * etWidth t := by ring
    _ ≤ etCount t * etWidth t := Nat.mul_le_mul_right _ (by omega)
    _ = 32 := hcount

/-- One source element of PACK that is narrowed (R167). -/
theorem packElem_spec (t : ETypeCode) (sat : Bool) (n : Nat) :
    if sat && etInt t then
      etInt? t (packElem t sat n) = max (etRange t).1 (min (if etSigned t then signedOf (2 * etWidth t) n else (n : Int)) (etRange t).2)
    else packElem t sat n = n % 2 ^ etWidth t := by
  have hrange := (etRange_width t).2
  simp only [packElem]
  split
  · rw [clampTo_eq hrange, etInt?_wrapTo (le_max_left _ _) (by omega)]
  · rfl

theorem packElem_lt (t : ETypeCode) (sat : Bool) (n : Nat) : packElem t sat n < 2 ^ etWidth t := by
  unfold packElem
  split
  · exact wrapTo_lt ..
  · exact Nat.mod_lt _ (Nat.two_pow_pos _)

/-! ### Compares (R157) -/

theorem FVal.isNan_of_snan {u : FVal} (h : u.snan = true) : u.isNan = true := by
  cases u with
  | nan _ => rfl
  | inf _ => exact absurd h (by simp [FVal.snan])
  | fin _ _ _ => exact absurd h (by simp [FVal.snan])

/-- A quiet NaN sets IV in the relations that are not quiet, and a signalling one in all (R157). -/
theorem signals_eq (quiet : Bool) (u v : FVal) :
    (u.snan || v.snan || (!quiet && (u.isNan || v.isNan))) = if quiet then u.snan || v.snan else u.isNan || v.isNan := by
  cases quiet
  · have hu := FVal.isNan_of_snan (u := u)
    have hv := FVal.isNan_of_snan (u := v)
    cases hus : u.snan <;> cases hvs : v.snan <;> simp_all
  · simp

/-- One flag joined from the active lanes that raise it. -/
theorem unionFlags_flagIf (m : Mask) (c : Nat → Bool) (f : FlagBits) :
    unionFlags (laneFlags (laneResults 0 m fun l => flagIf (c l) f)) = flagIf ((List.range 128).any fun l => m.getLsbD l && c l) f := by
  have hflag (b : Bool) (j : Nat) : (flagIf b f).getLsbD j = (b && f.getLsbD j) := by
    cases b
    · exact BitVec.getLsbD_zero
    · rfl
  refine BitVec.eq_of_getLsbD_eq fun j _ => Bool.eq_iff_iff.mpr ?_
  have hjoin := getLsbD_unionFlags_laneResults (z := (0 : FlagBits)) (p := id) rfl m (fun l => flagIf (c l) f) j
  rw [List.map_id] at hjoin
  rw [hjoin, hflag, Bool.and_eq_true, List.any_eq_true]
  simp only [id, hflag, Bool.and_eq_true, List.mem_range]
  constructor
  · rintro ⟨l, hl, hm, hc, hf⟩
    exact ⟨⟨l, hl, hm, hc⟩, hf⟩
  · rintro ⟨⟨l, hl, hm, hc⟩, hf⟩
    exact ⟨l, hl, hm, hc, hf⟩

/-- R120: the flag IV takes a trap under MW.TEIV alone. -/
theorem enabledCause_flagIV (mw : Word) (c : Bool) : enabledCause mw (flagIf c flagIV) = if mwTeiv mw && c then some 0x20 else none := by
  cases c
  · rw [Bool.and_false]
    exact enabledCause_zero mw
  · have hbits : flagIV.getLsbD 0 = true ∧ flagIV.getLsbD 1 = false ∧ flagIV.getLsbD 2 = false ∧ flagIV.getLsbD 5 = false
        ∧ flagIV.getLsbD 6 = false := by decide
    obtain ⟨hiv, hdz, hof, hmqc, hmqr⟩ := hbits
    show enabledCause mw flagIV = _
    simp only [enabledCause_eq, hiv, hdz, hof, hmqc, hmqr, Bool.and_false, Bool.false_eq_true, if_false]
    rfl

theorem flagIf_and_causeFlag (c : Bool) : flagIf c flagIV &&& causeFlag 0x20 ≠ 0 ↔ c = true := by
  cases c <;> decide

/-- R120, R157: an instruction whose only flag is IV joins it, or traps with the lowest lane that raises it. -/
theorem withFlags_flagIV (s : State) (x : Group) (m : Mask) (iv : Nat → Bool) (k : Group → Out) :
    ((mwTeiv x.regs.mw = false ∨ ∀ l, l < 128 → m.getLsbD l = true → iv l = false) →
      withFlags s x (laneFlags (laneResults 0 m fun l => flagIf (iv l) flagIV)) k
        = k (x.raise (if (List.range 128).any (fun l => m.getLsbD l && iv l) then 1 else 0)))
    ∧ (mwTeiv x.regs.mw = true → ∀ L, L < 128 → m.getLsbD L = true → iv L = true → (∀ l, l < L → m.getLsbD l = true → iv l = false) →
      withFlags s x (laneFlags (laneResults 0 m fun l => flagIf (iv l) flagIV)) k = .next (takeTrap s 0x20 (BitVec.ofNat 32 L))) := by
  have hcause := enabledCause_flagIV x.regs.mw ((List.range 128).any fun l => m.getLsbD l && iv l)
  rw [← unionFlags_flagIf] at hcause
  refine ⟨fun hquiet => ?_, fun hteiv L hL hmL hivL hbelow => ?_⟩
  · refine (withFlags_of_none (hcause.trans (if_neg ?_)) k).trans (by rw [unionFlags_flagIf]; rfl)
    rw [Bool.and_eq_true, List.any_eq_true]
    rintro ⟨hteiv, l, hl, hlane⟩
    obtain ⟨hml, hivl⟩ := Bool.and_eq_true_iff.mp hlane
    obtain hoff | hnone := hquiet
    · exact absurd hteiv (by rw [hoff]; decide)
    · exact absurd hivl (by rw [hnone l (List.mem_range.mp hl) hml]; decide)
  · have hany : ((List.range 128).any fun l => m.getLsbD l && iv l) = true :=
      List.any_eq_true.mpr ⟨L, List.mem_range.mpr hL, Bool.and_eq_true_iff.mpr ⟨hmL, hivL⟩⟩
    obtain ⟨-, hactive, hown, hfirst⟩ := causeLane_laneResults (f := fun l => flagIf (iv l) flagIV) hL hmL ((flagIf_and_causeFlag _).mpr hivL)
    refine (withFlags_of_some (hcause.trans (if_pos (by rw [hteiv, hany]; rfl))) k).trans ?_
    generalize causeLane 0x20 _ = L' at hactive hown hfirst ⊢
    obtain hlt | rfl | hlt := lt_trichotomy L' L
    · exact absurd ((flagIf_and_causeFlag _).mp hown) (by rw [hbelow L' hlt hactive]; decide)
    · rfl
    · exact absurd (hfirst L hlt hmL) ((flagIf_and_causeFlag _).mpr hivL)

/-- One lane of a float compare: its bit, and IV. -/
def compareLane (c a b : Nat) (x : Group) (l : Nat) : Bool × FlagBits :=
  let u := readFloat .f32 (mwFtz x.regs.mw) (x.regs.readV a l).toNat
  let v := readFloat .f32 (mwFtz x.regs.mw) (x.regs.readV b l).toNat
  let r := floatRel c u v
  (r.1, flagIf (u.snan || v.snan || (r.2 && (u.isNan || v.isNan))) flagIV)

/-- The description of a float compare. -/
def compareDesc (w : Word) (op st p a b : Nat) : Desc :=
  { word := w, op := op, st := st, vtop := topOf [a, b], types := setG, reads := [a, b], masked := true, writes := [codeP p] }

theorem floatCompare_of_ready {w : Word} {op st p c a b : Nat} {s : State} {x : Group} (h : Ready (compareDesc w op st p a b) s x)
    (hm : effMask s x ≠ 0) :
    floatCompare w op st p c a b s =
      let rs := laneResults (false, (0 : FlagBits)) (effMask s x) (compareLane c a b x)
      withFlags s x (laneFlags (rs.map Prod.snd)) fun y => .next (finish s (compareDesc w op st p a b) (y.result 0 (codeP p)
        (.pred (effMask s x ||| zeroLanes s x (effMask s x)) (maskOf fun l => getAt false (rs.map Prod.fst) l)))) :=
  (issue_of_ready h _).trans (if_neg hm)

end Sys2Proof.Machine
end

section
/-! CERTIFICATES. Bits of floats and compares. -/

namespace Sys2Proof.Machine

open Sys2Proof

/-- R156, R158, R167, R168. -/
theorem floatBits : Claims.FloatBits := by
  intro st d a b s x t w elems pat
  refine ⟨?fabs, ?fneg, ?fclass, ?pack, fun h => ?unpk⟩
  case fabs => exact vectorGives_of_vecOp rfl fun ht l _ k hk => elemAt_and_not_signMask (lt_of_mem_setH _ ht) hk _
  case fneg => exact vectorGives_of_vecOp rfl fun ht l _ k hk => elemAt_xor_signMask (lt_of_mem_setH _ ht) hk _
  case fclass => exact vectorGives_of_vecOp rfl fun _ l _ => congrArg (BitVec.ofNat 32) (fClass_eq _)
  case pack =>
    refine vectorGives_of_vecOp rfl fun ht l _ k hk => ?_
    have hr := elemAt_halves ht hk (f := fun v i => packElem t (mwSat x.regs.mw) (bitsOf v.toNat (2 * w * (i + 1) - 1) (2 * w * i)))
      (fun _ _ => packElem_lt ..) (x.regs.readV a.toNat l) (x.regs.readV b.toNat l)
    rw [bitsOf_field (by have := etWidth_pos t; omega)] at hr
    exact hr ▸ packElem_spec ..
  case unpk =>
    refine vectorGives_of_vecOp rfl fun ht l _ k hk => ?_
    rw [packElems_field (unpk_field_le (lt_of_mem_setU _ ht) hk), getAt_map_range, if_pos hk, Nat.mod_eq_of_lt (wrapTo_lt ..), natCast_wrapTo]
    rfl

/-- R157. -/
theorem floatCompares : Claims.FloatCompares := by
  intro st p c a b s x m A B un sn cmp
  have gives {i : Instr} {op n : Nat} {ordered : Nat → Bool} {unordered quiet : Bool}
      (he : exec i s = floatCompare (encode i) op st.toNat p.toNat n a.toNat b.toNat s)
      (hrel : ∀ l, floatRel n (A l) (B l) = (if un l then unordered else ordered l, !quiet)) : cmp i op ordered unordered quiet := by
    intro h hm
    dsimp only
    have lane (l : Nat) : compareLane n a.toNat b.toNat x l
        = (if un l then unordered else ordered l, flagIf (if quiet then sn l else un l) flagIV) := by
      show (let r := floatRel n (A l) (B l); (r.1, flagIf (sn l || (r.2 && un l)) flagIV)) = _
      simp only [hrel]
      exact congrArg (fun iv => (_, flagIf iv flagIV)) (signals_eq quiet (A l) (B l))
    have answer := he.trans (floatCompare_of_ready h hm)
    simp only [map_laneResults, lane] at answer
    obtain ⟨hgo, htrap⟩ := withFlags_flagIV s x m (fun l => if quiet then sn l else un l) fun y =>
      .next (finish s _ (y.result 0 (codeP p.toNat) (.pred (m ||| zeroLanes s x m) (maskOf fun l =>
        getAt false (laneResults false m fun l => if un l then unordered else ordered l) l))))
    refine ⟨fun hquiet => ⟨_, _, answer.trans (hgo hquiet), rfl, fun l hl => ?_⟩,
      fun hteiv L hL hmL hivL hbelow => answer.trans (htrap hteiv L hL hmL hivL hbelow)⟩
    rw [getLsbD_maskOf _ hl, laneResults, getAt_lanes _ _ hl]
    cases m.getLsbD l <;> rfl
  refine ⟨?eq, ?ne, ?lt, ?le, ?gt, ?ge, ?un, ?or⟩ <;> rintro rfl
  case eq | ne | lt | le | gt | ge | un | or =>
    refine gives rfl fun l => ?_
    by_cases h : ((A l).isNan || (B l).isNan) = true <;> simp [floatRel, un, h]

/-- Settles O9: the bits of each element are those of its register, and a compare is its relation on the values of the two words. -/
theorem floatBitsAndCompares : Obligations.FloatBitsAndCompares := ⟨floatBits, floatCompares⟩

end Sys2Proof.Machine
end

section
/-! SUPPORT. Integer reductions and scans, and how VRED and VSCAN go on with a reduction (R151 to R153). -/

namespace Sys2Proof.Machine

open Sys2Proof

/-! ### Integer reductions (R151) -/

theorem etWidth_of_mem_setW : ∀ t ∈ setW, etWidth t = 32 := by decide

/-- A fold of bitwise operations, bit by bit. -/
theorem getLsbD_foldl_and (xs : List Word) (acc : Word) (j : Nat) :
    (xs.foldl (fun a w => a &&& w) acc).getLsbD j = (acc.getLsbD j && xs.all fun w => w.getLsbD j) := by
  induction xs generalizing acc with
  | nil => simp
  | cons w xs ih => rw [List.foldl_cons, ih, BitVec.getLsbD_and, List.all_cons, Bool.and_assoc]

theorem getLsbD_foldl_or (xs : List Word) (acc : Word) (j : Nat) :
    (xs.foldl (fun a w => a ||| w) acc).getLsbD j = (acc.getLsbD j || xs.any fun w => w.getLsbD j) := by
  induction xs generalizing acc with
  | nil => simp
  | cons w xs ih => rw [List.foldl_cons, ih, BitVec.getLsbD_or, List.any_cons, Bool.or_assoc]

theorem getLsbD_foldl_xor (xs : List Word) (acc : Word) (j : Nat) :
    (xs.foldl (fun a w => a ^^^ w) acc).getLsbD j = (acc.getLsbD j ^^ xs.foldr (fun w b => w.getLsbD j ^^ b) false) := by
  induction xs generalizing acc with
  | nil => simp
  | cons w xs ih => rw [List.foldl_cons, ih, BitVec.getLsbD_xor, List.foldr_cons, Bool.xor_assoc]

/-- What R151 says of the integer reduction r of some words, by its code. -/
def IntReduced (o : BitVec 4) (t : ETypeCode) (sat : Bool) (ws : List Word) (r : Word) : Prop :=
  (o = 0 → fits t sat (ws.map fun w => etInt? t w.toNat).sum r.toNat)
  ∧ (o = 1 → etInt? t r.toNat = (ws.map fun w => etInt? t w.toNat).foldr min (etRange t).2)
  ∧ (o = 2 → etInt? t r.toNat = (ws.map fun w => etInt? t w.toNat).foldr max (etRange t).1)
  ∧ (o = 3 → ∀ j, j < 32 → r.getLsbD j = ws.all fun w => w.getLsbD j)
  ∧ (o = 4 → ∀ j, j < 32 → r.getLsbD j = ws.any fun w => w.getLsbD j)
  ∧ (o = 5 → ∀ j, j < 32 → r.getLsbD j = ws.foldr (fun w acc => w.getLsbD j ^^ acc) false)

/-- The word of an integer in the range of a 32-bit type has its value. -/
theorem etInt?_ofInt {t : ETypeCode} (ht : t ∈ setW) {n : Int} (hlo : (etRange t).1 ≤ n) (hhi : n ≤ (etRange t).2) :
    etInt? t (BitVec.ofInt 32 n).toNat = n := by
  rw [← wrapTo_eq_toNat, ← etWidth_of_mem_setW t ht, etInt?_wrapTo hlo hhi]

theorem foldr_min_mem_range (t : ETypeCode) (ns : List Nat) :
    (etRange t).1 ≤ (ns.map (etInt? t)).foldr min (etRange t).2 ∧ (ns.map (etInt? t)).foldr min (etRange t).2 ≤ (etRange t).2 := by
  induction ns with
  | nil => exact ⟨(etRange_width t).2, le_refl _⟩
  | cons n ns ih =>
    obtain ⟨hlo, hhi⟩ := ih
    have hn := etInt?_mem_range t n
    rw [List.map_cons, List.foldr_cons]
    omega

theorem foldr_max_mem_range (t : ETypeCode) (ns : List Nat) :
    (etRange t).1 ≤ (ns.map (etInt? t)).foldr max (etRange t).1 ∧ (ns.map (etInt? t)).foldr max (etRange t).1 ≤ (etRange t).2 := by
  induction ns with
  | nil => exact ⟨le_refl _, (etRange_width t).2⟩
  | cons n ns ih =>
    obtain ⟨hlo, hhi⟩ := ih
    have hn := etInt?_mem_range t n
    rw [List.map_cons, List.foldr_cons]
    omega

/-- R151: the model's integer reductions, whose terms come in the order of their lanes. -/
theorem intReduced_reduce (o : BitVec 4) {t : ETypeCode} (ht : t ∈ setW) (sat ftz : Bool) (rnd : RndMode) (ws : List Word) :
    IntReduced o t sat ws (reduce o.toNat t sat ftz rnd ws).1 := by
  have hmap : (ws.map fun w => etInt? t w.toNat) = (ws.map BitVec.toNat).map (etInt? t) := by rw [List.map_map]; rfl
  refine ⟨?sum, ?min, ?max, ?and, ?or, ?xor⟩ <;> rintro rfl
  case sum =>
    have hfit := fits_fit t sat ((ws.map BitVec.toNat).map (etInt? t)).sum
    have hlt := fit_lt sat t ((ws.map BitVec.toNat).map (etInt? t)).sum
    rw [etWidth_of_mem_setW t ht] at hlt
    rw [hmap]
    show fits t sat _ (BitVec.ofNat 32 (fit sat t (((ws.map BitVec.toNat).map (etInt? t)).foldl (· + ·) 0))).toNat
    rwa [← List.sum_eq_foldl, BitVec.toNat_ofNat, Nat.mod_eq_of_lt hlt]
  case min =>
    obtain ⟨hlo, hhi⟩ := foldr_min_mem_range t (ws.map BitVec.toNat)
    rw [hmap]
    show etInt? t (BitVec.ofInt 32 (((ws.map BitVec.toNat).map (etInt? t)).foldl min (etRange t).2)).toNat = _
    rw [List.foldl_eq_foldr, etInt?_ofInt ht hlo hhi]
  case max =>
    obtain ⟨hlo, hhi⟩ := foldr_max_mem_range t (ws.map BitVec.toNat)
    rw [hmap]
    show etInt? t (BitVec.ofInt 32 (((ws.map BitVec.toNat).map (etInt? t)).foldl max (etRange t).1)).toNat = _
    rw [List.foldl_eq_foldr, etInt?_ofInt ht hlo hhi]
  case and =>
    intro j hj
    refine (getLsbD_foldl_and ws _ j).trans ?_
    have hones : (0xFFFFFFFF : Word).getLsbD j = true := (BitVec.getLsbD_allOnes (v := 32)).trans (decide_eq_true hj)
    rw [hones, Bool.true_and]
  case or => exact fun j _ => (getLsbD_foldl_or ws 0 j).trans (by simp)
  case xor => exact fun j _ => (getLsbD_foldl_xor ws 0 j).trans (by simp)

/-- An integer reduction sets no flag. -/
theorem reduce_flags {o : Nat} (ho : o ≤ 5) (t : ETypeCode) (sat ftz : Bool) (rnd : RndMode) (ws : List Word) :
    (reduce o t sat ftz rnd ws).2 = 0 := by
  interval_cases o <;> rfl

/-! ### VRED and VSCAN (R152, R153) -/

@[simp] theorem Group.raise_zero (x : Group) : x.raise 0 = x := by
  have hflags : x.regs.flags ||| 0 = x.regs.flags := BitVec.or_zero
  rw [Group.raise, hflags]

/-- Flags that no lane raises. -/
theorem withFlags_zero (s : State) (x : Group) (m : Mask) (k : Group → Out) :
    withFlags s x (laneFlags (laneResults 0 m fun _ => 0)) k = k x := by
  refine ((withFlags_flagIV s x m (fun _ => false) k).1 (.inr fun _ _ _ => rfl)).trans ?_
  rw [if_neg (by simp), Group.raise_zero]

section
variable {st : BitVec 3} {d a : BitVec 7} {o : BitVec 4} {ex : BitVec 1} {s : State} {x : Group} {types : List ETypeCode}

/-- The description of VRED under the types of its operation. -/
def redDesc (st : BitVec 3) (d a : BitVec 7) (o : BitVec 4) (types : List ETypeCode) : Desc :=
  { vDesc (encode (.vred st d a o)) 0x5F st.toNat 2 types d.toNat [a.toNat] with masked := true, writes := [d.toNat], fixed := [d.toNat] }

theorem redDesc_mask : (redDesc st d a o types).mask s x = effMask s x := rfl

/-- The description of VSCAN under the types of its operation. -/
def scanDesc (st : BitVec 3) (d a : BitVec 7) (ex : BitVec 1) (o : BitVec 4) (types : List ETypeCode) : Desc :=
  { vDesc (encode (.vscan st d a ex o)) 0x60 st.toNat 2 types d.toNat [a.toNat] with masked := true, writes := [d.toNat] }

/-- The lanes that VSCAN reduces for a lane (R153). -/
def scanLanes (m : Mask) (ex : BitVec 1) (l : Nat) : List Nat := (activeLanes m).filter fun k => k < l || (ex == 0 && k == l)

/-- A reduction none of whose flags takes a trap is written to every lane of the activity mask. -/
theorem exec_vred_of_none (ht : redTypes o.toNat = types) (h : Ready (redDesc st d a o types) s x)
    (hn : enabledCause x.regs.mw (reduceLanes s x o.toNat a.toNat (activeLanes (effMask s x))).2 = none) :
    exec (.vred st d a o) s = .next (finish s (redDesc st d a o types)
      ((x.raise (reduceLanes s x o.toNat a.toNat (activeLanes (effMask s x))).2).result 2 d.toNat
        (vecVal x.regs.act 0 fun _ => (reduceLanes s x o.toNat a.toNat (activeLanes (effMask s x))).1))) := by
  subst ht
  refine (issue_of_ready h _).trans ?_
  simp only [redDesc_mask, hn]
  rfl

theorem exec_vred_of_some {c : Nat} (ht : redTypes o.toNat = types) (h : Ready (redDesc st d a o types) s x)
    (hc : enabledCause x.regs.mw (reduceLanes s x o.toNat a.toNat (activeLanes (effMask s x))).2 = some c) :
    exec (.vred st d a o) s = .next (takeTrap s c (BitVec.ofNat 32 (redLane x a.toNat c (effMask s x)))) := by
  subst ht
  refine (issue_of_ready h _).trans ?_
  simp only [redDesc_mask, hc]

theorem exec_vscan_of_empty (ht : redTypes o.toNat = types) (h : Ready (scanDesc st d a ex o types) s x) (hm : effMask s x = 0) :
    exec (.vscan st d a ex o) s = .next (finish s (scanDesc st d a ex o types) x) := by
  subst ht
  exact (issue_of_ready h _).trans (if_pos hm)

/-- Each active lane's reduction is of the active lanes up to it or before it. -/
theorem exec_vscan (ht : redTypes o.toNat = types) (h : Ready (scanDesc st d a ex o types) s x) (hm : effMask s x ≠ 0) :
    exec (.vscan st d a ex o) s =
      let rs := laneResults (0, 0) (effMask s x) fun l => reduceLanes s x o.toNat a.toNat (scanLanes (effMask s x) ex l)
      withFlags s x (laneFlags (rs.map Prod.snd)) fun y => .next (finish s (scanDesc st d a ex o types)
        (y.result 2 d.toNat (.vec (effMask s x ||| zeroLanes s x (effMask s x)) (rs.map Prod.fst)))) := by
  subst ht
  refine (issue_of_ready h _).trans ((if_neg hm).trans ?_)
  simp only [scanLanes, beq_eq_decide]
  rfl

end

end Sys2Proof.Machine
end

section
/-! CERTIFICATES. Integer reductions. -/

namespace Sys2Proof.Machine

open Sys2Proof

/-- R151, R152, R153. -/
theorem integerReductions : Claims.IntegerReductions := by
  intro st d a o s x ho t m term isRed q qr
  have htypes : redTypes o.toNat = setW := if_pos (by omega)
  have hred (ht : t ∈ setW) (ls : List Nat) : isRed ls (reduceLanes s x o.toNat a.toNat ls).1 := intReduced_reduce o ht _ _ _ _
  have hflags (ls : List Nat) : (reduceLanes s x o.toNat a.toNat ls).2 = 0 := reduce_flags ho _ _ _ _ _
  refine ⟨fun h => ?vred, fun ex h hm => ?vscan⟩
  case vred =>
    have answer := exec_vred_of_none htypes h (by rw [hflags]; exact enabledCause_zero _)
    rw [hflags, Group.raise_zero, vecVal_zero] at answer
    exact ⟨_, _, answer, hred h.type_mem _, fun l hl hact => (laneGet_lanes _ hl).trans (if_pos hact)⟩
  case vscan =>
    have answer := exec_vscan htypes h hm
    simp only [map_laneResults, hflags, withFlags_zero] at answer
    refine ⟨_, answer, fun l hl => ?_⟩
    have hlane := laneGet_lanes (fun l => if m.getLsbD l then (reduceLanes s x o.toNat a.toNat (scanLanes m ex l)).1 else 0) hl
    rw [laneResults, hlane]
    split
    · exact hred h.type_mem _
    · rfl

end Sys2Proof.Machine
end

section
/-! SUPPORT. Sums of floats (R113, R115), the order of binary32 words, and the float reductions (R151). -/

namespace Sys2Proof.Machine

open Sys2Proof

/-! ### Exact sums (R113, R115) -/

section
variable {f : Fmt} {mode : RndMode} {ftz : Bool} {V : List FVal}

theorem any_eq_iff_mem (V : List FVal) (v : FVal) : (V.any fun u => u == v) = true ↔ v ∈ V := by
  simp only [List.any_eq_true, beq_iff_eq, exists_eq_right]

theorem any_eq_false_iff (V : List FVal) (p : FVal → Bool) : V.any p = false ↔ ∀ v ∈ V, p v = false := by
  simp only [List.any_eq_false, Bool.not_eq_true]

/-- A NaN among the terms, or infinities of both signs, give the canonical NaN (R113). -/
theorem sumRound_of_nan (h : (∃ v ∈ V, v.isNan = true) ∨ .inf false ∈ V ∧ .inf true ∈ V) :
    sumRound f mode ftz false V
      = nanRes f (V.any FVal.snan || ((V.any fun v => v == .inf false) && V.any fun v => v == .inf true)) := by
  unfold sumRound
  by_cases hnan : V.any FVal.isNan = true
  · simp only [if_pos hnan, Bool.or_false]
  · obtain hsome | ⟨hpos, hneg⟩ := h
    · exact absurd (List.any_eq_true.mpr hsome) hnan
    · simp [hnan, (any_eq_iff_mem V _).mpr hpos, (any_eq_iff_mem V _).mpr hneg]

/-- Infinities of one sign give that infinity (R113). -/
theorem sumRound_of_inf (hnan : ∀ v ∈ V, v.isNan = false) {n : Bool} (h : .inf n ∈ V) (hother : .inf (!n) ∉ V) :
    sumRound f mode ftz false V = infRes f n := by
  have hnan := (any_eq_false_iff V FVal.isNan).mpr hnan
  have hin := (any_eq_iff_mem V _).mpr h
  have hout := Bool.eq_false_iff.mpr (mt (any_eq_iff_mem V _).mp hother)
  unfold sumRound
  cases n <;> simp_all

/-- Whether a value is a zero. -/
def FVal.isZero : FVal → Bool
  | .fin _ m _ => m = 0
  | _ => false

/-- The sign of an exact zero sum (R113). -/
def zeroSign (mode : RndMode) (V : List FVal) : Bool :=
  if V.all FVal.isZero && V.all FVal.neg then true
  else if V.all FVal.isZero && V.all fun v => !v.neg then false
  else mode = 3

theorem FVal.isZero_iff (v : FVal) (n : Bool) : v.isZero = true ∧ v.neg = n ↔ ∃ e, v = .fin n 0 e := by
  cases v <;> simp [FVal.isZero, FVal.neg, and_comm]

theorem allZero_neg_iff (V : List FVal) :
    (V.all FVal.isZero && V.all FVal.neg) = true ↔ ∀ v ∈ V, ∃ e, v = .fin true 0 e := by
  simp only [Bool.and_eq_true, List.all_eq_true, ← FVal.isZero_iff, forall_and]

theorem allZero_pos_iff (V : List FVal) :
    (V.all FVal.isZero && V.all fun v => !v.neg) = true ↔ ∀ v ∈ V, ∃ e, v = .fin false 0 e := by
  simp only [Bool.and_eq_true, List.all_eq_true, ← FVal.isZero_iff, forall_and, Bool.not_eq_true']

/-- Finite terms are summed exactly, as multiples of 2 to their least exponent. -/
theorem sumRound_of_fin (h : ∀ v ∈ V, ∃ n m e, v = .fin n m e) :
    sumRound f mode ftz false V =
      let g := (minExp V).getD 0
      let total := (V.map (scaledTo g)).sum
      if total = 0 then (signBits f (zeroSign mode V), 0) else roundFin f mode ftz (total < 0) total.natAbs g := by
  have hnan : V.any FVal.isNan = false := (any_eq_false_iff V _).mpr fun v hv => by
    obtain ⟨n, m, e, rfl⟩ := h v hv
    rfl
  have hinf (b : Bool) : (V.any fun v => v == .inf b) = false := Bool.eq_false_iff.mpr fun hb => by
    obtain ⟨n, m, e, he⟩ := h _ ((any_eq_iff_mem V _).mp hb)
    cases he
  have hsum (g : Int) : V.foldl (fun a v => a + scaledTo g v) 0 = (V.map (scaledTo g)).sum := by
    rw [List.sum_eq_foldl, List.foldl_map]
  unfold sumRound
  simp only [hnan, hinf, hsum, Bool.false_eq_true, if_false, Bool.or_self, Bool.and_self]
  rfl

/-- `g` is the least exponent of the nonzero terms, where there is one. -/
def IsLeastExp (V : List FVal) : Option Int → Prop
  | none => ∀ n m e, .fin n m e ∈ V → m = 0
  | some g => (∃ n m, m ≠ 0 ∧ .fin n m g ∈ V) ∧ ∀ n m e, .fin n m e ∈ V → m ≠ 0 → g ≤ e

/-- A term that is not finite and nonzero changes nothing. -/
theorem IsLeastExp.cons_of_zero {v : FVal} {g : Option Int} (hv : ∀ n m e, v = .fin n m e → m = 0) (h : IsLeastExp V g) :
    IsLeastExp (v :: V) g := by
  cases g with
  | none => exact fun n m e hmem => (List.mem_cons.mp hmem).elim (fun he => hv n m e he.symm) (h n m e)
  | some g =>
    obtain ⟨⟨n, m, hm, hmem⟩, hle⟩ := h
    exact ⟨⟨n, m, hm, List.mem_cons_of_mem _ hmem⟩, fun n m e hmem hm =>
      (List.mem_cons.mp hmem).elim (fun he => absurd (hv n m e he.symm) hm) fun h => hle n m e h hm⟩

/-- A nonzero term joins with its exponent. -/
theorem IsLeastExp.cons {n : Bool} {m : Nat} {e : Int} {g : Option Int} (hm : m ≠ 0) (h : IsLeastExp V g) :
    IsLeastExp (.fin n m e :: V) (some (g.elim e (min e))) := by
  cases g with
  | none =>
    refine ⟨⟨n, m, hm, List.mem_cons_self⟩, fun n' m' e' hmem hm' => ?_⟩
    obtain he | hmem := List.mem_cons.mp hmem
    · cases he
      exact le_refl _
    · exact absurd (h n' m' e' hmem) hm'
  | some g =>
    obtain ⟨⟨n₀, m₀, hm₀, hmem₀⟩, hle⟩ := h
    refine ⟨?_, fun n' m' e' hmem hm' => ?_⟩
    · obtain h | h := min_choice e g <;> rw [Option.elim_some, h]
      · exact ⟨n, m, hm, List.mem_cons_self⟩
      · exact ⟨n₀, m₀, hm₀, List.mem_cons_of_mem _ hmem₀⟩
    · obtain he | hmem := List.mem_cons.mp hmem
      · cases he
        exact min_le_left _ _
      · exact (min_le_right _ _).trans (hle n' m' e' hmem hm')

theorem isLeastExp_minExp (V : List FVal) : IsLeastExp V (minExp V) := by
  induction V with
  | nil => exact fun _ _ _ h => absurd h List.not_mem_nil
  | cons v V ih =>
    cases v with
    | nan s => exact ih.cons_of_zero nofun
    | inf n => exact ih.cons_of_zero nofun
    | fin n m e =>
      rw [minExp]
      split
      case isTrue hm => exact ih.cons_of_zero fun _ _ _ h => by cases h; exact hm
      case isFalse hm => cases hV : minExp V <;> exact (hV ▸ ih).cons hm

/-- There is only one least exponent. -/
theorem IsLeastExp.minExp_eq {g : Int} (h : IsLeastExp V (some g)) : minExp V = some g := by
  have hV := isLeastExp_minExp V
  obtain ⟨⟨n, m, hm, hmem⟩, hle⟩ := h
  cases hg : minExp V with
  | none =>
    rw [hg] at hV
    exact absurd (hV n m g hmem) hm
  | some g' =>
    rw [hg] at hV
    obtain ⟨⟨n', m', hm', hmem'⟩, hle'⟩ := hV
    exact congrArg some (le_antisymm (hle' n m g hmem hm) (hle n' m' g' hmem' hm'))

/-- Zeros sum to zero, to whatever exponent they are scaled. -/
theorem sum_scaledTo_of_zero (h : ∀ v ∈ V, ∃ n e, v = .fin n 0 e) (g : Int) : (V.map (scaledTo g)).sum = 0 := by
  refine List.sum_eq_zero fun y hy => ?_
  obtain ⟨v, hv, rfl⟩ := List.mem_map.mp hy
  obtain ⟨n, e, rfl⟩ := h v hv
  cases n <;> simp [scaledTo]

/-- The exact sum of finite terms over the quantum that the model takes is that over the least exponent g. -/
theorem sum_scaledTo_minExp {g : Int} (hle : ∀ n m e, .fin n m e ∈ V → m ≠ 0 → g ≤ e)
    (h : (∃ n m, m ≠ 0 ∧ .fin n m g ∈ V) ∨ ∀ v ∈ V, ∃ n e, v = .fin n 0 e) :
    (V.map (scaledTo ((minExp V).getD 0))).sum = (V.map (scaledTo g)).sum
    ∧ ((V.map (scaledTo g)).sum ≠ 0 → (minExp V).getD 0 = g) := by
  obtain h | h := h
  · rw [IsLeastExp.minExp_eq ⟨h, hle⟩]
    exact ⟨rfl, fun _ => rfl⟩
  · rw [sum_scaledTo_of_zero h, sum_scaledTo_of_zero h]
    exact ⟨rfl, fun hne => absurd rfl hne⟩

end

/-! ### The order of binary32 words -/

/-- The magnitude that the low 31 bits of a binary32 word stand for, in units of the least subnormal; an infinity comes out as the
value after the largest finite one. -/
def magnitude (p : Nat) : Nat := if p / 2 ^ 23 = 0 then p % 2 ^ 23 else (p % 2 ^ 23 + 2 ^ 23) * 2 ^ (p / 2 ^ 23 - 1)

theorem magnitude_lt_succ (p : Nat) : magnitude p < magnitude (p + 1) := by
  have hpow : 0 < 2 ^ (p / 2 ^ 23 - 1) := by positivity
  unfold magnitude
  by_cases hcarry : p % 2 ^ 23 + 1 = 2 ^ 23
  · have hd : (p + 1) / 2 ^ 23 = p / 2 ^ 23 + 1 := by omega
    have hm : (p + 1) % 2 ^ 23 = 0 := by omega
    rw [hd, hm, if_neg (Nat.succ_ne_zero _)]
    split
    case isTrue h => rw [h]; omega
    case isFalse h =>
      have hstep : 2 ^ (p / 2 ^ 23 + 1 - 1) = 2 ^ (p / 2 ^ 23 - 1) * 2 := by rw [← pow_succ]; congr 1; omega
      rw [hstep]
      nlinarith
  · have hd : (p + 1) / 2 ^ 23 = p / 2 ^ 23 := by omega
    have hm : (p + 1) % 2 ^ 23 = p % 2 ^ 23 + 1 := by omega
    rw [hd, hm]
    split
    · exact Nat.lt_succ_self _
    · exact Nat.mul_lt_mul_of_pos_right (by omega) hpow

theorem magnitude_strictMono : StrictMono magnitude := strictMono_nat_of_lt_succ magnitude_lt_succ

/-- The value of a sign bit and the low 31 bits of a binary32 word, in the units of `magnitude`. -/
def signedMagnitude (neg : Bool) (p : Nat) : Int := if neg then -(magnitude p : Int) else magnitude p

/-- The value v has the sign `neg` and the magnitude of the low bits p of a binary32 word. -/
def FVal.Has (v : FVal) (neg : Bool) (p : Nat) : Prop :=
  (v = .inf neg ∧ p = 0x7F800000) ∨ ∃ m k : Nat, v = .fin neg m (-149 + k) ∧ m * 2 ^ k = magnitude p ∧ p < 0x7F800000

/-- R105: a binary32 word that is not a NaN stands for its sign bit and its magnitude. -/
theorem decodeFloat_has {w : Word} (h : (decodeFloat .f32 w.toNat).isNan = false) :
    (decodeFloat .f32 w.toNat).Has (w.getLsbD 31) (w.toNat % 2 ^ 31) := by
  have hex : (w.extractLsb' 23 8).toNat = w.toNat % 2 ^ 31 / 2 ^ 23 := by
    rw [BitVec.extractLsb'_toNat, Nat.shiftRight_eq_div_pow]; omega
  have hfr : w.toNat % 2 ^ 23 = w.toNat % 2 ^ 31 % 2 ^ 23 := by omega
  have hlt : w.toNat % 2 ^ 31 < 2 ^ 31 := Nat.mod_lt _ (by decide)
  rw [decodeFloat_f32] at h ⊢
  rw [hex, hfr] at h ⊢
  generalize w.toNat % 2 ^ 31 = p at h hlt ⊢
  dsimp only at h ⊢
  by_cases htop : p / 2 ^ 23 = 255
  · rw [if_pos htop] at h ⊢
    by_cases hzero : p % 2 ^ 23 = 0
    · rw [if_pos hzero]
      exact .inl ⟨rfl, by omega⟩
    · rw [if_neg hzero] at h
      cases h
  · rw [if_neg htop]
    refine .inr ?_
    by_cases hsub : p / 2 ^ 23 = 0
    · rw [if_pos hsub]
      exact ⟨_, 0, rfl, by rw [magnitude, if_pos hsub, pow_zero, Nat.mul_one], by omega⟩
    · rw [if_neg hsub]
      exact ⟨_, p / 2 ^ 23 - 1, by congr 1; omega, by rw [magnitude, if_neg hsub], by omega⟩

theorem scaledTo_mul_pow {n : Bool} {m k j : Nat} (h : j ≤ k) :
    scaledTo (-149 + j) (.fin n m (-149 + k)) * 2 ^ j = if n then -((m * 2 ^ k : Nat) : Int) else (m * 2 ^ k : Nat) := by
  have hpow : (2 : Int) ^ k = 2 ^ (k - j) * 2 ^ j := by rw [← pow_add, Nat.sub_add_cancel h]
  cases n <;> simp [scaledTo, hpow, Int.mul_assoc]

/-- The order of values is that of their signed magnitudes. -/
theorem FVal.Has.lt_iff {u v : FVal} {x y : Bool} {p q : Nat} (hu : u.Has x p) (hv : v.Has y q) :
    FVal.lt u v = true ↔ signedMagnitude x p < signedMagnitude y q := by
  have hpos : 0 < magnitude 0x7F800000 := magnitude_strictMono (show 0 < 0x7F800000 by decide)
  unfold signedMagnitude
  obtain ⟨rfl, rfl⟩ | ⟨m, k, rfl, hm, hp⟩ := hu <;> obtain ⟨rfl, rfl⟩ | ⟨m', k', rfl, hm', hq⟩ := hv
  · cases x <;> cases y <;> simp [FVal.lt]
    omega
  · have hlt := magnitude_strictMono hq
    cases x <;> cases y <;> simp [FVal.lt] <;> omega
  · have hlt := magnitude_strictMono hp
    cases x <;> cases y <;> simp [FVal.lt] <;> omega
  · have hmin : min (-149 + (k : Int)) (-149 + k') = -149 + (min k k' : Nat) := by omega
    rw [FVal.lt, hmin, decide_eq_true_iff, ← Int.mul_lt_mul_right (show (0 : Int) < 2 ^ min k k' by positivity),
      scaledTo_mul_pow (min_le_left _ _), scaledTo_mul_pow (min_le_right _ _), hm, hm']

/-- A binary32 word's place in the order of the values: -0 and +0 share theirs. -/
def place (b : Nat) : Int := if b < 2 ^ 31 then b else 2 ^ 31 - (b : Int)

theorem getLsbD_31 (w : Word) : w.getLsbD 31 = decide (2 ^ 31 ≤ w.toNat) := by
  rw [← BitVec.msb_eq_getLsbD_last w, BitVec.msb_eq_decide]

theorem signedMagnitude_lt_iff (v w : Word) :
    signedMagnitude (v.getLsbD 31) (v.toNat % 2 ^ 31) < signedMagnitude (w.getLsbD 31) (w.toNat % 2 ^ 31)
      ↔ place v.toNat < place w.toNat := by
  have hv := v.isLt
  have hw := w.isLt
  have hlt := magnitude_strictMono.lt_iff_lt (a := v.toNat % 2 ^ 31) (b := w.toNat % 2 ^ 31)
  have hgt := magnitude_strictMono.lt_iff_lt (a := w.toNat % 2 ^ 31) (b := v.toNat % 2 ^ 31)
  have hv0 := magnitude_strictMono.lt_iff_lt (a := 0) (b := v.toNat % 2 ^ 31)
  have hw0 := magnitude_strictMono.lt_iff_lt (a := 0) (b := w.toNat % 2 ^ 31)
  have hzero : magnitude 0 = 0 := rfl
  rw [getLsbD_31, getLsbD_31, signedMagnitude, signedMagnitude, place, place]
  simp only [decide_eq_true_eq]
  split <;> split <;> split <;> split <;> omega

theorem exists_word {b : Nat} (hb : b < 2 ^ 32) : ∃ w : Word, w.toNat = b := ⟨.ofNatLT b hb, rfl⟩

section
variable {b c : Nat}

/-- The order of two binary32 words that are not NaNs is that of their places. -/
theorem lt_decodeFloat_iff (hb : b < 2 ^ 32) (hc : c < 2 ^ 32) (hbn : (decodeFloat .f32 b).isNan = false)
    (hcn : (decodeFloat .f32 c).isNan = false) :
    FVal.lt (decodeFloat .f32 b) (decodeFloat .f32 c) = true ↔ place b < place c := by
  obtain ⟨v, rfl⟩ := exists_word hb
  obtain ⟨w, rfl⟩ := exists_word hc
  exact ((decodeFloat_has hbn).lt_iff (decodeFloat_has hcn)).trans (signedMagnitude_lt_iff v w)

theorem eqv_decodeFloat_iff (hb : b < 2 ^ 32) (hc : c < 2 ^ 32) (hbn : (decodeFloat .f32 b).isNan = false)
    (hcn : (decodeFloat .f32 c).isNan = false) :
    FVal.eqv (decodeFloat .f32 b) (decodeFloat .f32 c) = true ↔ place b = place c := by
  have hlt := lt_decodeFloat_iff hb hc hbn hcn
  have hgt := lt_decodeFloat_iff hc hb hcn hbn
  simp only [FVal.eqv, hbn, hcn, Bool.not_false, Bool.true_and, Bool.and_eq_true, Bool.not_eq_true', Bool.eq_false_iff, ne_eq, hlt, hgt]
  omega

theorem neg_decodeFloat (hb : b < 2 ^ 32) (hbn : (decodeFloat .f32 b).isNan = false) :
    (decodeFloat .f32 b).neg = decide (2 ^ 31 ≤ b) := by
  obtain ⟨w, rfl⟩ := exists_word hb
  rw [← getLsbD_31]
  obtain ⟨h, -⟩ | ⟨m, k, h, -, -⟩ := decodeFloat_has hbn <;> rw [h] <;> rfl

end

/-- The order of R151: that of the values, with -0 below +0. -/
def rank (b : Nat) : Int := if b < 2 ^ 31 then b else 2 ^ 31 - 1 - (b : Int)

/-- b is the smaller, or the larger, of two binary32 words, by their ranks. -/
def Extreme (less : Bool) (b c : Nat) : Prop := if less then rank b ≤ rank c else rank c ≤ rank b

theorem Extreme.refl (less : Bool) (b : Nat) : Extreme less b b := by cases less <;> exact le_refl _

theorem Extreme.trans {less : Bool} {b c d : Nat} (h : Extreme less b c) (h' : Extreme less c d) : Extreme less b d := by
  cases less
  · exact le_trans h' h
  · exact le_trans h h'

theorem rank_le_of_place_lt {b c : Nat} (h : place b < place c) : rank b ≤ rank c := by
  unfold place at h
  unfold rank
  split_ifs at h ⊢ <;> omega

/-- Of two words in one place, one that is negative has the lower rank. -/
theorem rank_le_of_place_eq {b c : Nat} (h : place b = place c) :
    (2 ^ 31 ≤ b → rank b ≤ rank c) ∧ (b < 2 ^ 31 → rank c ≤ rank b) := by
  unfold place at h
  unfold rank
  split_ifs at h ⊢ <;> omega

/-- The one of two words that a minimum or a maximum takes. -/
def pick (less : Bool) (b c : Nat) : Nat :=
  let u := decodeFloat .f32 b
  let v := decodeFloat .f32 c
  if FVal.eqv u v then if u.neg == less then b else c else if FVal.lt u v == less then b else c

theorem pick_spec (less : Bool) {b c : Nat} (hb : b < 2 ^ 32) (hc : c < 2 ^ 32) (hbn : (decodeFloat .f32 b).isNan = false)
    (hcn : (decodeFloat .f32 c).isNan = false) :
    (pick less b c = b ∧ Extreme less b c) ∨ (pick less b c = c ∧ Extreme less c b) := by
  have hlt := lt_decodeFloat_iff hb hc hbn hcn
  unfold pick
  by_cases he : FVal.eqv (decodeFloat .f32 b) (decodeFloat .f32 c) = true
  · obtain ⟨hlow, hhigh⟩ := rank_le_of_place_eq ((eqv_decodeFloat_iff hb hc hbn hcn).mp he)
    simp only [if_pos he, neg_decodeFloat hb hbn]
    by_cases hneg : 2 ^ 31 ≤ b
    · rw [decide_eq_true hneg]
      cases less
      · exact .inr ⟨rfl, hlow hneg⟩
      · exact .inl ⟨rfl, hlow hneg⟩
    · rw [decide_eq_false hneg]
      cases less
      · exact .inl ⟨rfl, hhigh (not_le.mp hneg)⟩
      · exact .inr ⟨rfl, hhigh (not_le.mp hneg)⟩
  · simp only [if_neg he]
    by_cases hl : FVal.lt (decodeFloat .f32 b) (decodeFloat .f32 c) = true
    · have hle := rank_le_of_place_lt (hlt.mp hl)
      rw [hl]
      cases less
      · exact .inr ⟨rfl, hle⟩
      · exact .inl ⟨rfl, hle⟩
    · have hle : rank c ≤ rank b := rank_le_of_place_lt
        (lt_of_le_of_ne (not_lt.mp (mt hlt.mpr hl)) fun h => he ((eqv_decodeFloat_iff hb hc hbn hcn).mpr h.symm))
      rw [Bool.eq_false_iff.mpr hl]
      cases less
      · exact .inl ⟨rfl, hle⟩
      · exact .inr ⟨rfl, hle⟩

theorem extremeTerm_cons_none {less : Bool} {c : Nat} {cs : List Nat} (hcn : (decodeFloat .f32 c).isNan = false)
    (h : extremeTerm less cs = none) : extremeTerm less (c :: cs) = some c := by
  simp [extremeTerm, hcn, h]

theorem extremeTerm_cons {less : Bool} {c z : Nat} {cs : List Nat} (hcn : (decodeFloat .f32 c).isNan = false)
    (h : extremeTerm less cs = some z) : extremeTerm less (c :: cs) = some (pick less c z) := by
  simp only [extremeTerm, hcn, h, pick, Bool.false_eq_true, if_false]
  split <;> rfl

/-- R151: a minimum or maximum of some words is one of the words that are not NaNs, and it is the extreme of them. -/
theorem extremeTerm_spec (less : Bool) {bs : List Nat} (hbs : ∀ b ∈ bs, b < 2 ^ 32) :
    (extremeTerm less bs = none → ∀ b ∈ bs, (decodeFloat .f32 b).isNan = true)
    ∧ ∀ y, extremeTerm less bs = some y → y ∈ bs ∧ (decodeFloat .f32 y).isNan = false
      ∧ ∀ b ∈ bs, (decodeFloat .f32 b).isNan = false → Extreme less y b := by
  induction bs with
  | nil => exact ⟨fun _ _ h => absurd h List.not_mem_nil, nofun⟩
  | cons c cs ih =>
    rw [List.forall_mem_cons] at hbs
    obtain ⟨hc, hcs⟩ := hbs
    obtain ⟨hnone, hsome⟩ := ih hcs
    simp only [List.forall_mem_cons]
    by_cases hcn : (decodeFloat .f32 c).isNan = true
    · rw [extremeTerm, if_pos hcn]
      refine ⟨fun h => ⟨hcn, hnone h⟩, fun y hy => ?_⟩
      obtain ⟨hmem, hyn, hext⟩ := hsome y hy
      exact ⟨List.mem_cons_of_mem _ hmem, hyn, fun h => absurd hcn (by rw [h]; decide), hext⟩
    · rw [Bool.not_eq_true] at hcn
      cases hrest : extremeTerm less cs with
      | none =>
        rw [extremeTerm_cons_none hcn hrest]
        refine ⟨nofun, fun y hy => ?_⟩
        obtain rfl := Option.some.inj hy
        exact ⟨List.mem_cons_self, hcn, fun _ => .refl _ _, fun b hb h => absurd (hnone hrest b hb) (by rw [h]; decide)⟩
      | some z =>
        obtain ⟨hmem, hzn, hext⟩ := hsome z hrest
        have heq : extremeTerm less (c :: cs) = some (pick less c z) := extremeTerm_cons hcn hrest
        refine ⟨fun h => absurd (heq.symm.trans h) nofun, fun y hy => ?_⟩
        obtain rfl := Option.some.inj (heq.symm.trans hy)
        obtain ⟨hpick, hcz⟩ | ⟨hpick, hzc⟩ := pick_spec less hc (hcs z hmem) hcn hzn <;> rw [hpick]
        · exact ⟨List.mem_cons_self, hcn, fun _ => .refl _ _, fun b hb hbn => hcz.trans (hext b hb hbn)⟩
        · exact ⟨List.mem_cons_of_mem _ hmem, hzn, fun _ => hzc, hext⟩

/-! ### The words of a float reduction (R111, R151) -/

theorem flushBits_lt (ftz : Bool) (w : Word) : flushBits .f32 ftz w.toNat < 2 ^ 32 := by
  have hw := w.isLt
  unfold flushBits
  split
  · split
    · split <;> decide
    · exact hw
  · exact hw

/-- A flushed word signals as the value that it is read as does. -/
theorem snan_flushBits (ftz : Bool) (b : Nat) : (decodeFloat .f32 (flushBits .f32 ftz b)).snan = (readFloat .f32 ftz b).snan := by
  have hzero (n : Bool) : (decodeFloat .f32 (if n then 2 ^ (Fmt.width .f32 - 1) else 0)).snan = false := by cases n <;> decide
  unfold flushBits readFloat
  cases h : decodeFloat .f32 b with
  | nan s => simp only [h]
  | inf n => simp only [h]
  | fin n m e =>
    dsimp only
    split
    · exact hzero n
    · rw [h]

section
variable {ftz : Bool} {rnd : RndMode} {ws : List Word}

/-- The values of the words of a reduction. -/
def redValues (ftz : Bool) (ws : List Word) : List FVal := ws.map fun w => readFloat .f32 ftz w.toNat

/-- The words of a reduction after R111. -/
def redWords (ftz : Bool) (ws : List Word) : List Nat := ws.map fun w => flushBits .f32 ftz w.toNat

theorem any_snan_redWords (ftz : Bool) (ws : List Word) :
    ((redWords ftz ws).any fun b => (decodeFloat .f32 b).snan) = (redValues ftz ws).any FVal.snan := by
  simp only [redWords, redValues, List.any_map, Function.comp_def, snan_flushBits]

theorem reduce_sum (t : ETypeCode) (sat : Bool) (h : ws ≠ []) :
    reduce 6 t sat ftz rnd ws = (BitVec.ofNat 32 (sumRound .f32 rnd ftz false (redValues ftz ws)).1,
      (sumRound .f32 rnd ftz false (redValues ftz ws)).2) := by
  have hmap : (ws.map BitVec.toNat).map (readFloat .f32 ftz) = redValues ftz ws := List.map_map
  rw [← hmap]
  exact if_neg (by simpa using h)

theorem reduce_extreme (less : Bool) (t : ETypeCode) (sat : Bool) (h : ws ≠ []) :
    reduce (if less then 7 else 8) t sat ftz rnd ws
      = (BitVec.ofNat 32 ((extremeTerm less (redWords ftz ws)).getD (Fmt.qnan .f32)),
        flagIf ((redValues ftz ws).any FVal.snan) flagIV) := by
  have hmap : (ws.map BitVec.toNat).map (flushBits .f32 ftz) = redWords ftz ws := List.map_map
  rw [← any_snan_redWords, ← hmap]
  cases less <;> exact if_neg (by simpa using h)

end

section
variable {V : List FVal} {mode : RndMode} {ftz : Bool}

/-- R113: an exact zero sum of zeros of one sign has that sign; else it is +0, or -0 when rounding down. -/
theorem signBits_zeroSign (mode : RndMode) (h : V ≠ []) :
    let r : Word := BitVec.ofNat 32 (signBits .f32 (zeroSign mode V))
    ((∀ v ∈ V, ∃ e, v = .fin true 0 e) → r = 0x80000000) ∧ ((∀ v ∈ V, ∃ e, v = .fin false 0 e) → r = 0)
    ∧ (¬(∀ v ∈ V, ∃ e, v = .fin true 0 e) → ¬(∀ v ∈ V, ∃ e, v = .fin false 0 e) → r = if mode = 3 then 0x80000000 else 0) := by
  intro r
  refine ⟨fun hneg => ?neg, fun hpos => ?pos, fun hneg hpos => ?mixed⟩ <;> simp only [r, zeroSign]
  case neg =>
    rw [if_pos ((allZero_neg_iff V).mpr hneg)]
    rfl
  case pos =>
    have hneg : ¬ ∀ v ∈ V, ∃ e, v = .fin true 0 e := fun hneg => by
      obtain ⟨v, hv⟩ := List.exists_mem_of_ne_nil V h
      obtain ⟨e, rfl⟩ := hpos v hv
      obtain ⟨e', he⟩ := hneg _ hv
      cases he
    rw [if_neg (mt (allZero_neg_iff V).mp hneg), if_pos ((allZero_pos_iff V).mpr hpos)]
    rfl
  case mixed =>
    rw [if_neg (mt (allZero_neg_iff V).mp hneg), if_neg (mt (allZero_pos_iff V).mp hpos)]
    by_cases hm : mode = 3
    · rw [if_pos hm, decide_eq_true hm]
      rfl
    · rw [if_neg hm, decide_eq_false hm]
      rfl

end

/-! ### Float reductions (R151) -/

section
variable {ftz : Bool} {rnd : RndMode} {ws : List Word} {o : Nat}

theorem ne_nil_of_mem_redValues {v : FVal} (h : v ∈ redValues ftz ws) : ws ≠ [] := by
  rintro rfl
  exact List.not_mem_nil h

theorem redValues_ne_nil (h : ws ≠ []) : redValues ftz ws ≠ [] := mt List.map_eq_nil_iff.mp h

/-- The flag of a NaN result: IV for a signalling term, and for infinities of both signs. -/
theorem flagIf_nan_sum (V : List FVal) :
    let fl := flagIf (V.any FVal.snan || ((V.any fun v => v == .inf false) && V.any fun v => v == .inf true)) flagIV
    ((∃ v ∈ V, v.snan = true) ∨ (.inf false ∈ V ∧ .inf true ∈ V) → fl = flagIV)
    ∧ (¬ (∃ v ∈ V, v.snan = true) → ¬ (.inf false ∈ V ∧ .inf true ∈ V) → fl = 0) := by
  rw [← any_eq_iff_mem, ← any_eq_iff_mem, ← List.any_eq_true]
  generalize V.any FVal.snan = sn
  generalize (V.any fun v => v == .inf false) = p
  generalize (V.any fun v => v == .inf true) = n
  revert sn p n
  decide

/-- R151: the exact sum of the terms, rounded once. -/
theorem floatReduced_sum (t : ETypeCode) (sat : Bool) :
    floatReduced 6 ftz rnd ws (reduce 6 t sat ftz rnd ws).1 (reduce 6 t sat ftz rnd ws).2 := by
  unfold floatReduced
  intro V B nan rank signals both value
  have hV : V = redValues ftz ws := rfl
  clear_value V
  subst hV
  have hvalue : value = scaledTo := by
    funext g v
    rcases v with s | n | ⟨n, m, e⟩
    · rfl
    · rfl
    · cases n <;> simp [value, scaledTo]
  clear_value value
  subst hvalue
  refine ⟨fun hws => ?empty, fun _ => ⟨fun h => ?canonical, fun hnan n hin hout => ?infinite, fun g hws hfin hleast => ?finite⟩, fun h => by omega⟩
  case empty =>
    subst hws
    exact ⟨rfl, rfl⟩
  case canonical =>
    have hws : ws ≠ [] := h.elim (fun ⟨_, hv, _⟩ => ne_nil_of_mem_redValues hv) fun hb => ne_nil_of_mem_redValues hb.1
    rw [reduce_sum t sat hws, sumRound_of_nan h]
    exact ⟨rfl, flagIf_nan_sum _⟩
  case infinite =>
    rw [reduce_sum t sat (ne_nil_of_mem_redValues hin), sumRound_of_inf hnan hin hout]
    cases n <;> exact ⟨rfl, rfl⟩
  case finite =>
    have hle : ∀ n m e, .fin n m e ∈ redValues ftz ws → m ≠ 0 → g ≤ e := fun n m e hv => by
      obtain ⟨n', m', e', he, hg⟩ := hfin _ hv
      cases he
      exact hg
    obtain ⟨hsum, hexp⟩ := sum_scaledTo_minExp hle hleast
    rw [reduce_sum t sat hws, sumRound_of_fin fun v hv => (hfin v hv).imp fun n => Exists.imp fun m => Exists.imp fun e => And.left]
    dsimp only
    rw [hsum]
    refine ⟨fun hne => ?_, fun hz => ?_⟩
    · rw [if_neg hne, hexp hne]
      exact ⟨rfl, rfl⟩
    · rw [if_pos hz]
      exact ⟨rfl, signBits_zeroSign rnd (redValues_ne_nil hws)⟩

/-- R151: the least or the greatest of the terms that are not NaNs. -/
theorem floatReduced_extreme (less : Bool) (t : ETypeCode) (sat : Bool) :
    let r := reduce (if less then 7 else 8) t sat ftz rnd ws
    floatReduced (if less then 7 else 8) ftz rnd ws r.1 r.2 := by
  intro r
  unfold floatReduced
  intro V B nan rank signals both value
  have hB : B = redWords ftz ws := rfl
  clear_value B
  subst hB
  refine ⟨fun hws => ?empty, fun h => absurd h (by cases less <;> decide), fun _ hws => ?terms⟩
  case empty =>
    subst hws
    cases less <;> exact ⟨rfl, rfl⟩
  case terms =>
    have hlt : ∀ b ∈ redWords ftz ws, b < 2 ^ 32 := List.forall_mem_map.mpr fun w _ => flushBits_lt ftz w
    obtain ⟨hnone, hsome⟩ := extremeTerm_spec less hlt
    have hr : r = _ := reduce_extreme less t sat hws
    clear_value r
    subst hr
    refine ⟨fun hs => congrArg (flagIf · flagIV) (List.any_eq_true.mpr hs),
      fun hs => congrArg (flagIf · flagIV) (Bool.eq_false_iff.mpr (mt List.any_eq_true.mp hs)), ?_⟩
    cases hy : extremeTerm less (redWords ftz ws) with
    | none => exact ⟨fun _ => rfl, fun ⟨b, hb, hbn⟩ => absurd (hnone hy b hb) (Bool.not_eq_true _ ▸ hbn)⟩
    | some y =>
      obtain ⟨hmem, hyn, hext⟩ := hsome y hy
      refine ⟨fun hall => absurd (hall y hmem) (Bool.not_eq_true _ ▸ hyn), fun _ => ?_⟩
      rw [Option.getD_some, BitVec.toNat_ofNat, Nat.mod_eq_of_lt (hlt y hmem)]
      refine ⟨hmem, hyn, fun b hb hbn => ?_⟩
      have hyb := hext b hb hbn
      cases less
      · exact hyb
      · exact hyb

/-- R151, for the operations 6 to 8. -/
theorem floatReduced_reduce (hlo : 6 ≤ o) (hhi : o ≤ 8) (t : ETypeCode) (sat : Bool) :
    floatReduced o ftz rnd ws (reduce o t sat ftz rnd ws).1 (reduce o t sat ftz rnd ws).2 := by
  interval_cases o
  · exact floatReduced_sum t sat
  · exact floatReduced_extreme true t sat
  · exact floatReduced_extreme false t sat

theorem reduce_nil_flags (hlo : 6 ≤ o) (hhi : o ≤ 8) (t : ETypeCode) (sat : Bool) : (reduce o t sat ftz rnd []).2 = 0 := by
  interval_cases o <;> rfl

end

/-! ### The lane that VRED's trap names (R152) -/

section
variable {m : Mask}

theorem exists_active_of_ne_zero (hm : m ≠ 0) : ∃ l, l < 128 ∧ m.getLsbD l = true := by
  by_contra h
  push Not at h
  exact hm (BitVec.eq_of_getLsbD_eq fun l hl => by simpa using h l hl)

/-- The first lane of a mask with a property. -/
theorem find_activeLanes {p : Nat → Bool} (h : ∃ l, m.getLsbD l = true ∧ p l = true) :
    ∃ L, (activeLanes m).find? p = some L ∧ m.getLsbD L = true ∧ p L = true ∧ ∀ l, l < L → m.getLsbD l = true → p l = false := by
  obtain ⟨k, hk, hpk⟩ := h
  have hfind : ((activeLanes m).find? p).isSome := by
    rw [List.find?_isSome]
    exact ⟨k, List.mem_filter.mpr ⟨List.mem_range.mpr (BitVec.lt_of_getLsbD hk), hk⟩, hpk⟩
  obtain ⟨L, hL⟩ := Option.isSome_iff_exists.mp hfind
  refine ⟨L, hL, ?_⟩
  rw [activeLanes, List.find?_filter, lanes, List.find?_range_eq_some] at hL
  obtain ⟨hsome, -, hbelow⟩ := hL
  obtain ⟨hact, hp⟩ := of_decide_eq_true hsome
  exact ⟨hact, hp, fun l hl hml => by simpa [hml] using hbelow l hl⟩

theorem lowestLane_spec (hm : m ≠ 0) : ∃ L, lowestLane m = some L ∧ m.getLsbD L = true ∧ ∀ l, l < L → m.getLsbD l = false := by
  obtain ⟨k, hk, hmk⟩ := exists_active_of_ne_zero hm
  have hfind : (lowestLane m).isSome := List.find?_isSome.mpr ⟨k, List.mem_range.mpr hk, hmk⟩
  obtain ⟨L, hL⟩ := Option.isSome_iff_exists.mp hfind
  obtain ⟨hact, -, hbelow⟩ := List.find?_range_eq_some.mp hL
  exact ⟨L, hL, hact, fun l hl => by simpa using hbelow l hl⟩

variable {x : Group} {a c : Nat}

/-- Whether a lane's term is a signalling NaN. -/
def laneSignals (x : Group) (a l : Nat) : Bool := (decodeFloat .f32 (x.regs.readV a l).toNat).snan

/-- R152: an IV trap names the lowest signalling lane, where there is one. -/
theorem redLane_of_signal (h : ∃ l, m.getLsbD l = true ∧ laneSignals x a l = true) :
    let L := redLane x a 0x20 m
    m.getLsbD L = true ∧ laneSignals x a L = true ∧ ∀ l, l < L → m.getLsbD l = true → laneSignals x a l = false := by
  obtain ⟨L, hL, hspec⟩ := find_activeLanes h
  have hred : redLane x a 0x20 m = L := by
    unfold laneSignals at hL
    simp only [redLane, hL]
  rw [hred]
  exact hspec

theorem redLane_of_no_signal (hm : m ≠ 0) (h : ¬ (c = 0x20 ∧ ∃ l, m.getLsbD l = true ∧ laneSignals x a l = true)) :
    let L := redLane x a c m
    m.getLsbD L = true ∧ ∀ l, l < L → m.getLsbD l = false := by
  obtain ⟨L, hL, hspec⟩ := lowestLane_spec hm
  have hred : redLane x a c m = L := by
    unfold redLane
    dsimp only
    split
    case h_1 l hsig =>
      have hmem := List.mem_filter.mp (List.mem_of_find?_eq_some hsig)
      exact absurd ⟨rfl, l, hmem.2, List.find?_some hsig⟩ h
    case h_2 => rw [hL]; rfl
  rw [hred]
  exact hspec

end

end Sys2Proof.Machine
end

section
/-! CERTIFICATES. Reductions. -/

namespace Sys2Proof.Machine

open Sys2Proof

/-- R151, R152, R153, R120. -/
theorem floatReductions : Claims.FloatReductions := by
  intro st d a o s x hlo hhi m red signals q qr
  have htypes : redTypes o.toNat = setG := if_neg (by omega)
  have hred (ls : List Nat) : red ls (reduceLanes s x o.toNat a.toNat ls).1 (reduceLanes s x o.toNat a.toNat ls).2 :=
    floatReduced_reduce hlo hhi _ _
  refine ⟨fun h => ⟨_, _, hred _, fun hn => ?quiet, fun c hc => ?traps⟩, fun ex => ⟨fun l => reduceLanes s x o.toNat a.toNat (scanLanes m ex l),
    fun l => hred _, ?scan⟩⟩
  case quiet =>
    have answer := exec_vred_of_none htypes h hn
    rw [vecVal_zero] at answer
    exact ⟨_, answer, fun l hl hact => (laneGet_lanes _ hl).trans (if_pos hact)⟩
  case traps =>
    have hm : m ≠ 0 := fun hm => by
      have hnil : activeLanes m = [] := by rw [hm]; decide
      rw [reduceLanes, hnil, List.map_nil, reduce_nil_flags hlo hhi, enabledCause_zero] at hc
      cases hc
    have answer := exec_vred_of_some htypes h hc
    by_cases hiv : c = 0x20 ∧ ∃ l, m.getLsbD l = true ∧ signals l = true
    · obtain ⟨rfl, hsig⟩ := hiv
      obtain ⟨hact, hspec⟩ := redLane_of_signal hsig
      exact ⟨_, hact, answer, fun _ => hspec, fun hno => absurd ⟨rfl, hsig⟩ hno⟩
    · obtain ⟨hact, hspec⟩ := redLane_of_no_signal hm hiv
      exact ⟨_, hact, answer, fun hyes => absurd hyes hiv, fun _ => hspec⟩
  case scan =>
    exact flagsGive_of_withFlags (z := (0, 0)) (ws := fun r => [r.1]) (p := Prod.snd) rfl (fun j => by cases j <;> rfl)
      (exec_vscan_of_empty htypes) (exec_vscan htypes) (fun _ _ => rfl) fun _ => rfl

/-- Settles O6: the integer and the float reductions are folds over the active lanes, and VRED and VSCAN write them. -/
theorem vectorReductions : Obligations.VectorReductions := ⟨integerReductions, floatReductions⟩

end Sys2Proof.Machine
end
